-- ==== Sys2Proof/Word.lean ====
section
/-! DEFINITION. The word types of the KX9 and the list maps State is made of (00:R5, 04:R54, 04:R57). -/

namespace Sys2Proof

/-- A byte. -/
abbrev Byte := BitVec 8

/-- A 32-bit word: one frame register, uniform register or instruction word. -/
abbrev Word := BitVec 32

/-- A 64-bit value: a register pair, an address, a device time. -/
abbrev DWord := BitVec 64

/-- Data kept by a number: slots, entries, ids. Keys rise strictly; a number that is not listed holds nothing. -/
abbrev Map (α : Type) := List (Nat × α)

namespace Map

variable {α : Type}

/-- What the map holds at `k`. -/
def get? : Map α → Nat → Option α
  | [], _ => none
  | (j, a) :: m, k => if j = k then some a else get? m k

/-- What the map holds at `k`, or `d`. -/
def getD (m : Map α) (k : Nat) (d : α) : α := (m.get? k).getD d

/-- The map with `a` at `k`. -/
def set : Map α → Nat → α → Map α
  | [], k, a => [(k, a)]
  | (j, b) :: m, k, a =>
    if k < j then (k, a) :: (j, b) :: m
    else if k = j then (k, a) :: m
    else (j, b) :: set m k a

/-- The map with nothing at `k`. -/
def del : Map α → Nat → Map α
  | [], _ => []
  | (j, b) :: m, k => if k = j then del m k else (j, b) :: del m k

/-- Does the map hold something at `k`? -/
def has (m : Map α) (k : Nat) : Bool := (m.get? k).isSome

/-- The lowest number at or above `lo`, among the next `n`, at which the map holds nothing. -/
def free (m : Map α) (lo : Nat) : Nat → Option Nat
  | 0 => none
  | n + 1 => if m.has lo then free m (lo + 1) n else some lo

end Map

end Sys2Proof
end

