-- ==== Sys2Proof/Machine/Bits.lean ====
section
/-! DEFINITION. Bit fields, extensions, byte order and the integer functions of 02:R32 (Table 6), 04:R54 and R57. -/

namespace Sys2Proof.Machine

/-- bits(x, lo, width): an unsigned field (02 Table 6). -/
def bits (x lo width : Nat) : Nat := (x >>> lo) % 2 ^ width

/-- One bit. -/
def bit (x i : Nat) : Bool := x.testBit i

/-- `x` with the field lo+width replaced by `v`. -/
def setBits (x lo width v : Nat) : Nat :=
  x - (bits x lo width) * 2 ^ lo + (v % 2 ^ width) * 2 ^ lo

/-- sext(x, w): the signed reading of the low `w` bits. -/
def sext (x w : Nat) : Int :=
  let y := x % 2 ^ w
  if w = 0 then 0 else if y < 2 ^ (w - 1) then (y : Int) else (y : Int) - (2 ^ w : Nat)

/-- wrap(x, w): x mod 2^w as `w` bits. -/
def wrap (x : Int) (w : Nat) : Nat := (x % ((2 ^ w : Nat) : Int)).toNat

/-- sat(x, lo, hi). -/
def sat (x lo hi : Int) : Int := if x < lo then lo else if x > hi then hi else x

/-- align(a, n): rounded down to a multiple. -/
def alignDown (a n : Nat) : Nat := a / n * n

/-- Round up to a multiple. -/
def alignUp (a n : Nat) : Nat := (a + n - 1) / n * n

/-- Number of 1 bits among the low `w`. -/
def popcount : Nat → Nat → Nat
  | _, 0 => 0
  | x, w + 1 => (if x.testBit w then 1 else 0) + popcount x w

/-- Number of leading 0 bits of a `w`-bit value. -/
def clz : Nat → Nat → Nat
  | _, 0 => 0
  | x, w + 1 => if x.testBit w then 0 else 1 + clz x w

/-- Trailing 0 bits from bit `i` on, with `n` bits left. -/
def ctzFrom (x : Nat) : Nat → Nat → Nat
  | _, 0 => 0
  | i, n + 1 => if x.testBit i then 0 else 1 + ctzFrom x (i + 1) n

/-- Number of trailing 0 bits of a `w`-bit value. -/
def ctz (x w : Nat) : Nat := ctzFrom x 0 w

/-- The low `w` bits in reversed order. -/
def bitrev : Nat → Nat → Nat
  | _, 0 => 0
  | x, w + 1 => (if x.testBit 0 then 2 ^ w else 0) + bitrev (x / 2) w

/-- The bytes of a value, little-endian (02 Table 6, 04:R54). -/
def toBytes (x : Nat) : Nat → List Byte
  | 0 => []
  | n + 1 => BitVec.ofNat 8 (x % 256) :: toBytes (x / 256) n

/-- The value of bytes, little-endian. -/
def ofBytes : List Byte → Nat
  | [] => 0
  | b :: bs => b.toNat + 256 * ofBytes bs

/-- The words of a value, low word first (04:R54). -/
def toWords (x : Nat) : Nat → List Word
  | 0 => []
  | n + 1 => BitVec.ofNat 32 (x % 2 ^ 32) :: toWords (x / 2 ^ 32) n

/-- The value of words, low word first. -/
def ofWords : List Word → Nat
  | [] => 0
  | w :: ws => w.toNat + 2 ^ 32 * ofWords ws

/-- The bytes in reversed order. -/
def byteswap (x n : Nat) : Nat := ofBytes (toBytes x n).reverse

/-- Element `i` of a list of words, 0 beyond its end. -/
def wordAt (ws : List Word) (i : Nat) : Nat := (ws.getD i 0).toNat

/-- The list with element `i` replaced. -/
def setAt {α : Type} : List α → Nat → α → List α
  | [], _, _ => []
  | _ :: xs, 0, a => a :: xs
  | x :: xs, i + 1, a => x :: setAt xs i a

/-- The list with element `i` changed by `f`. -/
def modAt {α : Type} : List α → Nat → (α → α) → List α
  | [], _, _ => []
  | x :: xs, 0, f => f x :: xs
  | x :: xs, i + 1, f => x :: modAt xs i f

/-- The least element of a list of numbers. -/
def minOf : List Nat → Option Nat
  | [] => none
  | x :: xs => match minOf xs with
    | none => some x
    | some y => some (if x < y then x else y)

/-- trunc(a / b) for b ≠ 0 (06:R106). -/
def tdiv (a b : Int) : Int := Int.tdiv a b

/-- Numbers lo, lo + 1, …, n of them. -/
def rangeFrom (lo n : Nat) : List Nat := (List.range n).map (lo + ·)

/-- Do the ranges [a, a + n) and [b, b + m) meet? -/
def overlap (a n b m : Nat) : Bool := decide (a < b + m) && decide (b < a + n)

end Sys2Proof.Machine
end

