-- ==== Sys2Proof/Machine/Float.lean ====
section
/-! DEFINITION. Floating-point formats, rounding and flags (04:R55, R56, R64 to R68; 06:R102, R107). Values are exact
dyadic numbers until they are rounded once. -/

namespace Sys2Proof.Machine

/-- A format of 04 Table 1: `eb` exponent bits and `mb` fraction bits. -/
structure Fmt where
  eb : Nat
  mb : Nat
deriving DecidableEq, Repr

def Fmt.f64 : Fmt := ⟨11, 52⟩
def Fmt.f32 : Fmt := ⟨8, 23⟩
def Fmt.f16 : Fmt := ⟨5, 10⟩
def Fmt.bf16 : Fmt := ⟨8, 7⟩

def Fmt.width (f : Fmt) : Nat := 1 + f.eb + f.mb
def Fmt.bias (f : Fmt) : Nat := 2 ^ (f.eb - 1) - 1
/-- The exponent of the smallest normal value. -/
def Fmt.emin (f : Fmt) : Int := 1 - (f.bias : Int)
/-- The sign bit. -/
def Fmt.sign (f : Fmt) (neg : Bool) : Nat := if neg then 2 ^ (f.eb + f.mb) else 0
def Fmt.inf (f : Fmt) (neg : Bool) : Nat := f.sign neg + (2 ^ f.eb - 1) * 2 ^ f.mb
/-- The canonical quiet NaN (04:R56). -/
def Fmt.nan (f : Fmt) : Nat := (2 ^ f.eb - 1) * 2 ^ f.mb + 2 ^ (f.mb - 1)
def Fmt.maxFinite (f : Fmt) (neg : Bool) : Nat := f.inf neg - 1

/-- The value of a floating-point pattern: (−1)^neg × m × 2^e when finite. -/
inductive FVal
  | nan (signalling : Bool)
  | inf (neg : Bool)
  | fin (neg : Bool) (m : Nat) (e : Int)
deriving DecidableEq, Repr

/-- Exception flags in the order of STATUS.XF (04 Table 8). -/
abbrev XFlags := Nat
def xNV : XFlags := 1
def xDZ : XFlags := 2
def xOF : XFlags := 4
def xUF : XFlags := 8
def xNX : XFlags := 16
def xSAT : XFlags := 32

/-- The value a pattern of format `f` encodes (04:R55). -/
def Fmt.decode (f : Fmt) (x : Nat) : FVal :=
  let neg := x.testBit (f.eb + f.mb)
  let ex := bits x f.mb f.eb
  let fr := x % 2 ^ f.mb
  if ex = 2 ^ f.eb - 1 then
    if fr = 0 then .inf neg else .nan (!fr.testBit (f.mb - 1))
  else if ex = 0 then .fin neg fr (f.emin - f.mb)
  else .fin neg (fr + 2 ^ f.mb) ((ex : Int) - f.bias - f.mb)

/-- Rounding modes (04:R64, Table 7). -/
inductive RMode
  | rne | rz | rd | ru | rna
deriving DecidableEq, Repr

/-- RM as a rounding mode: 5 is as-T, RNE but for CVT (03:R39). -/
def RMode.ofRM : Nat → RMode
  | 1 => .rz
  | 2 => .rd
  | 3 => .ru
  | 4 => .rna
  | _ => .rne

/-- T of CVT as a rounding mode (03 Table 7). -/
def RMode.ofT : Nat → RMode
  | 1 => .rz
  | 2 => .rd
  | 3 => .ru
  | _ => .rne

/-- Does a magnitude with integer part odd or even, remainder `rem` below `2^sh` and a nonzero tail `sticky` round
away from zero? -/
def roundsUp (mode : RMode) (neg odd : Bool) (rem sh : Nat) (sticky : Bool) : Bool :=
  let inexact := rem ≠ 0 || sticky
  match mode with
  | .rz => false
  | .rd => neg && inexact
  | .ru => !neg && inexact
  | .rne => sh ≠ 0 && (decide (2 * rem > 2 ^ sh) || (2 * rem = 2 ^ sh && (sticky || odd)))
  | .rna => sh ≠ 0 && decide (2 * rem ≥ 2 ^ sh)

/-- `m × 2^e` (plus a nonzero tail below the last bit if `sticky`) rounded to a multiple of `2^q`: the multiple and
whether it is inexact. -/
def roundAt (mode : RMode) (neg : Bool) (m : Nat) (e q : Int) (sticky : Bool) : Nat × Bool :=
  if q ≤ e then
    let k := m * 2 ^ (e - q).toNat
    ((if roundsUp mode neg (k % 2 = 1) 0 0 sticky then k + 1 else k), sticky)
  else
    let sh := (q - e).toNat
    let k := m / 2 ^ sh
    let rem := m % 2 ^ sh
    ((if roundsUp mode neg (k % 2 = 1) rem sh sticky then k + 1 else k), rem ≠ 0 || sticky)

/-- A rounded result: its pattern, its flags, and whether it overflowed the format (04:R68). -/
structure FRes where
  v : Nat
  fl : XFlags
  ovf : Bool
deriving DecidableEq, Repr

/-- The IEEE default of an overflow in a mode (04:R65). -/
def Fmt.overflow (f : Fmt) (mode : RMode) (neg : Bool) : Nat :=
  match mode with
  | .rne => f.inf neg
  | .rna => f.inf neg
  | .rz => f.maxFinite neg
  | .rd => if neg then f.inf true else f.maxFinite false
  | .ru => if neg then f.maxFinite true else f.inf false

/-- Round a finite nonzero magnitude into the format (04:R64, R65). -/
def Fmt.roundFin (f : Fmt) (mode : RMode) (neg : Bool) (m : Nat) (e : Int) (sticky : Bool) : FRes :=
  if m = 0 then ⟨f.sign neg, 0, false⟩ else
  let lead : Int := (Nat.log2 m : Int) + e
  let q0 := lead - f.mb
  let q := if q0 < f.emin - f.mb then f.emin - f.mb else q0
  let (k, inexact) := roundAt mode neg m e q sticky
  let (k0, _) := roundAt mode neg m e q0 sticky
  let tiny := decide ((Nat.log2 k0 : Int) + q0 < f.emin)
  let (k1, q1) := if k ≥ 2 ^ (f.mb + 1) then (k / 2, q + 1) else (k, q)
  if k1 < 2 ^ f.mb then
    ⟨f.sign neg + k1, (if inexact then xNX + (if tiny then xUF else 0) else 0), false⟩
  else
    let ex := q1 + f.mb + f.bias
    if ex ≥ 2 ^ f.eb - 1 then ⟨f.overflow mode neg, xOF + xNX, true⟩
    else
      ⟨f.sign neg + ex.toNat * 2 ^ f.mb + (k1 - 2 ^ f.mb),
        (if inexact then xNX + (if tiny then xUF else 0) else 0), false⟩

/-- Round an exact value into the format. -/
def Fmt.round (f : Fmt) (mode : RMode) : FVal → FRes
  | .nan s => ⟨f.nan, if s then xNV else 0, false⟩
  | .inf neg => ⟨f.inf neg, 0, false⟩
  | .fin neg m e => f.roundFin mode neg m e false

/-- The magnitude with its sign, over 2^e0 for a common exponent e0 ≤ e. -/
def scaled (neg : Bool) (m : Nat) (e e0 : Int) : Int :=
  let k : Int := (m * 2 ^ (e - e0).toNat : Nat)
  if neg then -k else k

/-- Is the value a signalling NaN? -/
def FVal.snan : FVal → Bool
  | .nan s => s
  | .inf _ => false
  | .fin _ _ _ => false

def FVal.isNan : FVal → Bool
  | .nan _ => true
  | .inf _ => false
  | .fin _ _ _ => false

/-- NV for signalling operands. -/
def nvOf (xs : List FVal) : XFlags := if xs.any FVal.snan then xNV else 0

def FVal.negate : FVal → FVal
  | .nan s => .nan s
  | .inf n => .inf (!n)
  | .fin n m e => .fin (!n) m e

/-- Exact sum; an exact zero of opposite signs is −0 only under RD (06:R102). -/
def faddX (mode : RMode) (a b : FVal) : FVal × XFlags :=
  match a, b with
  | .nan _, _ => (.nan false, nvOf [a, b])
  | _, .nan _ => (.nan false, nvOf [a, b])
  | .inf n, .inf n' => if n = n' then (.inf n, 0) else (.nan false, xNV)
  | .inf n, .fin _ _ _ => (.inf n, 0)
  | .fin _ _ _, .inf n => (.inf n, 0)
  | .fin n m e, .fin n' m' e' =>
    let e0 := if e ≤ e' then e else e'
    let s := scaled n m e e0 + scaled n' m' e' e0
    if s = 0 then
      (.fin (if n = n' then n else decide (mode = .rd)) 0 e0, 0)
    else (.fin (decide (s < 0)) s.natAbs e0, 0)

/-- Exact product. -/
def fmulX (a b : FVal) : FVal × XFlags :=
  match a, b with
  | .nan _, _ => (.nan false, nvOf [a, b])
  | _, .nan _ => (.nan false, nvOf [a, b])
  | .inf n, .inf n' => (.inf (n != n'), 0)
  | .inf n, .fin n' m _ => if m = 0 then (.nan false, xNV) else (.inf (n != n'), 0)
  | .fin n m _, .inf n' => if m = 0 then (.nan false, xNV) else (.inf (n != n'), 0)
  | .fin n m e, .fin n' m' e' => (.fin (n != n') (m * m') (e + e'), 0)

/-- Exact a × b + c; zero times infinity is invalid whatever the addend (06:R102). -/
def ffmaX (mode : RMode) (a b c : FVal) : FVal × XFlags :=
  let zeroInf := match a, b with
    | .inf _, .fin _ 0 _ => true
    | .fin _ 0 _, .inf _ => true
    | _, _ => false
  if zeroInf then (.nan false, xNV) else
  if a.isNan || b.isNan || c.isNan then (.nan false, nvOf [a, b, c]) else
  let (p, f1) := fmulX a b
  let (s, f2) := faddX mode p c
  (s, f1 ||| f2)

/-- An exact value rounded, with the flags of the operation before it. -/
def Fmt.finish (f : Fmt) (mode : RMode) (r : FVal × XFlags) : FRes :=
  let q := f.round mode r.1
  ⟨q.v, q.fl ||| r.2, q.ovf⟩

def Fmt.add (f : Fmt) (mode : RMode) (a b : Nat) : FRes := f.finish mode (faddX mode (f.decode a) (f.decode b))
def Fmt.sub (f : Fmt) (mode : RMode) (a b : Nat) : FRes :=
  f.finish mode (faddX mode (f.decode a) (f.decode b).negate)
def Fmt.mul (f : Fmt) (mode : RMode) (a b : Nat) : FRes := f.finish mode (fmulX (f.decode a) (f.decode b))
def Fmt.fma (f : Fmt) (mode : RMode) (a b c : Nat) : FRes :=
  f.finish mode (ffmaX mode (f.decode a) (f.decode b) (f.decode c))

/-- The quotient m × 2^e / (m′ × 2^e′) rounded (m, m′ ≠ 0). -/
def Fmt.divFin (f : Fmt) (mode : RMode) (neg : Bool) (m : Nat) (e : Int) (m' : Nat) (e' : Int) : FRes :=
  let k := f.mb + 4 + Nat.log2 m'
  let n := m * 2 ^ k
  f.roundFin mode neg (n / m') (e - e' - k) (n % m' ≠ 0)

/-- Division by IEEE 754-2019 (06:R106). -/
def Fmt.div (f : Fmt) (mode : RMode) (a b : Nat) : FRes :=
  let x := f.decode a
  let y := f.decode b
  match x, y with
  | .nan _, _ => ⟨f.nan, nvOf [x, y], false⟩
  | _, .nan _ => ⟨f.nan, nvOf [x, y], false⟩
  | .inf _, .inf _ => ⟨f.nan, xNV, false⟩
  | .inf n, .fin n' _ _ => ⟨f.inf (n != n'), 0, false⟩
  | .fin n _ _, .inf n' => ⟨f.sign (n != n'), 0, false⟩
  | .fin n m e, .fin n' m' e' =>
    if m' = 0 then (if m = 0 then ⟨f.nan, xNV, false⟩ else ⟨f.inf (n != n'), xDZ, false⟩)
    else if m = 0 then ⟨f.sign (n != n'), 0, false⟩
    else f.divFin mode (n != n') m e m' e'

/-- floor(√x) bit by bit: `r` is the root found so far, `n` bits are left. -/
def isqrtFrom (x r : Nat) : Nat → Nat
  | 0 => r
  | n + 1 => if (r + 2 ^ n) * (r + 2 ^ n) ≤ x then isqrtFrom x (r + 2 ^ n) n else isqrtFrom x r n

/-- floor(√x). -/
def isqrt (x : Nat) : Nat := isqrtFrom x 0 (Nat.log2 x / 2 + 1)

/-- √(m × 2^e) rounded (m ≠ 0). -/
def Fmt.sqrtFin (f : Fmt) (mode : RMode) (m : Nat) (e : Int) : FRes :=
  let (m, e) := if e % 2 = 0 then (m, e) else (2 * m, e - 1)
  let k := f.mb + 4
  let n := m * 2 ^ (2 * k)
  let r := isqrt n
  f.roundFin mode false r (e / 2 - k) (r * r ≠ n)

/-- minimumNumber and maximumNumber (06:R102). -/
def fminmaxX (max : Bool) (a b : FVal) : FVal × XFlags :=
  let fl := nvOf [a, b]
  match a, b with
  | .nan _, .nan _ => (.nan false, fl)
  | .nan _, y => (y, fl)
  | x, .nan _ => (x, fl)
  | x, y =>
    let lt : Bool := match x, y with
      | .inf n, .inf n' => n && !n'
      | .inf n, _ => n
      | _, .inf n => !n
      | .fin n m e, .fin n' m' e' =>
        let e0 := if e ≤ e' then e else e'
        let s := scaled n m e e0
        let s' := scaled n' m' e' e0
        if s = s' then n && !n' else decide (s < s')
      | _, _ => false
    (if lt != max then x else y, fl)

def Fmt.minmax (f : Fmt) (max : Bool) (a b : Nat) : FRes := f.finish .rne (fminmaxX max (f.decode a) (f.decode b))

/-- How two values compare: less, equal, greater, or unordered (06:R107). −0 equals +0. -/
inductive Cmp4
  | lt | eq | gt | un
deriving DecidableEq, Repr

def fcmp (a b : FVal) : Cmp4 :=
  match a, b with
  | .nan _, _ => .un
  | _, .nan _ => .un
  | .inf n, .inf n' => if n = n' then .eq else if n then .lt else .gt
  | .inf n, .fin _ _ _ => if n then .lt else .gt
  | .fin _ _ _, .inf n => if n then .gt else .lt
  | .fin n m e, .fin n' m' e' =>
    let e0 := if e ≤ e' then e else e'
    let s := scaled n m e e0
    let s' := scaled n' m' e' e0
    if s < s' then .lt else if s = s' then .eq else .gt

/-- The condition codes of 06 Table 5. -/
def condHolds (code : Nat) (c : Cmp4) : Bool :=
  match code with
  | 0 => c = .eq
  | 1 => c ≠ .eq
  | 2 => c = .lt
  | 3 => c = .lt || c = .eq
  | 4 => c = .gt
  | 5 => c = .gt || c = .eq
  | 6 => c ≠ .un
  | 7 => c = .un
  | 8 => c = .lt || c = .un
  | 9 => c ≠ .gt
  | 10 => c = .gt || c = .un
  | 11 => c ≠ .lt
  | 12 => c = .lt || c = .gt
  | 13 => c = .eq || c = .un
  | 14 => true
  | _ => false

/-- Comparison of integers. -/
def icmp (a b : Int) : Cmp4 := if a < b then .lt else if a = b then .eq else .gt

/-- A finite value rounded to an integer, and whether it changed (06:R113). -/
def roundInt (mode : RMode) (neg : Bool) (m : Nat) (e : Int) (sticky : Bool) : Int × Bool :=
  let (k, inexact) := roundAt mode neg m e 0 sticky
  (if neg then -(k : Int) else k, inexact)

/-- What a conversion gives: a pattern with its flags, or the fault ARITH_OVERFLOW (04:R68, Table 9). -/
inductive CvtRes
  | ok (v : Nat) (fl : XFlags)
  | overflow
deriving DecidableEq, Repr

/-- An exact value into a floating-point format under an overflow policy (04:R68). -/
def Fmt.cvt (f : Fmt) (mode : RMode) (ov : Nat) (v : FVal) : CvtRes :=
  let neg := match v with
    | .fin n _ _ => n
    | .inf n => n
    | .nan _ => false
  let r := f.round mode v
  if r.ovf then
    match ov with
    | 0 => .ok (f.maxFinite neg) (xOF + xNX)
    | 1 => .ok (f.inf neg) (xOF + xNX)
    | 2 => .ok f.nan (xOF + xNX)
    | _ => .overflow
  else .ok r.v r.fl

/-- An exact value into an integer format of `w` bits, signed or not, under policy 0 or 3 (04:R68). The pattern is
that of `w` bits. -/
def cvtInt (w : Nat) (signed : Bool) (mode : RMode) (ov : Nat) (v : FVal) : CvtRes :=
  let lo : Int := if signed then -(2 ^ (w - 1) : Nat) else 0
  let hi : Int := if signed then (2 ^ (w - 1) : Nat) - 1 else (2 ^ w : Nat) - 1
  match v with
  | .nan _ => if ov = 3 then .overflow else .ok 0 xNV
  | .inf n => if ov = 3 then .overflow else .ok (wrap (if n then lo else hi) w) xNV
  | .fin n m e =>
    let (i, inexact) := roundInt mode n m e false
    if i < lo || hi < i then
      (if ov = 3 then .overflow else .ok (wrap (sat i lo hi) w) xSAT)
    else .ok (wrap i w) (if inexact then xNX else 0)

/-- An integer as an exact value. -/
def FVal.ofInt (i : Int) : FVal := .fin (decide (i < 0)) i.natAbs 0

/-- Round to an integral value of the same format (06:R113): NX if the value changed. -/
def Fmt.roundIntegral (f : Fmt) (mode : RMode) (x : Nat) : Nat × XFlags :=
  match f.decode x with
  | .nan s => (f.nan, if s then xNV else 0)
  | .inf n => (f.inf n, 0)
  | .fin n m e =>
    let (k, inexact) := roundAt mode n m e 0 false
    let r := f.roundFin mode n k 0 false
    (if k = 0 then f.sign n else r.v, if inexact then xNX else 0)

/-- Exact sum of values, rounded once: NaN if one is NaN or both infinities occur (06:R118). -/
def Fmt.sumExact (f : Fmt) (mode : RMode) (vs : List FVal) : FRes :=
  let nanOut : FRes := ⟨f.nan, if vs.any FVal.snan || !(vs.any FVal.isNan) then xNV else 0, false⟩
  if vs.any FVal.isNan then nanOut
  else if vs.contains (.inf true) && vs.contains (.inf false) then nanOut
  else if vs.contains (.inf true) then ⟨f.inf true, 0, false⟩
  else if vs.contains (.inf false) then ⟨f.inf false, 0, false⟩
  else f.finish mode (vs.foldl (fun acc v => ((faddX mode acc.1 v).1, acc.2)) (match vs with
    | [] => (FVal.fin false 0 0, 0)
    | v :: _ => (match v with
      | .fin n _ e => (FVal.fin n 0 e, 0)
      | w => (w, 0))))

end Sys2Proof.Machine
end

