-- ==== Sys2Proof/Machine/Dsb.lean ====
section
/-! DEFINITION. Dual-scale block formats (04:R59 to R63) and the order of sums of the matrix engine (04:R69 to R71). -/

namespace Sys2Proof.Machine

/-- The value of a DSB element code of F magnitude bits under a scale word (04 Tables 4 to 6). -/
def dsbValue (F scale code : Nat) : FVal :=
  let m := code % 2 ^ F
  let neg := bit code F
  let e := if bit code (F + 1) then bits scale 12 12 else bits scale 0 12
  if e = 0 then .fin neg 0 0
  else if e = 0xFFF then .nan false
  else if e = 0xFFE then (if m = 0 then .nan false else .inf neg)
  else .fin neg m ((e : Int) - 2048 - F)

/-- rne(m × 2^e × 2^(F + 2048 − E), int) and whether it is inexact. -/
def dsbRne (F : Nat) (m : Nat) (e : Int) (E : Int) : Nat × Bool := roundAt .rne false m (e + F + 2048 - E) 0 false

/-- The sign of a value. -/
def FVal.sign : FVal → Bool
  | .nan _ => false
  | .inf n => n
  | .fin n _ _ => n

/-- The largest magnitude among finite values, as (m, e). -/
def maxFinite : List FVal → Nat × Int
  | [] => (0, 0)
  | .fin _ m e :: vs =>
    let (m', e') := maxFinite vs
    let e0 := if e ≤ e' then e else e'
    if scaled false m' e' e0 < scaled false m e e0 then (m, e) else (m', e')
  | _ :: vs => maxFinite vs

/-- The smallest E from `E` on, among `n`, under which the largest magnitude fits; 0xFFD if none does. -/
def searchScale (F top : Nat) (m : Nat) (e : Int) : Nat → Nat → Nat
  | 0, _ => 0xFFD
  | n + 1, E => if (dsbRne F m e E).1 ≤ top then E else searchScale F top m e n (E + 1)

/-- What packing gives: the element codes, the scale word, and the flags (04:R62, R63). -/
structure DsbBlock where
  codes : List Nat
  scale : Nat
  fl : XFlags
deriving DecidableEq, Repr

/-- Pack a block of values (04:R62, R63). `negs` are the sign bits of the inputs. No finite input of 04 Table 1 needs an
overflow policy. A fitting E lies within two of the leading bit's place, where the search starts. -/
def dsbPack (F : Nat) (xs : List FVal) : DsbBlock :=
  let top := 2 ^ F - 1
  let nan := xs.any FVal.isNan
  let inf := xs.any fun v => match v with | .inf _ => true | _ => false
  let (fm, fe) := maxFinite xs
  let s0 :=
    if fm = 0 then 0
    else
      let guess := (Nat.log2 fm : Int) + fe + 2048
      searchScale F top fm fe 6 (if guess < 1 then 1 else guess.toNat)
  let s1 := if nan then 0xFFF else if inf then 0xFFE else if s0 = 0 then 0 else s0 - F
  let sel := 2 ^ (F + 1)
  let one (v : FVal) : Nat × XFlags :=
    match v with
    | .nan sn => (sel, if sn then xNV else 0)
    | .inf n => if nan then (sel, xNV) else (sel + (if n then 2 ^ F else 0) + top, 0)
    | .fin n m e =>
      let sg := if n then 2 ^ F else 0
      if s0 = 0 then (sg, 0)
      else
        let (m1, i1) := dsbRne F m e s1
        let (sg, k, i) := if !nan && !inf && decide (m1 ≤ top) then (sel + sg, m1, i1)
          else let (m0, i0) := dsbRne F m e s0; (sg, m0, i0)
        (sg + k, (if i then xNX else 0) ||| (if m ≠ 0 && k = 0 then xUF else 0))
  let rs := xs.map one
  ⟨rs.map (·.1), s0 + s1 * 2 ^ 12, rs.foldl (fun f r => f ||| r.2) 0⟩

/-- Element codes as one value, element 0 in the least significant bits (04:R54). -/
def packCodes (width : Nat) : List Nat → Nat
  | [] => 0
  | c :: cs => c % 2 ^ width + 2 ^ width * packCodes width cs

/-! ### The order of sums (04:R69) -/

/-- floor(log2 |q|) of a nonzero product. -/
def leadOf (m : Nat) (e : Int) : Int := (Nat.log2 m : Int) + e

/-- The sum of one group, exact after the fixed alignment. -/
def groupSum (W : Nat) (qs : List FVal) : FVal :=
  if qs.any FVal.isNan || (qs.contains (.inf true) && qs.contains (.inf false)) then .nan false
  else if qs.contains (.inf true) then .inf true
  else if qs.contains (.inf false) then .inf false
  else
    let leads := qs.filterMap fun q => match q with
      | .fin _ m e => if m = 0 then none else some (leadOf m e)
      | _ => none
    match leads with
    | [] => .fin false 0 0
    | l :: ls =>
      let top := ls.foldl (fun a b => if a < b then b else a) l
      let u := top - W
      let s := qs.foldl (fun acc q => match q with
        | .fin n m e =>
          let k := (roundAt .rz false m e u false).1
          if n then acc - (k : Int) else acc + k
        | _ => acc) (0 : Int)
      .fin (decide (s < 0)) s.natAbs u

/-- A value rounded into an accumulator format under the output overflow policy; `none` under policy 3 (04 Table 9). -/
def accRound (f : Fmt) (ov : Nat) (v : FVal) : Option Nat :=
  match f.cvt .rne ov v with
  | .ok x _ => some x
  | .overflow => none

/-- One group added into an f32 accumulator. -/
def accGroup (ov W acc : Nat) (qs : List FVal) : Option Nat :=
  match accRound .f32 ov (groupSum W qs) with
  | none => none
  | some s => accRound .f32 ov (faddX .rne (Fmt.f32.decode acc) (Fmt.f32.decode s)).1

/-- Products in groups of `g`, added in ascending k. -/
def accAll (ov W g : Nat) : Nat → Nat → List FVal → Option Nat
  | 0, acc, _ => some acc
  | _, acc, [] => some acc
  | n + 1, acc, qs =>
    match accGroup ov W acc (qs.take g) with
    | none => none
    | some acc => accAll ov W g n acc (qs.drop g)

/-- f64: one rounding per k. -/
def accF64 (ov : Nat) : Nat → List (FVal × FVal) → Option Nat
  | acc, [] => some acc
  | acc, (a, b) :: qs =>
    match accRound .f64 ov (ffmaX .rne a b (Fmt.f64.decode acc)).1 with
    | none => none
    | some acc => accF64 ov acc qs

end Sys2Proof.Machine
end

