-- ==== Sys2Proof/Machine/Fun.lean ====
section
/-! DEFINITION. The functions of FUN (06:R116, Table 9). Codes 0 to 2 are rounded exactly; the transcendental codes are
computed to `fix` fraction bits, rounded down, and rounded once with a nonzero tail below (log entry 13). -/

namespace Sys2Proof.Machine

/-- Fraction bits of the fixed-point values of this file. -/
def fix : Nat := 384

/-- 1 in fixed point. -/
def one : Nat := 2 ^ fix

/-- Fixed-point product, rounded down. -/
def fmulF (a b : Nat) : Nat := a * b / one

/-- Σ 1 / ((2k + 1) n^(2k+1)), with alternating signs if `alt`: atanh(1/n) or atan(1/n). `p` is one / n^(2k+1). -/
def invSeries (n : Nat) (alt : Bool) : Nat → Nat → Nat → Int
  | 0, _, _ => 0
  | fuel + 1, k, p =>
    let t : Int := (p / (2 * k + 1) : Nat)
    (if alt && k % 2 = 1 then -t else t) + invSeries n alt fuel (k + 1) (p / (n * n))

/-- ln 2 = 2 atanh(1/3). -/
def ln2F : Nat := (2 * invSeries 3 false 130 0 (one / 3)).toNat

/-- π = 16 atan(1/5) − 4 atan(1/239). -/
def piF : Nat := (16 * invSeries 5 true 90 0 (one / 5) - 4 * invSeries 239 true 30 0 (one / 239)).toNat

/-- Σ t^k / k!, from the term `u` = t^(k−1)/(k−1)! on. -/
def expSeries (t : Nat) : Nat → Nat → Nat → Nat
  | 0, _, _ => 0
  | fuel + 1, k, u => u + expSeries t fuel (k + 1) (fmulF u t / k)

/-- e^t for 0 ≤ t < 1. -/
def expF (t : Nat) : Nat := expSeries t 90 1 one

/-- Σ (±1)^k q^k / (2k + c)!, c = 1 for sinh(x)/x or sin(x)/x and c = 0 for cosh, where q = x². -/
def oddEven (q : Nat) (alt : Bool) (c : Nat) : Nat → Nat → Nat → Int
  | 0, _, _ => 0
  | fuel + 1, k, u =>
    (if alt && k % 2 = 1 then -(u : Int) else u) +
      oddEven q alt c fuel (k + 1) (fmulF u q / ((2 * k + 1 + c) * (2 * k + 2 + c)))

/-- floor(m × 2^e × 2^fix), signed. -/
def toFix (neg : Bool) (m : Nat) (e : Int) : Int :=
  let s := e + fix
  let k : Int := if 0 ≤ s then (m * 2 ^ s.toNat : Nat) else (m / 2 ^ (-s).toNat : Nat)
  let cut := decide (s < 0) && m % 2 ^ (-s).toNat ≠ 0
  if neg then (if cut then -k - 1 else -k) else k

/-- 2^(x) split: e^x for the fixed-point `x` as (f, n) with e^x = f × 2^n and f in [1, 2). -/
def expSplit (x : Int) : Nat × Int :=
  let n := x / (ln2F : Int)
  (expF (x - n * ln2F).toNat, n)

/-- ln y of y in [1, 2) by 2 atanh((y − 1)/(y + 1)): `z2` is the square of the argument, `p` its odd powers. -/
def lnSeries (z2 : Nat) : Nat → Nat → Nat → Nat
  | 0, _, _ => 0
  | fuel + 1, k, p => p / (2 * k + 1) + lnSeries z2 fuel (k + 1) (fmulF p z2)

def lnF (y : Nat) : Nat :=
  let z := (y - one) * one / (y + one)
  2 * lnSeries (fmulF z z) 130 0 z

/-- The exponent beyond which an argument only over- or underflows the format. -/
def Fmt.far (f : Fmt) : Int := f.eb + 2

/-- Is |m × 2^e| at least 2^k? -/
def atLeast (m : Nat) (e k : Int) : Bool := decide (m ≠ 0) && decide (k ≤ (Nat.log2 m : Int) + e)

/-- A result beyond the format. -/
def Fmt.huge (f : Fmt) : FRes := f.roundFin .rne false 1 (2 ^ (f.eb + 1) : Nat) true

/-- A positive result far below the smallest subnormal. -/
def Fmt.minute (f : Fmt) : FRes := f.roundFin .rne false 1 (-(2 ^ (f.eb + 1) : Nat)) true

/-- r = m × 2^e is in (0, 1/2]: sin(πr) rounded. -/
def Fmt.sinpiIn (f : Fmt) (neg : Bool) (m : Nat) (e : Int) : FRes :=
  let a := fmulF piF (toFix false m e).toNat
  let g := (oddEven (fmulF a a) true 1 60 0 one).toNat
  f.roundFin .rne neg (m * fmulF g piF) (e - fix) true

/-- |x| mod 2 as a numerator over 2^k, with k ≥ 1. -/
def modTwo (m : Nat) (e : Int) : Nat × Nat :=
  if 0 ≤ e then ((m * 2 ^ (min e.toNat 2)) % 2 * 2, 1)
  else
    let k := (-e).toNat
    (m % 2 ^ (k + 1), k)

def Fmt.sinpi (f : Fmt) (neg : Bool) (m : Nat) (e : Int) : FRes :=
  let (r, k) := modTwo m e
  let u := 2 ^ k
  if r % u = 0 then ⟨f.sign neg, 0, false⟩
  else
    let flip := decide (u < r)
    let r1 := if flip then r - u else r
    let neg' := neg != flip
    if 2 * r1 = u then f.roundFin .rne neg' 1 0 false
    else f.sinpiIn neg' (if u < 2 * r1 then u - r1 else r1) (-(k : Int))

def Fmt.cospi (f : Fmt) (m : Nat) (e : Int) : FRes :=
  let (r, k) := modTwo m e
  let u := 2 ^ k
  let r1 := if u < r then 2 * u - r else r
  if 2 * r1 = u then ⟨0, 0, false⟩
  else if r1 = 0 then f.roundFin .rne false 1 0 false
  else if r1 = u then f.roundFin .rne true 1 0 false
  else if 2 * r1 < u then f.sinpiIn false (u - 2 * r1) (-(k : Int) - 1)
  else f.sinpiIn true (2 * r1 - u) (-(k : Int) - 1)

def Fmt.exp2 (f : Fmt) (neg : Bool) (m : Nat) (e : Int) : FRes :=
  if atLeast m e f.far then (if neg then f.minute else f.huge)
  else
    let (k, inexact) := roundAt .rz neg m e 0 false
    if !inexact then f.roundFin .rne false 1 (if neg then -(k : Int) else k) false
    else
      let x := toFix neg m e
      let n := x / (one : Int)
      let t := (x - n * one).toNat
      f.roundFin .rne false (expF (fmulF t ln2F)) (n - fix) true

def Fmt.exp (f : Fmt) (neg : Bool) (m : Nat) (e : Int) : FRes :=
  if m = 0 then f.roundFin .rne false 1 0 false
  else if atLeast m e f.far then (if neg then f.minute else f.huge)
  else
    let (y, n) := expSplit (toFix neg m e)
    f.roundFin .rne false y (n - fix) true

def Fmt.log2 (f : Fmt) (m : Nat) (e : Int) : FRes :=
  let l := Nat.log2 m
  if m = 2 ^ l then (let i := (l : Int) + e; f.roundFin .rne (decide (i < 0)) i.natAbs 0 false)
  else
    let y := m * 2 ^ fix / 2 ^ l
    let t := ((l : Int) + e) * one + (lnF y * one / ln2F : Nat)
    if t < 0 then f.roundFin .rne true (t.natAbs - 1) (-(fix : Int)) true
    else f.roundFin .rne false t.toNat (-(fix : Int)) true

def Fmt.tanh (f : Fmt) (neg : Bool) (m : Nat) (e : Int) : FRes :=
  if m = 0 then ⟨f.sign neg, 0, false⟩
  else if atLeast m e 8 then f.roundFin .rne neg (one - 1) (-(fix : Int)) true
  else if atLeast m e 0 then
    let (y, n) := expSplit (toFix true (2 * m) e)
    let q := y / 2 ^ (-n).toNat
    f.roundFin .rne neg ((one - q) * one / (one + q)) (-(fix : Int)) true
  else
    let a := (toFix false m e).toNat
    let q := fmulF a a
    let r := (oddEven q false 1 60 0 one).toNat * one / (oddEven q false 0 60 0 one).toNat
    f.roundFin .rne neg (m * r) (e - fix) true

def Fmt.logistic (f : Fmt) (neg : Bool) (m : Nat) (e : Int) : FRes :=
  if m = 0 then f.roundFin .rne false 1 (-1) false
  else if atLeast m e f.far then
    (if neg then f.minute else f.roundFin .rne false (one - 1) (-(fix : Int)) true)
  else
    let (y, n) := expSplit (toFix true m e)
    let q := y / 2 ^ (-n).toNat
    if neg then f.roundFin .rne false (y * one / (one + q)) (n - fix) true
    else f.roundFin .rne false (one * one / (one + q)) (-(fix : Int)) true

/-- 1/√(m × 2^e), m ≠ 0. -/
def Fmt.rsqrt (f : Fmt) (m : Nat) (e : Int) : FRes :=
  let (m, e) := if e % 2 = 0 then (m, e) else (2 * m, e - 1)
  let k := f.mb + 8 + Nat.log2 m
  let n := 2 ^ (2 * k)
  let r := isqrt (n / m)
  f.roundFin .rne false r (-(e / 2) - k) (r * r * m ≠ n)

/-- 06 Table 9. `mode` acts on codes 0 and 1 alone. -/
def Fmt.fn (f : Fmt) (mode : RMode) (code x : Nat) : FRes :=
  let nan : FRes := ⟨f.nan, xNV, false⟩
  let exact := fun (v : Nat) => (⟨v, 0, false⟩ : FRes)
  match f.decode x with
  | .nan sn => ⟨f.nan, if sn then xNV else 0, false⟩
  | .inf neg =>
    (match code with
     | 0 => if neg then nan else exact (f.inf false)
     | 1 => exact (f.sign neg)
     | 2 => if neg then nan else exact 0
     | 3 => exact (if neg then 0 else f.inf false)
     | 4 => if neg then nan else exact (f.inf false)
     | 5 => nan
     | 6 => nan
     | 7 => f.roundFin .rne neg 1 0 false
     | 8 => if neg then exact 0 else f.roundFin .rne false 1 0 false
     | _ => exact (if neg then 0 else f.inf false))
  | .fin neg m e =>
    (match code with
     | 0 => if m = 0 then exact (f.sign neg) else if neg then nan else f.sqrtFin mode m e
     | 1 => if m = 0 then ⟨f.inf neg, xDZ, false⟩ else f.divFin mode neg 1 0 m e
     | 2 => if m = 0 then ⟨f.inf neg, xDZ, false⟩ else if neg then nan else f.rsqrt m e
     | 3 => f.exp2 neg m e
     | 4 => if m = 0 then ⟨f.inf true, xDZ, false⟩ else if neg then nan else f.log2 m e
     | 5 => f.sinpi neg m e
     | 6 => f.cospi m e
     | 7 => f.tanh neg m e
     | 8 => f.logistic neg m e
     | _ => f.exp neg m e)

end Sys2Proof.Machine
end

