-- ==== Sys2Proof/Syntax.lean ====
section
/-! DEFINITION. The steps of the KX9: one constructor of `Instr` for each row of the table of operations and events.
The lane instructions carry decoded operands (`Ops`); the Xlm instructions their register numbers; the events what the
acting agent or the outside world brings with it. -/

namespace Sys2Proof

/-- The length form L of an instruction (03:R33, Table 1). -/
inductive Form
  | base | ext | baseLit | extLit
deriving DecidableEq, Repr

/-- Bytes of an instruction of this form (03:R33). -/
def Form.len : Form → Nat
  | .base => 4
  | .ext => 12
  | .baseLit => 12
  | .extLit => 20

/-- Has the form a control word (word 1) and a word 2? -/
def Form.hasExt : Form → Bool
  | .ext => true
  | .extLit => true
  | .base => false
  | .baseLit => false

/-- Does the form carry a 64-bit literal? -/
def Form.hasLit : Form → Bool
  | .baseLit => true
  | .extLit => true
  | .base => false
  | .ext => false

/-- GE, GP and GN: the guard (03:R37). -/
inductive Guard
  | always
  | on (p : Nat) (neg : Bool)
deriving DecidableEq, Repr

/-- A register name: a frame register relative to FP, or a uniform register (03 Tables 5 and 6). -/
inductive Reg
  | v (i : Nat)
  | g (i : Nat)
deriving DecidableEq, Repr

/-- What a source operand names (03 Table 6, R41, R42). -/
inductive Src
  | reg (r : Reg)
  | pred (p : Nat)
  | inline (v : Int)
  | zero
  | tid
  | widx
  | gidx
  | dtlo
  | lit (w : DWord)
  | window (k off : Nat)
deriving DecidableEq, Repr

/-- What a destination names (03:R43). -/
inductive Dst
  | reg (r : Reg)
  | pred (p : Nat)
  | discard
deriving DecidableEq, Repr

/-- What stands in an operand field: nothing, a source (in trap mode or in block mode, 03:R46), a destination, or a
number that is no specifier (03:R35). -/
inductive Opd
  | none
  | src (s : Src) (trap : Bool)
  | dst (d : Dst)
  | num (n : Nat)
deriving DecidableEq, Repr

/-- The decoded fields of a lane instruction (03:R35, R36, R40). `x` is the sub-opcode of families 48 to 62; `w2` is
word 2: the sign-extended immediate or, where the entry makes it a field, its 32 bits. -/
structure Ops where
  form : Form
  brk : Bool
  guard : Guard
  t : Nat
  x : Nat
  d : Opd
  a : Opd
  b : Opd
  c : Opd
  rm : Nat
  ov : Nat
  sc : Nat
  w2 : Int
deriving DecidableEq, Repr

/-- The instructions of RV32IM (the C forms expand to these), for the loader and storer cores (09:R159). -/
inductive RvOp
  | lui | auipc | jal | jalr
  | beq | bne | blt | bge | bltu | bgeu
  | lb | lh | lw | lbu | lhu | sb | sh | sw
  | addi | slti | sltiu | xori | ori | andi | slli | srli | srai
  | add | sub | sll | slt | sltu | xor | srl | sra | or | and
  | fence | ecall | ebreak
  | mul | mulh | mulhsu | mulhu | div | divu | rem | remu
deriving DecidableEq, Repr

/-- One ordinary instruction of a scalar core's program: `len` is 2 for a compressed encoding, else 4. -/
structure RvInstr where
  op : RvOp
  rd : Nat
  rs1 : Nat
  rs2 : Nat
  imm : Int
  len : Nat
deriving DecidableEq, Repr

/-- What waits for a page: an access in flight, or a warp before an instruction (03:R52, 11:R194, R374); an engine
operation, a copy engine, a scalar core, a collective, a queue's admission or a castling successor. -/
inductive WaitRef
  | access (id : Nat)
  | warp (core slot : Nat)
  | op (cluster id : Nat)
  | copy (die engine : Nat)
  | scalar (core : Nat) (storer : Bool)
  | coll (id : Nat)
  | queue (q : Nat)
  | card (cluster entry : Nat)
  | launch (id : Nat)
deriving DecidableEq, Repr

/-- A page the slice kernel supplies (20:R293): its frame and permissions. -/
structure PageIn where
  va : Nat
  size : Nat
  pa : Nat
  r : Bool
  w : Bool
  x : Bool
deriving DecidableEq, Repr

/-- A migration step of the slice kernel on the entries that map a frame (23:R347): WBLK set, or the page copied to a new
frame. -/
structure PageMove where
  old : Nat
  size : Nat
  new : Nat
  wblk : Bool
deriving DecidableEq, Repr

/-- A host function: the physical function or virtual function `n` (23:R336). -/
inductive HostFn
  | pf
  | vf (n : Nat)
deriving DecidableEq, Repr

/-- A frame as it arrives at an Ethernet port (23:R348, R349): its bytes from the destination address to the last
payload byte, whether its FCS was right, and the fields steering reads. -/
structure EthFrame where
  port : Nat
  bytes : List Byte
  fcsOk : Bool
  vlan : Option Nat
  udpPort : Option Nat
  isIp : Bool
  ipSrc : List Byte
  ipDst : List Byte
  proto : Nat
  srcPort : Nat
  dstPort : Nat
deriving DecidableEq, Repr

/-- What a peer's access does at its home here (23:R357): a read, a write, an atomic (10 Table 4) or an access of family 59. -/
inductive RemoteOp
  | read
  | write (data : List Byte)
  | atomic (op operand compare : Nat)
  | ldv (rank : Nat)
  | stv (token value : Nat)
  | recon (merge value : Nat)
  | vcnt
deriving DecidableEq, Repr

/-- An access to BAR0: the function's, at the offset, of that many bytes (23:R337, R342). -/
structure BarAccess where
  fn : HostFn
  offset : Nat
  size : Nat
deriving DecidableEq, Repr

/-- A write of the mask bit of a vector in an MSI-X table (23:R339). -/
structure MsixMask where
  vec : Nat
  mask : Bool
deriving DecidableEq, Repr

/-- What the other members of a collective send: their bytes of a line, and which of them have finished (23:R358). -/
structure PeerNews where
  data : List Byte
  finished : List Nat
deriving DecidableEq, Repr

/-- An on-chip array (24 Table 6a) and the place in it. -/
inductive ArrayLoc
  | regRow (core slot thread vrow : Nat)
  | scratch (core piece : Nat)
  | l1Dirty (core pa : Nat)
  | parityCached (core : Nat)
  | scalarStore (core : Nat) (storer : Bool)
  | opLog (core entry : Nat)
  | tile (cluster line : Nat)
  | weightStore (die line : Nat)
  | memory (pa : Nat)
  | taskEntry (slice entry : Nat)
  | counter (slice index : Nat)
  | directory (die : Nat)
deriving DecidableEq, Repr

/-- One row of the table of operations and events each (spec/opcode_table.json). -/
inductive Instr
  -- majors 0 to 46 (03:R47)
  | nop (form : Form) (w0 w1 w2 : Word) (lit : DWord)
  | add (o : Ops) | sub (o : Ops) | mul (o : Ops) | mulhn (o : Ops) | fma (o : Ops)
  | min (o : Ops) | max (o : Ops) | and (o : Ops) | or (o : Ops) | xor (o : Ops) | andn (o : Ops)
  | shl (o : Ops) | shr (o : Ops) | rot (o : Ops) | bits (o : Ops) | bfx (o : Ops) | bfi (o : Ops)
  | add64 (o : Ops) | sub64 (o : Ops) | mul64 (o : Ops) | fma64 (o : Ops)
  | div (o : Ops) | rem (o : Ops) | cmp (o : Ops) | cmp64 (o : Ops) | sel (o : Ops)
  | mov (o : Ops) | movFirst (o : Ops) | movFrom (o : Ops) | cvt (o : Ops) | fun_ (o : Ops)
  | shfl (o : Ops) | redux (o : Ops) | scan (o : Ops) | vote (o : Ops)
  | getx (o : Ops) | putx (o : Ops) | lea (o : Ops) | plog (o : Ops)
  | bra (o : Ops) | braAlways (o : Ops) | braInd (o : Ops) | brau (o : Ops)
  | call (o : Ops) | calli (o : Ops) | ret (o : Ops) | frame (o : Ops) | meet (o : Ops)
  | exit (o : Ops) | exitCastle (o : Ops) | trap (o : Ops)
  -- families 48 to 55
  | ld (o : Ops) | st (o : Ops) | ldp (o : Ops) | stp (o : Ops) | lds (o : Ops) | sts (o : Ops)
  | srowset (o : Ops) | srowget (o : Ops) | atom (o : Ops) | red (o : Ops) | fence (o : Ops)
  | bar (o : Ops) | bara (o : Ops) | barw (o : Ops) | waitv (o : Ops) | ntfy1 (o : Ops) | ntfya (o : Ops)
  | sleep (o : Ops) | waitfe (o : Ops) | txb (o : Ops) | txc (o : Ops) | txa (o : Ops) | txq (o : Ops)
  | lnset (o : Ops) | lncoef (o : Ops) | lnloop (o : Ops) | lnnext (o : Ops) | lnget (o : Ops) | pbar (o : Ops)
  -- families 56 to 59
  | mma (o : Ops) | mxld (o : Ops) | mxst (o : Ops) | mxz (o : Ops) | mxcvt (o : Ops) | mxwait (o : Ops)
  | mxslot (o : Ops) | mxew (o : Ops) | tdset (o : Ops) | tdget (o : Ops) | tdinv (o : Ops) | tdcopy (o : Ops)
  | cpy (o : Ops) | cpyw (o : Ops) | cpyq (o : Ops) | zfill (o : Ops) | l2wb (o : Ops) | l2inv (o : Ops)
  | wsopen (o : Ops) | wslock (o : Ops) | wsref (o : Ops) | coll (o : Ops) | pref (o : Ops)
  | ldv (o : Ops) | stv (o : Ops) | recon (o : Ops) | vcnt (o : Ops)
  -- families 60 to 62
  | enq (o : Ops) | post (o : Ops) | tspawn (o : Ops) | phase (o : Ops) | parrive (o : Ops) | pwait (o : Ops)
  | intr (o : Ops) | qstat (o : Ops) | ctxnew (o : Ops) | ctxgrant (o : Ops) | ctxrevoke (o : Ops)
  | ctxmap (o : Ops) | ctxunmap (o : Ops) | ctxrun (o : Ops) | ctxstop (o : Ops) | ctxq (o : Ops)
  | ctxqattach (o : Ops) | tretRetry (o : Ops) | tretSkip (o : Ops) | tretFixretry (o : Ops) | tretKill (o : Ops)
  | sysr (o : Ops) | sysw (o : Ops) | imask (o : Ops) | lspost (o : Ops) | lswait (o : Ops) | elect (o : Ops)
  | iret (o : Ops)
  -- Xlm, on the loader or storer core (10:R185, R186)
  | lmTake (rd rs1 : Nat) | lmMeta (rd : Nat) | lmDone (rd rs1 : Nat) | lmBase (rs1 rs2 : Nat) | lmSaddr (rs1 : Nat)
  | lmG2s (rs1 rs2 : Nat) | lmS2g (rs1 rs2 : Nat) | lmFlagEmpty (rs1 rs2 : Nat) | lmFlagFull (rs1 rs2 : Nat)
  | lmWaitfEmpty (rs1 : Nat) | lmWaitfFull (rs1 : Nat) | lmTime (rd : Nat) | lmTimeh (rd : Nat)
  -- events of the core and the lanes
  | scalarCoreTrap (core : Nat) (storer : Bool)
  | resultArrival (id : Nat)
  | divResult (id : Nat)
  | spillClaim (core slot thread : Nat)
  | frameRefill (core slot thread : Nat) (poisoned : Bool)
  | linkRecordRefill (core slot thread : Nat)
  | uniformCopyReturn (core slot copy : Nat)
  | laneArbitration (core lane : Nat)
  | warpReady (core slot : Nat)
  | pageResolved (w : WaitRef) (page : PageIn)
  | lateFault (w : WaitRef)
  | tableWalk (id : Nat)
  | tlbShootdownComplete (id : Nat)
  | sleepExpiry (core slot : Nat)
  | waitvTimeout (id : Nat)
  -- events of the homes
  | homeAccess (id : Nat)
  | holderNote (id : Nat)
  | forcedPublish (line : Nat)
  | directoryRecall (line : Nat)
  | gambitValidate (id home : Nat)
  | gambitCommit (id : Nat)
  | l2PortGrant (slice : Nat)
  | bankRefreshStart (die bank : Nat)
  | bankRefreshEnd (die bank : Nat)
  -- events of the engines
  | operationStart (cluster id : Nat)
  | tileFetchLine (cluster id line : Nat)
  | passGrant (cluster : Nat)
  | passComplete (cluster : Nat)
  | tileLineMove (cluster : Nat)
  | copyLine (die engine : Nat)
  | promiseMissed (core slot : Nat)
  | collectiveExchange (id : Nat) (news : PeerNews)
  -- events of the slice kernels
  | cardNop (queue : Nat) | cardLaunch (queue : Nat) | cardSetc (queue : Nat) | cardWrite (queue : Nat)
  | cardIntr (queue : Nat) | cardCtxnew (queue : Nat) | cardCtxgrant (queue : Nat) | cardCtxrevoke (queue : Nat)
  | cardCtxmap (queue : Nat) | cardCtxunmap (queue : Nat) | cardCtxrun (queue : Nat) | cardCtxstop (queue : Nat)
  | cardCtxq (queue : Nat) | cardCtxqattach (queue : Nat)
  | launchCompletion (id : Nat)
  | phalanxDispatch
  | successorStart (cluster entry : Nat)
  | gatherTimeout (slice : Nat) (queue : Nat)
  | phaseComplete (ctx : Nat) (hdr : Nat)
  | interruptDelivery (core slot : Nat)
  | tempoBoundary (cluster : Nat)
  | contextSave (cluster : Nat)
  | contextRestore (cluster : Nat)
  | lateDieDeadline (ctx die : Nat)
  | pageRequestResponse (ctx gen : Nat) (page : PageIn)
  | kcmdRead (slice : Nat) (ksel : DWord) | kcmdWrite (slice : Nat) (ksel : DWord) (kdat : BitVec 512)
  | kcmdInvalidate (slice : Nat) (ksel : DWord) (kdat : BitVec 512) (edit : Option PageMove) | kevtPop (slice : Nat)
  -- events of the host
  | doorbellWrite (fn : HostFn) (pasid : Option Nat) (queue : Nat) (value : Option Word)
  | hostBar2Write (fn : HostFn) (addr : Nat) (data : List Byte)
  | hostBar2Read (fn : HostFn) (addr len : Nat)
  | msixUnmask (fn : HostFn) (entry : MsixMask)
  | rqgo (value : Word)
  | ringDescriptorWrite (port ring word : Nat) (value : DWord)
  | steeringWrite (port index : Nat) (value : DWord)
  | stripeSetWrite (set word : Nat) (value : DWord)
  | registerWrite (access : BarAccess) (value : Option DWord)
  | lockInterface (fn ctx : Nat)
  | tdiUnlock (fn : Nat) (next : Nat)
  | tdiScrubDone (fn : Nat)
  | measurements
  | expanderFailure (port : Nat)
  | wblkWriteRelease (id : Nat)
  -- events of the ports and links
  | frameReceive (f : EthFrame)
  | pfcRefresh (port pri : Nat)
  | pauseBudgetExpiry (port ring : Nat)
  | ingestTaskPost (port ring : Nat)
  | linkTraining (link emid : Nat) (identity : Nat)
  | peerLost (peer : Nat)
  | remoteAccess (peer : Nat) (pa : Nat) (op : RemoteOp) (len : Nat)
  -- bring-up, reliability and power
  | packageReset
  | bootStageAdvance (ok : Bool) (failed : BitVec 160)
  | recoveryWindowWrite (offset : Nat) (data : List Byte)
  | recgo
  | planApply
  | planDefault
  | pllRelock
  | arrayError (loc : ArrayLoc) (correctable : Bool)
  | counterFlush
  | powerDown
  | throttleOnset (power : Nat) (dieTemp : List Nat)
  | thermalTrip (die temp : Nat)
  | tripRecovery (dieTemp : List Nat)
  | mgmtReadSensors
  | mgmtReadCounter (n : Nat)
  | mgmtSetPowercap (watts : Nat)
  | mgmtRecoveryChunk (offset : Nat) (data : List Byte)
  | mgmtRecoveryGo
  | mgmtPackageReset
  | rv32imcInstruction (i : RvInstr)
  | scalarCoreProgramLoad (core : Nat) (storer : Bool) (ctx : Nat) (program : List Byte)
  | hostAtomicop (fn : HostFn) (addr size : Nat) (kind : Nat) (operand compare : Nat)
  | startInterface (fn : Nat)
  | spdmKeyExchange (fn : Nat) (session : Word)
  | emarisLinkFailure (link : Nat)
  | powerLoss
  | throttleEnd (power : Nat) (dieTemp : List Nat)
  | portReset (port : Nat)
  | mctpControl (message : List Byte)
deriving DecidableEq, Repr

/-- The next action of the package (log entry 2): the passing of device time, an event, one instruction of a warp or
of a scalar core; what the sensors read from then on: die temperatures, rail voltages about nominal in millivolts, power; an
access of a slice core to one of its CSRs (21:R334), a write or a read. -/
inductive Action
  | pass (dt : Nat)
  | sense (temps : List Nat) (rails : List Int) (power : Nat)
  | csr (slice n : Nat) (write : Option DWord)
  | event (i : Instr)
  | lane (core slot : Nat)
  | scalar (core : Nat) (storer : Bool)
deriving DecidableEq, Repr, Inhabited

end Sys2Proof
end

