-- ==== Sys2Proof/Config.lean ====
section
/-! DEFINITION. What an implementation fixes and what nobody fixes: opaque values, of which no proof can know more
than their type. -/

namespace Sys2Proof

/-- Free bits (log entry 7): a value the spec does not state is `freeBits` of a counter the step advances. -/
opaque Config.freeBits : Nat → BitVec 1024

/-- The action the package takes next when its agenda is empty (log entry 2): any order of its agents. -/
opaque Config.schedule : Nat → Action

/-- WPH of a die, the phase of its weight-store refresh, fixed at boot (16:R251). -/
opaque Config.wph : Nat → Nat

/-- Where the slice cores place the private segments of a context (05:R94; log entry 71). -/
opaque Config.pbase : Nat → BitVec 64

/-- The physical memory that the slice kernels reserve at boot: its base and size (20:R290; log entry 10). -/
opaque Config.kernel : Nat × Nat

/-- The HDM decoders as the root's slice kernel programs them at boot: base, size and the 1, 2 or 4 ports interleaved
(23:R345; log entry 20). -/
opaque Config.hdm : List (Nat × Nat × List Nat)

/-- The digest of the key, fused at manufacture (24:R359): 48 bytes. -/
opaque Config.fusedKey : List Byte

/-- The boot ROM of the H-die (24:R362, block 1). -/
opaque Config.bootRom : List Byte

/-- The root's MEM at stage 6: the memory found at boot less what the slice kernels reserve (20:R290). -/
opaque Config.rootMem : Nat

end Sys2Proof
end

