-- ==== Sys2Proof/Machine/State.lean ====
section
/-! DEFINITION. The state of the KX9 package, from the thread to the H-die, as plain data; its parts stand in the order
of INVENTORY.md's list. What exists only from placement or creation on (warps, groups, phalanxes, launches, contexts)
stands in maps that hold nothing at package reset. -/

namespace Sys2Proof.Machine

/-- Why the machine stops. Every fault of the spec is taken by its thread and is a next state; these end a run. -/
inductive Fault
  /-- Raised by every lane and scalar-core instruction when the state names no agent of that kind to execute it
  (`State.focus`). Safe: the device never executes an instruction without an agent. -/
  | noIssuer
deriving DecidableEq, Repr

/-- No meaning for an instruction. -/
inductive Refusal
  /-- The instruction named has no meaning yet; only a refused arm of `exec` answers so. Safe: the run stops. -/
  | notModelled (mnemonic : String)
deriving DecidableEq, Repr

/-- Physical memory: bytes by address, addresses strictly rising, no byte equal to what an unlisted address reads. -/
abbrev Memory := List Host.Cell

/-- What an unlisted address reads (log entry 4). DESIGN CHOICE. -/
def Memory.blank : Byte := 0

/-! ### Threads -/

/-- Poison of a register cell: none, from a refill that arrived poisoned (05:R91), or from the array (24:R366). -/
inductive Poison
  | none | fill | array
deriving DecidableEq, Repr

/-- One cell of a lane's register rows: value, full bit, poison (05:R72, 09:R142). -/
structure Cell where
  val : Word
  full : Bool
  poison : Poison
deriving DecidableEq, Repr

/-- A link record (05 Table 4). -/
inductive LinkRec
  | call (ret : DWord) (s k : Nat)
  | meet (addr : DWord) (depth : Nat)
  | trap (pc : DWord) (s : Nat)
deriving DecidableEq, Repr

/-- The per-thread fault record (11:R190, Table 1). -/
structure FaultRecord where
  code : Nat
  sub : Nat
  late : Bool
  pc : DWord
  addr : DWord
  handle : Word
  size : Nat
  dir : Nat
  op : Nat
  x : Nat
  thread : Nat
  wslot : Nat
  depth : Nat
deriving DecidableEq, Repr

/-- Handler privilege (11:R192): the record that entered the handler, the length of its instruction, and the DEPTH
inside the handler. -/
structure TrapEntry where
  record : FaultRecord
  len : Nat
  depth : Nat
deriving DecidableEq, Repr

/-- A gambit (10:R180, R181, R184): `opened`, the frame depth of the handler entered with it open (`away`), the status code
of 10 Table 6, the user code, the words read with their values, the words written with byte mask and value. Words are named
by physical address; `vas` are the addresses they were reached at (16:R259). -/
structure Gambit where
  opened : Bool
  away : Option Nat
  code : Nat
  user : Nat
  reads : Map DWord
  writes : Map (BitVec 8 × DWord)
  vas : List Nat := []
deriving DecidableEq, Repr

/-- What a CALL, CALLI or FRAME has changed of a thread: a page of its spill that proves unresolvable leaves all of it
unchanged (05:R90). -/
structure Undo where
  pc : DWord
  fp : Nat
  s : Nat
  depth : Nat
  link : List LinkRec
  linkRes : Nat
  len : Nat
  op : Nat
deriving DecidableEq, Repr

/-- A thread that waits for the spill engine (05:R89, R92). It has committed its instruction and waits for the claim,
after which its rows begin at `lo`, rows `from_` to `to_` − 1 have entered its frame and `writes` stand in its v0 onward
(11:R191), `back` being none for a handler's or an interrupt's entry; or for a link record; or it stands before its CALL,
CALLI or FRAME, of `len` bytes and major `op`, until the page of a word to be spilled is present. -/
inductive ThreadWait
  | none
  | spill (lo from_ to_ : Nat) (writes : List Word) (back : Option Undo)
  | link
  | page (va len op : Nat)
deriving DecidableEq, Repr

/-- The state of one thread (05:R72, Table 1). -/
structure Thread where
  pc : DWord
  fp : Nat
  s : Nat
  depth : Nat
  meetA : DWord
  meetD : Nat
  link : List LinkRec
  linkRes : Nat
  cells : List Cell
  lo : Nat
  refill : List Nat
  twait : ThreadWait
  preds : BitVec 8
  alive : Bool
  held : Bool
  copy : Nat
  trap : Option TrapEntry
  gambit : Gambit
deriving DecidableEq, Repr

/-! ### Warps and groups -/

/-- One copy of the uniform file (05:R83 to R85): 64 values, 64 conflict bits, resident or in the warp private area. -/
structure UCopy where
  vals : List Word
  conflict : BitVec 64
  resident : Bool
deriving DecidableEq, Repr

/-- An entry of the meeting table (05:R77). -/
structure MeetEntry where
  addr : DWord
  depth : Nat
  pending : Nat
  heldN : Nat
deriving DecidableEq, Repr

/-- A coefficient set of the loop-nest unit (09:R156). -/
structure Coef where
  base : DWord
  strides : List Word
deriving DecidableEq, Repr

/-- The loop-nest unit (09:R156, Table 8). -/
structure LoopNest where
  n : List Word
  trip : List Word
  level : Nat
  coef : List Coef
deriving DecidableEq, Repr

/-- Where a result in flight lands: a frame register by virtual row, a uniform register in the copy that the thread then
holds, a predicate, or nowhere. -/
inductive Land
  | row (vrow : Nat)
  | g (i : Nat)
  | pred (p : Nat)
  | nowhere
deriving DecidableEq, Repr

/-- A thread of a waiting warp that still needs its result: where it goes, and the values its wait needs. -/
structure Waiter where
  thread : Nat
  p : DWord
  h : Word
  lands : List Land
deriving DecidableEq, Repr

/-- What a warp waits for (09 Table 2 yield causes; the entries that yield). -/
inductive Wait
  /-- ready -/
  | none
  /-- an empty row at the issue PC (cause 1): the threads and virtual rows waited for -/
  | regs (needs : List (Nat × Nat))
  /-- a row flag at the issue PC (cause 1, 10:R168): the rows touched, with the flags seen -/
  | rows (seen : List (Nat × Bool))
  /-- an engine reservation, dependency count or copy queue (cause 2) -/
  | engine
  /-- the spill engine or a link record (cause 3) -/
  | spill
  /-- results in flight of the instruction just issued (cause 4) -/
  | results (ids : List Nat)
  | sleep (until_ : DWord)
  | barrier (name : Nat) (arrived : Bool)
  | pbar
  | mxwait (mask : Nat) (ws : List Waiter)
  | cpyw (ws : List (Nat × Waiter))
  /-- the phase, named by its header and its opening, and what its completion returned -/
  | pwait (hdr opened : Nat) (out : Option Nat) (ws : List Waiter)
  /-- the mailbox, the ticket, and the status once the command has retired -/
  | lswait (storer : Bool) (ticket : Nat) (out : Option Nat) (ws : List Waiter)
  /-- a page before the instruction (cause 4, 11:R374), or of its own words (`fetch`, 03:R52): its address -/
  | page (va : Nat) (fetch : Bool)
  | mailbox (storer : Bool)
  | oplog
  /-- accesses of the threads that come before the instruction: to be translated (cause 6, 11:R195), or to be locally
  or globally performed (10:R176, 13:R203, 21:R321) -/
  | ordered (trans loc glob : List Nat)
  /-- CTXSTOP until every save has ended (21:R328) -/
  | stopping (child : Nat) (ws : List Waiter)
deriving DecidableEq, Repr

/-- An ordering that a thread's FENCE or acquire lays on its later accesses (18:R282): on its loads, its stores or both,
to come after the local or global performance of earlier accesses; `tag` names the release of a release fence. -/
structure FenceRec where
  thread : Nat
  onLoads : Bool
  onStores : Bool
  afterL : List Nat
  afterG : List Nat
  tag : Option Nat
deriving DecidableEq, Repr

/-- A warp in its slot (09 Table 2, 05:R73). `back` are the executing threads of the instruction at which it waits and
`backLen` that instruction's bytes, where an interrupt returns to it (21 Table 4). `refused` are the addresses whose pages
proved unresolvable while the warp waited before its next instruction (11:R374): the model's own field. -/
structure Warp where
  uid : Nat
  ctx : Nat
  gslot : Nat
  widx : Nat
  winBase : Nat
  win : Nat
  pbase : DWord
  p : Nat
  plim : Nat
  wpriv : DWord
  xf : BitVec 6
  threads : List Thread
  copies : Map UCopy
  meets : List MeetEntry
  ln : LoopNest
  kb : List DWord
  ks : List Nat
  stamp : Word
  wait : Wait
  waitOp : Nat
  back : List Nat
  backLen : Nat
  run : Nat
  irq : Option (Nat × Nat)
  fences : List FenceRec
  launch : Nat
  refused : List Nat
deriving DecidableEq, Repr

/-- A dependency slot (13:R218, Table 5). -/
structure DepSlot where
  count : Nat
  ovf : Bool
  err : Bool
  ecode : Nat
deriving DecidableEq, Repr

/-- A named barrier (10:R176): N (0: idle) and the arrivals a. -/
structure Barrier where
  n : Nat
  a : Nat
deriving DecidableEq, Repr

/-- A group in its slot (09 Table 3; 10:R176, 13:R218, 21:R323, R324). -/
structure Group where
  uid : Nat
  part : Nat
  warps : Nat
  offset : Nat
  scratchBase : Nat
  scratchCount : Nat
  bars : List Barrier
  imask : Word
  uipend : Word
  uicode : Map (Word × Nat)
  deps : List DepSlot
  gidx : Nat
  ctx : Nat
  phx : Nat
  launch : Nat
deriving DecidableEq, Repr

/-! ### Cores -/

/-- A partition quota register (09:R143, Table 4). -/
structure Quota where
  v : Bool
  ctx : Nat
  glo : Nat
  gcnt : Nat
  rlo : Nat
  rcnt : Nat
  slo : Nat
  scnt : Nat
  tlo : Nat
  tcnt : Nat
deriving DecidableEq, Repr

/-- A thread's part of an operand-log entry (11:R197): the logged sources, and whether it waits, has faulted or is
done. -/
inductive LogStatus
  | waiting | faulted | done
deriving DecidableEq, Repr

/-- The logged sources of one thread, and the result its destination waits for. -/
structure LogThread where
  thread : Nat
  a : DWord
  b : DWord
  c : BitVec 128
  status : LogStatus
  result : Option Nat
deriving DecidableEq, Repr

/-- What a record says of the instruction (11 Table 1). -/
structure Site where
  pc : DWord
  len : Nat
  op : Nat
  x : Nat
  size : Nat
  dir : Nat
deriving DecidableEq, Repr

/-- An operand-log entry (11:R197, R198). -/
structure LogEntry where
  slot : Nat
  uid : Nat
  priv : Bool
  instr : Instr
  pc : DWord
  threads : List LogThread
deriving DecidableEq, Repr

/-- State of a line in an L1 (09:R151, 16:R244). -/
inductive Moesi
  | m | o | e | s | i
deriving DecidableEq, Repr

/-- An L1 line's tag: coherence state, context, the release tag that published it (09:R153), and its way. -/
structure L1Line where
  state : Moesi
  ctx : Nat
  tag : Option Nat
  way : Nat
deriving DecidableEq, Repr

/-- A TLB entry (16:R258): context, page, frame, permissions and attributes. -/
structure TlbEntry where
  ctx : Nat
  va : Nat
  size : Nat
  pa : Nat
  r : Bool
  w : Bool
  x : Bool
  ver : Bool
  stripe : Nat
deriving DecidableEq, Repr

/-- A release outstanding in a core (09:R153, 18:R282): its number, the model's own, which rises with each release; the
5-bit tag of a narrow-scope one; the accesses of its release set and its synchronizing stores. -/
structure Release where
  tag : Nat
  tag5 : Option Nat
  set_ : List Nat
  sync : List Nat
deriving DecidableEq, Repr

/-- A command in a mailbox (09:R160); `after_` are the accesses that its taking waits for (21:R331). -/
structure LsCommand where
  bytes : List Byte
  ctx : Nat
  gslot : Nat
  wslot : Nat
  ticket : Nat
  after_ : List Nat
deriving DecidableEq, Repr

/-- The loader or the storer core (09:R159, R160; 10:R186). `cur` is the current command with its failed mark; `posted` the
contexts and tickets of commands, the latest first; `retired` context, ticket and status. -/
structure Scalar where
  xs : List Word
  pc : Word
  istore : Memory
  dstore : Memory
  xb : DWord
  xsa : Nat
  cur : Option (LsCommand × Bool)
  halted : Bool
  mailbox : List LsCommand
  ticket : Nat
  posted : List (Nat × Nat)
  retired : List (Nat × Nat × Nat)
deriving DecidableEq, Repr

/-- Register rows of a lane that belong to no window any more: the first row, and the cells of each row's 32 columns by
column (09:R142). -/
structure LeftRows where
  lane : Nat
  base : Nat
  columns : List (List Cell)
deriving DecidableEq, Repr

/-- What a core holds besides its warp and group slots (09:R142, Table 1). `l1plru` is the replacement tree of each L1 set
(log entry 102). The lines of the constant cache and of the instruction cache, which nothing keeps coherent, stand with
their context, line number and bytes (09:R155, 03:R53). `rows` are the register rows that windows have left, the
latest first, a row never in a window being zero and full (log entry 5); `scratchPoison` the poisoned 8-byte pieces of the scratchpad (24:R366). -/
structure Core where
  laneAc : Map Word
  laneRun : Map Nat
  scratch : Memory
  flags : List Nat
  scratchPoison : List Nat
  quotas : Map Quota
  oplog : Map LogEntry
  l1 : Map L1Line
  l1plru : Map Nat
  tlb : List TlbEntry
  ccache : List (Nat × Nat × List Byte)
  icache : List (Nat × Nat × List Byte)
  releases : List Release
  nextTag : Nat
  loader : Scalar
  storer : Scalar
  rows : List LeftRows
deriving DecidableEq, Repr

/-! ### Results and accesses in flight -/

/-- A result in flight to a thread (05:R80): who gets it, where each word lands, and the words once known. After a fault
of its access it stays, for TRET (11:R196, R199), and nothing waits for it. -/
structure Result where
  core : Nat
  slot : Nat
  uid : Nat
  thread : Nat
  lands : List Land
  words : List Word
  ready : Bool
  isDiv : Bool
  faulted : Bool
  batch : Nat
deriving DecidableEq, Repr

/-- What an access does: at its home (10:R164 to R179; 17:R267, R272 to R276), or in the scratchpad of its core (10:R167). -/
inductive AccKind
  | load (sext : Bool)
  | store
  | atomic (op : Nat) (size64 : Bool)
  | waitv (timeout : Nat)
  | ntfy (all : Bool)
  | zfill (lines : Nat)
  | wback (lines : Nat) (inv : Bool)
  | ldv (rank : Nat)
  | stv (token : Nat)
  | recon (merge : Nat)
  | vcnt
  | lds
  | sts
deriving DecidableEq, Repr

/-- An access of a thread between its issue and its end (18:R279): `va` is that of its first byte; it has `parts` parts of
`size` bytes, `stride` apart, at physical addresses `pas` (none while it waits for translation). `afterL` and `afterG` name
the accesses that must be locally and globally performed first (18:R282); `loc` is its place in the order of local
performance, once it has one; an access leaves when it is globally performed. `wline`: it is part of an instruction that
writes its whole line (09:R151); `charge` are, part by part, the bytes that it moves at its home for all accesses of its
instruction to the part's line, 0 where a lower thread's access does (10:R163). `revoked`: its translation was removed while it was saved
(20:R296); `seen`: it is a store that a read of its own core has bound before its global performance (18:R279). -/
structure Access where
  core : Nat
  slot : Nat
  uid : Nat
  thread : Nat
  actor : Nat
  ctx : Nat
  kind : AccKind
  va : Nat
  pas : List Nat
  size : Nat
  parts : Nat
  stride : Nat
  ver : Bool
  stripe : Nat
  b : BitVec 128
  c : DWord
  acq : Bool
  rel : Bool
  scope : Nat
  gambit : Bool
  lands : List Land
  entry : Option Nat
  result : Option Nat
  afterL : List Nat
  afterG : List Nat
  loc : Option Nat
  wblk : Bool
  wline : Bool
  charge : List Nat
  hint : Nat
  site : Site
  launch : Nat
  revoked : Bool := false
  seen : Bool := false
deriving DecidableEq, Repr

/-- A sleeper on a word (10:R178). -/
structure Sleeper where
  pa : Nat
  access : Nat
  until_ : DWord
deriving DecidableEq, Repr

/-- A gambit commit in flight (10:R182, R183): the homes still to answer, those that reserved, and the verdict. -/
structure Commit where
  core : Nat
  slot : Nat
  uid : Nat
  thread : Nat
  pred : Nat
  homes : List Nat
  yes : List Nat
  failed : Option Nat
deriving DecidableEq, Repr

/-- A sibling of a versioned word (16:R246). -/
structure Sibling where
  val : DWord
  seq : Nat
  actor : Nat
deriving DecidableEq, Repr

/-- The version record of a word (16:R246, Tables 2 to 4): the siblings in the four slots, the overflow entries from
the first on with their numbers in the slice's pool, and the header's SEQ and EPOCH. COUNT and OV are their numbers. -/
structure VerRec where
  slots : List (Option Sibling)
  pooled : List (Nat × Sibling)
  seq : Nat
  epoch : Nat
deriving DecidableEq, Repr

/-- An entry of a home's directory (16:R244, 18:R282): the dies that hold a copy of the line (4: the H-die), the owning
die, and the narrow-scope release holder noted for it (core, tag). -/
structure DirEntry where
  dies : List Nat
  owner : Option Nat
  note : Option (Nat × Nat)
deriving DecidableEq, Repr

/-- An entry of a die's snoop filter (16:R244): the die's agents that hold a copy, 0 to 159 its cores and 160 to 175 its
slice cores, and the owning one. -/
structure SnoopEntry where
  agents : List Nat
  owner : Option Nat
deriving DecidableEq, Repr

/-- An entry of an L2 slice's context table (16:R255, Table 7). -/
structure L2Ctx where
  v : Bool
  ctx : Nat
  rate : Nat
  depth : Nat
  tok : Nat
  frac : Nat
  ways : Nat
  occ : Nat
deriving DecidableEq, Repr

/-- A line in a slice: dirty, a zero tag, the entry that filled it, pins, and its way (16:R239, R241, R257, 13:R213). -/
structure L2Line where
  dirty : Bool
  zero : Bool
  by_ : Nat
  pins : Nat
  way : Nat
deriving DecidableEq, Repr

/-- An L2 slice with its home (16:R239, R243, R255, R256); `plru` is the replacement tree of each set (log entry 102), `pool`
the entries of the overflow pool in use (16:R248). -/
structure L2Slice where
  lines : Map L2Line
  plru : Map Nat
  ctxs : Map L2Ctx
  ac : Nat
  borrowed : List Nat
  reserved : Map Nat
  pool : List Nat
deriving DecidableEq, Repr

/-! ### Clusters -/

/-- A phalanx-table entry (13:R202), with its groups' scratchpad rows (base, count), the launch it belongs to and
whether it stands for the resources a castling exit keeps (07:R134); `card` is what the successor's card held when it was
read. -/
structure Phalanx where
  ctx : Nat
  part : Nat
  groups : Nat
  places : List (Nat × Nat)
  rows : List (Nat × Nat)
  tbase : Nat
  tcount : Nat
  live : Nat
  arr : Nat
  gen : Bool
  castle : DWord
  launch : Nat
  kept : Bool
  card : Option (List Byte) := none
deriving DecidableEq, Repr

/-- A tensor descriptor (13:R210, Table 4). -/
structure Desc where
  v : Bool
  fmt : Nat
  space : Nat
  orient : Bool
  ctx : Nat
  base : Nat
  sbase : Nat
  rows : Nat
  cols : Nat
  ld : Nat
  sld : Nat
  oob : Nat
deriving DecidableEq, Repr

/-- An MMA parameter block (13:R221, Table 7). -/
structure MmaBlock where
  ak : Bool
  bk : Bool
  fmtA : Nat
  fmtB : Nat
  ta : Bool
  tb : Bool
  conj : Bool
  acc : Bool
  ovp : Nat
  pm : Nat
  pn : Nat
  pk : Nat
  wmask : Nat
  sset : Nat
  c : Nat
  a : Nat
  b : Nat
  arow : Nat
  acol : Nat
  brow : Nat
  bcol : Nat
deriving DecidableEq, Repr

/-- What an engine operation does (14:R227, R229 to R231). -/
inductive EngKind
  | mma (blk : MmaBlock)
  | mxld (d : Nat) (ea lines : Nat)
  | mxst (d : Nat) (ea lines : Nat)
  | mxz (d lines : Nat)
  | mxcvt (d a code doff ov : Nat)
  | mxew (d a b ty op ov : Nat)
deriving DecidableEq, Repr

/-- An engine operation in the reservation table (13:R215): `next` counts passes or lines done; `descs` are the
descriptor copies read at its start; `after_` the accesses of its fork edge (18:R286); `fetched` the lines read and
not yet used, by virtual line (from 2^60 on: weight-store line) with the physical line; `group` names the group; `pins` are
those of them that it has pinned in their slices; `revoked`: a translation it needs was removed while it was saved (20:R296). -/
structure EngOp where
  core : Nat
  gslot : Nat
  ctx : Nat
  launch : Nat
  order : Nat
  kind : EngKind
  wmask : Nat
  sset : Nat
  tbase : Nat
  tcount : Nat
  started : Bool
  descA : Option Desc
  descB : Option Desc
  next : Nat
  after_ : List Nat
  fetched : Map Nat
  group : Nat
  pins : List Nat := []
  revoked : Bool := false
deriving DecidableEq, Repr

/-- A saved group: its slot and its state. -/
structure SavedGroup where
  core : Nat
  gslot : Nat
  group : Group
deriving DecidableEq, Repr

/-- Saved scratchpad rows of a core, with flags and poison, counted from row `base`. -/
structure SavedRows where
  core : Nat
  base : Nat
  count : Nat
  bytes : List Byte
  flags : List Nat
  bad : List Nat
deriving DecidableEq, Repr

/-- A phalanx in its context's save area (20:R309, 13:R222). -/
structure Saved where
  phx : Phalanx
  groups : List SavedGroup
  rows : List SavedRows
  warps : List (Nat × Nat × Warp)
  tiles : List Byte
  tileBad : List Nat
  ops : Map EngOp
  replays : Map Access
deriving DecidableEq, Repr

/-- What a saved context leaves in a cluster beside its phalanxes: mailbox commands not yet taken, engine operations of
groups whose warps have all exited, and waiting accesses of warps that have exited (09:R160, 11:R196, 13:R222; 20 Table
13). -/
structure SavedRest where
  ctx : Nat
  ops : Map EngOp
  replays : Map Access
  commands : List (Nat × Bool × LsCommand)
deriving DecidableEq, Repr

/-- A cluster (13; 20:R307 to R312). `holds` is the context in it; `stop` the context being pre-empted with the next
holder, since `stopAt`, for the boundary `won`; `present` are the participants of the last boundary at `boundary`; a gang that has won waits for
its start barrier until `gangWait`. -/
structure Cluster where
  phxs : Map Phalanx
  tiles : Memory
  tilePoison : List Nat
  ops : Map EngOp
  busy : Option Nat
  tlb : List TlbEntry
  holds : Option Nat
  stop : Option (Nat × Option Nat)
  passes : Map Nat
  present : List Nat
  stopAt : DWord
  boundary : DWord
  saved : List Saved
  rest : List SavedRest
  gangWait : Option DWord
  ueTimes : List DWord
  won : DWord
deriving DecidableEq, Repr

/-! ### Dies -/

/-- A weight-store region (16:R249, Table 6). -/
structure WsRegion where
  v : Bool
  locked : Bool
  ctx : Nat
  named : Nat
deriving DecidableEq, Repr

/-- A copy in a copy engine (17:R262, R263): `moved` lines of `lines` are done; `status` is that of an ended operation
whose completion record is still to be written; `ahead` are lines read and not yet written, by number; `revoked`: a
translation it needs was removed while it was a replay entry (16:R254); `ended` is the device time of its end. -/
structure Copy where
  seq : Nat
  ctx : Nat
  cluster : Nat
  launch : Nat
  src : Nat
  dst : Nat
  ssp : Nat
  dsp : Nat
  lines : Nat
  moved : Nat
  crec : Nat
  started : Bool
  after_ : List Nat
  phaseSeq : Nat
  status : Option Nat
  ahead : Map (List Byte) := []
  revoked : Bool := false
  ended : DWord := 0
deriving DecidableEq, Repr

/-- A copy engine (16:R252, R253; 17:R263): its queue, next SEQ, the statuses of ended operations, and the replay
entries of saved contexts (16:R254). -/
structure CopyEngine where
  queue : List Copy
  seq : Nat
  ended : List (Nat × Nat × Nat)
  replay : List Copy
deriving DecidableEq, Repr

/-- A K-die (16, 13:R210). -/
structure Die where
  descs : Map (BitVec 512)
  ws : Memory
  wsPoison : List Nat
  regions : Map WsRegion
  engines : Map CopyEngine
  noticeCount : Nat
  snoop : Map SnoopEntry
deriving DecidableEq, Repr

/-! ### The package -/

/-- A claim record (20:R291, Table 2). -/
structure Claim where
  cl : BitVec 160
  exc : BitVec 160
  glo : Nat
  gcnt : Nat
  rlo : Nat
  rcnt : Nat
  slo : Nat
  scnt : Nat
  tlo : Nat
  tcnt : Nat
  mem : Nat
  qlo : Nat
  qcnt : Nat
  tdlo : Nat
  tdcnt : Nat
  wslo : Nat
  wscnt : Nat
  dclo : Nat
  dccnt : Nat
  phcnt : Nat
  shares : Nat
  own : Nat
  prio : Nat
  gang : Bool
  tempo : Nat
  rate : Nat
  depth : Nat
  ways : Nat
deriving DecidableEq, Repr

/-- A run of composed leaves of a context's table, consecutive pages of one size with consecutive frames (20:R293, R294;
log entry 10): `up` is the parent address the first derives from, as the reverse map records it: none for
a page that the slice kernel has put there. -/
structure Leaf where
  va : Nat
  size : Nat
  page : Nat
  pa : Nat
  v : Bool
  r : Bool
  w : Bool
  x : Bool
  ver : Bool
  wblk : Bool
  ac : Bool
  shadow : Nat
  stripe : Nat
  up : Option Nat
deriving DecidableEq, Repr

/-- A context (20:R289, Table 1; 21:R328, R330). `tables` are the physical bases of its table pages below ROOT, by level
and region (20:R293; `tableKey`). -/
structure Ctx where
  parent : Nat
  depth : Nat
  run : Nat
  gen : Nat
  claim : Claim
  hbase : DWord
  uibase : DWord
  fq : Option (Nat × Nat)
  posts : List Nat
  tableRoot : BitVec 52
  saveArea : DWord
  saveTaken : Bool
  memUsed : Nat
  leaves : List Leaf
  tables : Map Nat
deriving DecidableEq, Repr

/-- A queue descriptor (20:R300, Table 6); `skip` are the slots of the card at which it halted, `host` the slots whose cards
the host wrote. -/
structure Queue where
  v : Bool
  hoe : Bool
  halted : Bool
  log2sz : Nat
  pasid : Nat
  ctx : Nat
  base : Nat
  head : Nat
  tail : Nat
  gto : Nat
  errrec : Nat
  skip : Nat
  host : List Nat
deriving DecidableEq, Repr

/-- A kernel header (20:R302, Table 9). -/
structure KHdr where
  entry : DWord
  w : Nat
  scr : Nat
  til : Nat
  task : Bool
  p : Nat
  plim : Nat
  kb : List DWord
  ks : List Nat
deriving DecidableEq, Repr

/-- A task: argument pointer and SIGC (20:R305), and its entry, which it holds until it ends (22, checkpoint 1). -/
structure Task where
  hdr : Nat
  ctx : Nat
  queue : Nat
  arg : DWord
  sigc : Nat
  arrived : DWord
  poisoned : Bool
  entry : Nat
deriving DecidableEq, Repr

/-- An admitted launch or wave (20:R302, R305): `placed` phalanxes are dispatched, `done` have completed, `failed` are the
threads reported failed, by warp and index; `admitted` is the device time of its admission. -/
structure Launch where
  ctx : Nat
  queue : Nat
  slot : Nat
  hdrVa : Nat
  hdr : KHdr
  arg : DWord
  phx : Nat
  grp : Nat
  wrp : Nat
  crec : Nat
  irq : Bool
  vec : Nat
  waitc : Nat
  sigc : Nat
  wslo : Nat
  wscnt : Nat
  wave : List Task
  placed : Nat
  done : Nat
  failed : List (Nat × Nat)
  fcode : Nat
  depPoison : Bool
  admitted : DWord
deriving DecidableEq, Repr

/-- An open or complete phase (20:R306): destinations with their words and remaining counts, FAIL, opening order. -/
structure Phase where
  hdr : Nat
  dests : List (Word × Nat)
  fail : Bool
  complete : Bool
  opened : Nat
  core : Nat
  line : Nat
deriving DecidableEq, Repr

/-- An invalidation of TLB entries in progress (16:R259, 20:R295): ranges of contexts as (context, address, bytes), the
results with the status they then bring, the queue whose admin card waits, and the slice whose KCMD is busy. -/
structure Shootdown where
  ranges : List (Nat × Nat × Nat)
  results : List Nat
  status : Nat
  queue : Option Nat
  slice : Option Nat
deriving DecidableEq, Repr

/-- A fault-queue record (20:R297): kind, context, GEN, item, and the fault record of kinds 1 and 2. -/
structure FqRecord where
  kind : Nat
  ctx : Nat
  gen : Nat
  item : DWord
  record : Option FaultRecord
deriving DecidableEq, Repr

/-- A wave that has formed and waits at admission (20:R305, R310): its queue, its header's address and its tasks. -/
structure FormedWave where
  queue : Nat
  hdr : Nat
  tasks : List Nat
deriving DecidableEq, Repr

/-- A memory-side slice with its slice core (20:R304, 21:R334); `cache` are the lines in the slice core's cache (16:R244;
log entry 102), `waves` the formed waves of its queues in the order they formed; `got` is what the slice core's last read of one
of its CSRs returned: the model's own field, in place of the register it goes to (log entry 97). -/
structure Slice where
  dc : Map Nat
  dcPoison : List Nat
  tasks : Map Task
  gather : List Nat
  ksel : DWord
  kdat : BitVec 512
  kcmd : Nat
  kevt : List DWord
  migCnt : Map Nat
  cache : Map Moesi
  waves : List FormedWave
  got : DWord := 0
deriving DecidableEq, Repr

/-- A collective in flight on this device (17:R266, 23:R358): `moved` lines of its own part are written, `sent` source lines
read and sent to the other members, of which `ahead` are kept until they are used here; `finished` are the members that have
written their parts; `revoked` and `ended` as of a copy. -/
structure Coll where
  cluster : Nat
  launch : Nat
  ctx : Nat
  kind : Nat
  rop : Nat
  etype : Nat
  collid : Nat
  src : Nat
  dst : Nat
  lines : Nat
  crec : Nat
  stripe : Nat
  handle : Word
  moved : Nat
  saved : Bool
  after_ : List Nat
  status : Option Nat
  revoked : Bool := false
  ended : DWord := 0
  sent : Nat := 0
  ahead : Map (List Byte) := []
  finished : List Nat := []
deriving DecidableEq, Repr

/-! ### The H-die -/

/-- A function's MSI-X vectors: those unmasked and those pending (23:R339); every other vector is masked. -/
structure Msix where
  unmasked : List Nat
  pending : List Nat
deriving DecidableEq, Repr

/-- A TDI entry (23:R343). -/
structure Tdi where
  state : Nat
  bind_ : Nat
  session : Word
  scrubbing : Bool
deriving DecidableEq, Repr

/-- An ingest ring (23:R350 to R353): its descriptor's eight words, and the port's running state: the last HEAD it
accepted, the tasks still to be posted, the waiting frames with their times and numbers, the begin of the episode; `unsaid`
are the places in the control block of drop counts whose write waits at a write-blocked page (23:R347). -/
structure Ring where
  words : List DWord
  seq : Nat
  head : Nat
  tail : Nat
  dfull : Nat
  dsize : Nat
  dfault : Nat
  sincePost : Nat
  firstSlot : Nat
  toPost : List Task
  waiting : List (EthFrame × DWord × Nat)
  episode : Option DWord
  unsaid : List Nat := []
deriving DecidableEq, Repr

/-- An Ethernet port (23:R348 to R352). -/
structure Port where
  rings : Map Ring
  rules : Map DWord
  control : DWord
  xoff : List Nat
  bufUsed : Nat
deriving DecidableEq, Repr

/-- An Emaris link (23:R354, R355). -/
structure Link where
  trained : Bool
  emid : Nat
  identity : Nat
deriving DecidableEq, Repr

/-- What the device sends to the outside, oldest first. -/
inductive Output
  | msix (fn : HostFn) (vec : Nat)
  | hostWrite (addr : Nat) (data : List Byte)
  | hostRead (addr len : Nat)
  | readData (data : List Byte)
  | unsupported
  | peerWrite (peer pa : Nat) (data : List Byte)
  | peerRead (peer pa len : Nat)
  | peerAtomic (peer pa len op : Nat) (operand compare : List Byte)
  | hostAtomic (addr len op : Nat) (operand compare : List Byte)
  | peerBlock (peer collid : Nat) (line : Nat) (data : List Byte)
  | peerDone (peer collid : Nat)
  | peerReply (data : List Byte)
  | pfc (port pri quanta : Nat)
  | mgmt (response : List Nat)
  | measurement (index : Nat) (value : List Byte)
  | spdm (fn : Nat)
  | tdisp (fn : Nat) (ok : Bool)
  | pageRequest (ctx gen va : Nat)
  | error
deriving DecidableEq, Repr

/-- The H-die's registers and tables (23, 24). `hdm` are the decoders of the second tier: base, size and the ports
interleaved (23:R345); `rails` what each supply rail reads, in millivolts from its nominal voltage, and `temps` the die
temperatures (24:R368, R372); `relocked`: the clocks of a plan run, and contexts are being restored (24:R364); `accepted` the firmware image that the boot ROM accepted (24:R359, R362). The arithmetic clock has counted `acBase` ac at device time `acFrom`, when
its plan took effect (00:R4). -/
structure HDie where
  rfqbase : DWord
  rfqsize : Nat
  rfqprod : Nat
  rfqcons : Nat
  rfqvec : Nat
  rfqdrop : Nat
  emid : Nat
  rqbase : DWord
  rqlog : Nat
  rqerr : DWord
  rqgo : Nat
  bootst : Nat
  recpage : Nat
  planrec : DWord
  planst : Nat
  powercap : Nat
  recBuf : Memory
  flash : List Byte
  svnFuse : Nat
  fence : BitVec 160
  fenceNext : BitVec 160
  plan : List Byte
  acBase : Nat
  acFrom : DWord
  planNext : List Byte
  counters : Map Nat
  flashCounters : Map Nat
  lastFlush : DWord
  temps : List Nat
  power : Nat
  throttled : Bool
  tripped : Bool
  pendingReset : Option Bool
  msix : List (HostFn × Msix)
  tdis : Map Tdi
  ports : Map Port
  migth : Nat
  stripes : Map (List DWord)
  links : Map Link
  trainedOnce : Bool
  lostExpanders : List Nat
  hdm : List (Nat × Nat × List Nat)
  rails : List Int
  accepted : List Byte
  out : List Output
  relocked : Bool := false
deriving DecidableEq, Repr

/-! ### Schedule -/

/-- Which agent the instruction being executed belongs to (log entry 2). -/
inductive Focus
  | device
  | warp (core slot : Nat)
  | scalar (core : Nat) (storer : Bool)
deriving DecidableEq, Repr

/-- The package. Warps and groups are keyed by 256 × core + warp slot and 32 × core + group slot; cores, clusters and
slices by their number in the package. `fqHeld` are fault records for which no task entry was free yet (20:R297); `kern`
and `kernSize` are the physical memory that the slice kernels reserve for tables, save areas and private areas (20:R290;
log entry 10). -/
structure State where
  time : DWord
  agenda : List Action
  focus : Focus
  fresh : Nat
  nextId : Nat
  mem : Memory
  poison : List Nat
  warps : Map Warp
  groups : Map Group
  cores : Map Core
  results : Map Result
  acc : Map Access
  sleepers : List Sleeper
  commits : Map Commit
  vers : Map VerRec
  dir : Map DirEntry
  l2 : Map L2Slice
  clusters : Map Cluster
  dies : Map Die
  ctxs : Map Ctx
  queues : Map Queue
  launches : Map Launch
  phases : List (Nat × Phase)
  slices : Map Slice
  colls : Map Coll
  shootdowns : Map Shootdown
  fqPosted : List (Nat × FqRecord)
  fqHeld : List (Nat × FqRecord)
  kern : Nat
  kernSize : Nat
  hdie : HDie
deriving DecidableEq, Repr

/-! ### Reset -/

/-- No gambit: status NONE until the first TXB (05:R96). -/
def Gambit.none : Gambit := ⟨false, Option.none, 13, 0, [], [], []⟩

/-- A scalar core before any program is loaded (10:R186; log entry 5). -/
def Scalar.blank : Scalar := ⟨List.replicate 32 0, 0, [], [], 0, 0, Option.none, false, [], 0, [], []⟩

/-- A core in which nothing has been placed (log entry 5). -/
def Core.blank : Core :=
  ⟨[], [], [], [], [], [], [], [], [], [], [], [], [], 0, Scalar.blank, Scalar.blank, []⟩

/-- An L2 slice at reset: entry 0 is valid (16:R255; its fields by log entry 5). -/
def L2Slice.blank : L2Slice := ⟨[], [], [(0, ⟨true, 0, 2048, 4096, 4096, 0, 0xFFFF, 0⟩)], 0, [], [], []⟩

/-- A cluster that holds nothing. -/
def Cluster.blank : Cluster :=
  ⟨[], [], [], [], Option.none, [], Option.none, Option.none, [], [], 0, 0, [], [], Option.none, [], 0⟩

/-- A copy engine with nothing queued. -/
def CopyEngine.blank : CopyEngine := ⟨[], 0, [], []⟩

/-- A die at reset: weight store zero, every region OPEN and owned by no context (16:R249). -/
def Die.blank : Die := ⟨[], [], [], [], [], 0, []⟩

/-- A region at reset (16:R249). -/
def WsRegion.blank : WsRegion := ⟨false, false, 0, 0⟩

/-- A memory-side slice at reset (log entry 5). -/
def Slice.blank : Slice := ⟨[], [], [], [], 0, 0, 0, [], [], [], [], 0⟩

/-- A ring that is not in use. -/
def Ring.blank : Ring := ⟨List.replicate 8 0, 0, 0, 0, 0, 0, 0, 0, 0, [], [], Option.none, []⟩

/-- An Ethernet port with nothing configured: HLO 0, HCNT 1 (log entry 5). -/
def Port.blank : Port := ⟨[], [], 256, [], 0⟩

/-- A TDI at reset: CONFIG_UNLOCKED, unbound. -/
def Tdi.blank : Tdi := ⟨0, 0, 0, false⟩

/-- A dependency slot at placement (13:R218). -/
def DepSlot.zero : DepSlot := ⟨0, false, false, 0⟩

/-- The empty claim. -/
def Claim.empty : Claim :=
  ⟨0, 0, 0, 0, 0, 0, 0, 0, 0, 0, 0, 0, 0, 0, 0, 0, 0, 0, 0, 0, 0, 0, 0, false, 0, 0, 0, 0⟩

/-- The root's claim: the whole package less the fenced clusters (20:R289, R290; RATE, DEPTH and WAYS as entry 0 of
the slices has them). `mem` is set at stage 6. -/
def Claim.root (fence : BitVec 160) : Claim :=
  { Claim.empty with
    cl := ~~~fence, exc := ~~~fence, gcnt := 32, rcnt := 128, scnt := 2048, tcnt := 32, mem := 512 * 2 ^ 30,
    qcnt := 4096, tdcnt := 4096, wscnt := 256, dccnt := 16384, phcnt := 256, rate := 2048, depth := 4096,
    ways := 0xFFFF }

/-- The root at package reset: stopped until stage 6 of bring-up (20:R289, R290). -/
def Ctx.root (fence : BitVec 160) : Ctx :=
  ⟨0xFFFF, 0, 0, 0, Claim.root fence, 0, 0, Option.none, [], 0, 0, false, 0, [], []⟩

/-- The H-die at package reset: stage 1, no plan, POWERCAP 2,600 W, MIGTH 256 (24 Table 4, R360; 23:R346); the fence
mask, flash and fuses are the module's (24:R359, R367). Registers without a reset value: log entry 5. -/
def HDie.reset : HDie where
  rfqbase := 0
  rfqsize := 16
  rfqprod := 0
  rfqcons := 0
  rfqvec := 0
  rfqdrop := 0
  emid := 0
  rqbase := 0
  rqlog := 4
  rqerr := 0
  rqgo := 0
  bootst := 1
  recpage := 0
  planrec := 0
  planst := 0
  powercap := 2600
  recBuf := []
  flash := []
  svnFuse := 0
  fence := 0
  fenceNext := 0
  plan := []
  acBase := 0
  acFrom := 0
  planNext := []
  counters := []
  flashCounters := []
  lastFlush := 0
  temps := [0, 0, 0, 0, 0]
  power := 0
  throttled := false
  tripped := false
  pendingReset := Option.none
  msix := []
  tdis := []
  ports := []
  migth := 256
  stripes := []
  links := []
  trainedOnce := false
  lostExpanders := []
  hdm := []
  rails := []
  accepted := []
  out := []

/-- The package right after package reset: device time 0 (00:R3), boot stage 1 (24:R360), the root context created
but not yet runnable (20:R289), nothing placed, no queue valid (20:R290). -/
def State.reset : State where
  time := 0
  agenda := []
  focus := .device
  fresh := 0
  nextId := 1
  mem := []
  poison := []
  warps := []
  groups := []
  cores := []
  results := []
  acc := []
  sleepers := []
  commits := []
  vers := []
  dir := []
  l2 := []
  clusters := []
  dies := []
  ctxs := [(0, Ctx.root 0)]
  queues := []
  launches := []
  phases := []
  slices := []
  colls := []
  shootdowns := []
  fqPosted := []
  fqHeld := []
  kern := 0
  kernSize := 0
  hdie := HDie.reset

end Sys2Proof.Machine
end

