-- ==== Sys2Proof/Machine/Flags.lean ====
section
/-! DEFINITION. The exception flags of STATUS (04:R66, 05 Table 8): six sticky bits of the warp. -/

namespace Sys2Proof.Machine

/-- Raise flags: they are sticky (04:R66). -/
def Warp.raise (w : Warp) (fl : XFlags) : Warp := { w with xf := w.xf ||| BitVec.ofNat 6 fl }

/-- STATUS (05 Table 8): XF, COPIES, MEETS. -/
def Warp.status (w : Warp) : Nat := w.xf.toNat + w.copies.length * 2 ^ 8 + w.meets.length * 2 ^ 16

/-- A write of STATUS writes XF alone (05 Table 8). -/
def Warp.setStatus (w : Warp) (v : Nat) : Warp := { w with xf := BitVec.ofNat 6 v }

end Sys2Proof.Machine
end

