-- ==== Sys2Proof/Machine/Mem.lean ====
section
/-! DEFINITION. Physical memory, homes and caches, version records, translation (chapter 16; 20:R293; 23:R341, R356). -/

namespace Sys2Proof.Machine

/-! ### Bytes -/

/-- The byte at `a`. -/
def Memory.get : Memory → Nat → Byte
  | [], _ => Memory.blank
  | (k, v) :: m, a => if k = a then v else Memory.get m a

/-- Remove the byte at `a`. -/
def Memory.erase : Memory → Nat → Memory
  | [], _ => []
  | (k, v) :: m, a => if k = a then m else (k, v) :: Memory.erase m a

/-- Insert the byte `b` at `a`. -/
def Memory.insert : Memory → Nat → Byte → Memory
  | [], a, b => [(a, b)]
  | (k, v) :: m, a, b =>
    if a < k then (a, b) :: (k, v) :: m
    else if a = k then (a, b) :: m
    else (k, v) :: Memory.insert m a b

/-- Write one byte, keeping the canonical form: a blank byte is not listed. -/
def Memory.put (m : Memory) (a : Nat) (b : Byte) : Memory :=
  if b = Memory.blank then Memory.erase m a else Memory.insert m a b

/-- Addresses rise strictly from `lo` on and no byte is blank. -/
def Memory.wfFrom : Nat → Memory → Bool
  | _, [] => true
  | lo, (k, v) :: m => decide (lo ≤ k) && decide (v ≠ Memory.blank) && Memory.wfFrom (k + 1) m

/-- The canonical form of a memory. -/
def Memory.wf (m : Memory) : Bool := Memory.wfFrom 0 m

/-- `n` bytes from `a` on. -/
def Memory.read (m : Memory) (a : Nat) : Nat → List Byte
  | 0 => []
  | n + 1 => m.get a :: Memory.read m (a + 1) n

/-- Write bytes from `a` on. -/
def Memory.write : Memory → Nat → List Byte → Memory
  | m, _, [] => m
  | m, a, b :: bs => Memory.write (m.put a b) (a + 1) bs

/-- The `n`-byte little-endian value at `a` (02 Table 6). -/
def Memory.readNat (m : Memory) (a n : Nat) : Nat := ofBytes (m.read a n)

/-- Write `n` bytes of a value, little-endian. -/
def Memory.writeNat (m : Memory) (a n v : Nat) : Memory := m.write a (toBytes v n)

/-- Write the bytes whose mask bit is set. -/
def Memory.writeMasked (m : Memory) (a : Nat) (mask : Nat) : List Byte → Memory
  | [] => m
  | b :: bs => Memory.writeMasked (if mask.testBit 0 then m.put a b else m) (a + 1) (mask / 2) bs

/-! ### Where an address lives (16:R237, R238; 23:R341) -/

/-- What stands at a physical address. -/
inductive Region
  | ram | hole | registers | host | peer (p : Nat)
deriving DecidableEq, Repr

/-- 16 Table 1 and 23 Table 3. -/
def regionOf (pa : Nat) : Region :=
  if pa < 0x8000000000 then .ram
  else if pa < 0x10000000000 then .hole
  else if pa < 0x90000000000 then .ram
  else if pa < 0x8000000000000 then .hole
  else if pa < 0x8000100000000 then .registers
  else if pa < 0x8800000000000 then .hole
  else if pa < 0x9000000000000 then .host
  else if pa < 0xA000000000000 then .hole
  else if pa < 0xB000000000000 then .peer (bits pa 40 8)
  else .hole

/-- The channel of the package that homes a line (16:R238). -/
def channelOf (pa : Nat) : Nat := (bits pa 12 8 ^^^ bits pa 20 8) ^^^ bits pa 28 8

/-- The K-die of the home. -/
def homeDie (pa : Nat) : Nat := channelOf pa >>> 6

/-- The memory-side slice of the package, 0 to 63, of the home. -/
def homeSlice (pa : Nat) : Nat := 16 * homeDie pa + (channelOf pa % 64) / 4

/-- The channel-local address (16:R239). -/
def channelLocal (pa : Nat) : Nat := (pa >>> 20) * 2 ^ 12 + bits pa 0 12

/-- The set of a line in its slice (16:R239). -/
def l2Set (pa : Nat) : Nat := bits (channelLocal pa) 7 9

/-- Cluster and die of a core of the package. -/
def clusterOf (core : Nat) : Nat := core / 4
def dieOfCluster (cl : Nat) : Nat := cl / 40
def dieOf (core : Nat) : Nat := core / 160

/-! ### Parts of the state -/

/-- Lifetime counters (24 Table 7), numbered in the table's order; a counter kept per unit (die, slice, port) has 32 times
the unit added. CE and UE are kept per array class of Table 6a and die: 512 × class more. -/
def cTaskPoison : Nat := 2
def cDepPoison : Nat := 3
def cLateSave : Nat := 4
def cStalePrr : Nat := 5
def cEmidConflict : Nat := 6
def cDoorbellBad : Nat := 7
def cRfqDrop : Nat := 8
def cMigDrop : Nat := 9
def cVerDrop : Nat := 10
def cPause : Nat := 11
def cDfull : Nat := 12
def cDsize : Nat := 13
def cDfault : Nat := 14
def cThermtrip : Nat := 15
def cPowercapAct : Nat := 16

namespace State

variable (s : State)

def core (c : Nat) : Core := s.cores.getD c Core.blank
def setCore (c : Nat) (v : Core) : State := { s with cores := s.cores.set c v }
def warp? (c w : Nat) : Option Warp := s.warps.get? (256 * c + w)
def setWarp (c w : Nat) (v : Warp) : State := { s with warps := s.warps.set (256 * c + w) v }
def delWarp (c w : Nat) : State := { s with warps := s.warps.del (256 * c + w) }
def group? (c g : Nat) : Option Group := s.groups.get? (32 * c + g)
def setGroup (c g : Nat) (v : Group) : State := { s with groups := s.groups.set (32 * c + g) v }
def delGroup (c g : Nat) : State := { s with groups := s.groups.del (32 * c + g) }
def cluster (c : Nat) : Cluster := s.clusters.getD c Cluster.blank
def setCluster (c : Nat) (v : Cluster) : State := { s with clusters := s.clusters.set c v }
def die (d : Nat) : Die := s.dies.getD d Die.blank
def setDie (d : Nat) (v : Die) : State := { s with dies := s.dies.set d v }
def slice (i : Nat) : Slice := s.slices.getD i Slice.blank
def setSlice (i : Nat) (v : Slice) : State := { s with slices := s.slices.set i v }
def l2slice (i : Nat) : L2Slice := s.l2.getD i L2Slice.blank
def setL2 (i : Nat) (v : L2Slice) : State := { s with l2 := s.l2.set i v }
def ctx? (i : Nat) : Option Ctx := s.ctxs.get? i
def setCtx (i : Nat) (v : Ctx) : State := { s with ctxs := s.ctxs.set i v }

/-- A new number for an item. -/
def takeId : Nat × State := (s.nextId, { s with nextId := s.nextId + 1 })

/-- A free value of `n` bits (log entry 7). -/
def takeFree (n : Nat) : Nat × State :=
  ((Config.freeBits s.fresh).toNat % 2 ^ n, { s with fresh := s.fresh + 1 })

/-- Add `n` to a lifetime counter (24 Table 7). -/
def count (k n : Nat) : State :=
  { s with hdie := { s.hdie with counters := s.hdie.counters.set k (s.hdie.counters.getD k 0 + n) } }

/-- Send something to the outside. -/
def send (o : Output) : State := { s with hdie := { s.hdie with out := s.hdie.out ++ [o] } }

/-- Post an event to a slice's KEVT queue (21 Table 11). -/
def postEvent (i kind payload : Nat) : State :=
  let sl := s.slice i
  s.setSlice i { sl with kevt := sl.kevt ++ [BitVec.ofNat 64 (kind + payload * 256)] }

end State

/-! ### Poison (16:R240) -/

/-- Is some byte of the range in a poisoned line? -/
def State.poisoned (s : State) (pa n : Nat) : Bool :=
  s.poison.any fun l => overlap (l * 128) 128 pa n

/-- Poison the line of `pa`. -/
def State.poisonLine (s : State) (pa : Nat) : State :=
  if s.poison.contains (pa / 128) then s else { s with poison := (pa / 128) :: s.poison }

/-- A write of the whole line clears its poison. -/
def State.clearPoison (s : State) (pa : Nat) : State := { s with poison := s.poison.filter (· ≠ pa / 128) }

/-! ### Replacement (09:R151, 16:R239; log entry 102) -/

/-- The ways below a node of a replacement tree, the one to be replaced first leading; bit `node` of the tree points to
the right half. -/
def plruBelow (tree : Nat) : Nat → Nat → List Nat
  | 0, node => [node]
  | d + 1, node =>
    let l := plruBelow tree d (2 * node)
    let r := plruBelow tree d (2 * node + 1)
    if tree.testBit node then r ++ l else l ++ r

/-- The 2^depth ways of a set in the order of replacement. -/
def plruWays (tree depth : Nat) : List Nat := (plruBelow tree depth 1).map (· - 2 ^ depth)

/-- The nodes above `node` point to it, or away from it. -/
def plruPoint (toward : Bool) : Nat → Nat → Nat → Nat
  | 0, _, tree => tree
  | d + 1, node, tree =>
    plruPoint toward d (node / 2) (setBits tree (node / 2) 1 (if (node % 2 == 1) == toward then 1 else 0))

/-- A way becomes the most recently used of its set, or with `last` the least recently used. -/
def plruUse (depth way : Nat) (last : Bool) (tree : Nat) : Nat := plruPoint last depth (2 ^ depth + way) tree

/-! ### Tags of the L2 slices (16:R239, R241, R255, R257) -/

/-- The slice entry that serves a context: its own or entry 0 (16:R255). -/
def L2Slice.entryOf (l : L2Slice) (ctx : Nat) : Nat :=
  match l.ctxs.find? (fun e => e.1 ≠ 0 && e.2.v && e.2.ctx = ctx) with
  | some e => e.1
  | none => 0

/-- Change OCC of an entry. -/
def L2Slice.addOcc (l : L2Slice) (e : Nat) (up : Bool) : L2Slice :=
  match l.ctxs.get? e with
  | none => l
  | some c => { l with ctxs := l.ctxs.set e { c with occ := if up then c.occ + 1 else c.occ - 1 } }

/-- Remove a line's tag. -/
def L2Slice.dropLine (l : L2Slice) (line : Nat) : L2Slice :=
  match l.lines.get? line with
  | none => l
  | some t => { (if t.zero then l else l.addOcc t.by_ false) with lines := l.lines.del line }

/-- The lines of a set that hold data (or, with `zero`, zero tags). -/
def L2Slice.inSet (l : L2Slice) (pa : Nat) (zero : Bool) : List (Nat × L2Line) :=
  l.lines.filter fun e => e.2.zero == zero && l2Set (e.1 * 128) == l2Set pa

/-- Ways that the entry's mask permits. -/
def L2Slice.permits (l : L2Slice) (e way : Nat) : Bool := match l.ctxs.get? e with | some c => c.ways.testBit way | none => true

/-- A way is used. -/
def L2Slice.useWay (l : L2Slice) (pa way : Nat) : L2Slice :=
  { l with plru := l.plru.set (l2Set pa) (plruUse 4 way false (l.plru.getD (l2Set pa) 0)) }

/-- The data way that a fill for entry `e` takes, and the line it replaces: a permitted way that is free, else the first
in the order of replacement whose line is not pinned; none if there is none (16:R239, R257). -/
def L2Slice.fillWay (l : L2Slice) (pa e : Nat) : Option (Nat × Option Nat) :=
  let set_ := l.inSet pa false
  let held := fun (w : Nat) => set_.find? fun x => decide (x.2.way = w)
  match (List.range 16).find? fun w => l.permits e w && (held w).isNone with
  | some w => some (w, none)
  | none =>
    (plruWays (l.plru.getD (l2Set pa) 0) 4).findSome? fun w =>
      if !l.permits e w then none
      else match held w with
        | some x => if x.2.pins = 0 then some (w, some x.1) else none
        | none => none

/-- A line enters a data way, if one may be had. -/
def L2Slice.fill (l : L2Slice) (pa e : Nat) (dirty : Bool) (pins : Nat) : L2Slice :=
  match l.fillWay pa e with
  | none => l
  | some (w, old) =>
    let l := match old with | some x => l.dropLine x | none => l
    (({ l with lines := l.lines.set (pa / 128) ⟨dirty, false, e, pins, w⟩ }).addOcc e true).useWay pa w

/-- An access of a line at its slice: a hit marks it; a write moves a zero line into a data way and frees its tag; a miss
fills the line for the context. -/
def L2Slice.touch (l : L2Slice) (pa ctx : Nat) (write : Bool) : L2Slice :=
  match l.lines.get? (pa / 128) with
  | some t =>
    if t.zero then (if write then (l.dropLine (pa / 128)).fill pa (l.entryOf ctx) true t.pins else l)
    else ({ l with lines := l.lines.set (pa / 128) { t with dirty := t.dirty || write } }).useWay pa t.way
  | none => l.fill pa (l.entryOf ctx) write 0

/-- The offset in a stripe set whose granule stands at a local physical address: the reverse of 23:R356. -/
def stripeOffset (set_ : List DWord) (pa : Nat) : Option Nat :=
  let h := (set_.getD 0 0).toNat
  let glog := bits h 24 5
  let m := bits h 16 4
  let base := bits (set_.getD (1 + m) 0).toNat 12 40 * 4096
  if !(bit h 0) || decide (pa < base) then none
  else
    let o := pa - base
    some (((((o >>> glog) * bits h 8 5) + m) <<< glog) + bits o 0 glog)

/-- The address in a leaf of a context that counts accesses and covers the frame (23:R346). -/
def State.countedAt (s : State) (f : Leaf) (pa : Nat) : Option Nat :=
  let o? := if f.stripe = 0 then some pa else stripeOffset ((s.hdie.stripes.get? f.stripe).getD []) pa
  o?.bind fun o =>
    if f.v && f.ac && !f.ver && decide (f.pa ≤ o) && decide (o < f.pa + f.size) then some (f.va + (o - f.pa)) else none

/-- The leaves that count a frame, as contexts with the page of the frame in each. -/
def State.counting (s : State) (pa : Nat) : List (Nat × Nat) :=
  s.ctxs.flatMap fun c => c.2.leaves.filterMap fun f => (s.countedAt f pa).map fun va => (c.1, va / 4096)

/-- One leaf's count of a frame rises; at MIGTH it returns to 0 and a migration notice is queued (23:R346). -/
def State.countFill (s : State) (pa ctx page : Nat) : State :=
  let h := homeSlice pa
  let sl := s.slice h
  let key := ctx * 2 ^ 45 + page
  let n := sl.migCnt.getD key 0 + 1
  if n ≥ s.hdie.migth then
    let s := s.setSlice h { sl with migCnt := sl.migCnt.del key }
    let t := ctx % 64
    let d := t / 16
    if (s.die d).noticeCount ≥ 4096 then s.count cMigDrop 1
    else (s.setDie d { s.die d with noticeCount := (s.die d).noticeCount + 1 }).postEvent t 2 (pa / 4096 + ctx * 2 ^ 40)
  else s.setSlice h { sl with migCnt := sl.migCnt.set key n }

/-- An L2 fill from a frame adds 1 to the count of each leaf that counts it. -/
def State.migrate (s : State) (pa : Nat) : State := (s.counting pa).foldl (fun s x => s.countFill pa x.1 x.2) s

/-- A line moves at its home with no charge to a context: a write-back (16:R255). -/
def State.passL2 (s : State) (pa ctx : Nat) (write : Bool) : State :=
  match regionOf pa with
  | .ram =>
    let l := s.l2slice (channelOf pa)
    let s' := s.setL2 (channelOf pa) (l.touch pa ctx write)
    if !l.lines.has (pa / 128) && (s'.l2slice (channelOf pa)).lines.has (pa / 128) then s'.migrate pa else s'
  | _ => s

/-! ### The port of a slice (16:R255, R256) -/

/-- The arithmetic clock in kHz: the active plan's, else 1.3 GHz (24:R363). -/
def HDie.fac (h : HDie) : Nat := if h.plan.isEmpty then 1300000 else bits (ofBytes h.plan) 0 32

/-- The ac counted so far, under the plans that were active (00:R2, R4). -/
def State.acNow (s : State) : Nat := s.hdie.acBase + (s.time - s.hdie.acFrom).toNat * s.hdie.fac / 1300000

/-- A bucket after `n` ac: RATE/1,024 tokens each, DEPTH at most. -/
def L2Ctx.refill (e : L2Ctx) (n : Nat) : L2Ctx :=
  let total := min (e.tok * 1024 + e.frac + e.rate * n) (e.depth * 1024)
  { e with tok := total / 1024, frac := total % 1024 }

/-- A grant takes one ac of the port, `now` being the ac counted (log entry 6). -/
def L2Slice.tick (l : L2Slice) (now : Nat) : L2Slice :=
  let ac := max (l.ac + 1) now
  { l with ac := ac, ctxs := l.ctxs.map (fun (e : Nat × L2Ctx) => (e.1, e.2.refill (ac - l.ac))),
           borrowed := l.borrowed.filter fun a => decide (ac < a + 1024) }

/-- Has the context of a request the tokens for it? -/
def L2Slice.covers (l : L2Slice) (ctx cost : Nat) : Bool :=
  match l.ctxs.get? (l.entryOf ctx) with
  | some e => decide (cost ≤ e.tok)
  | none => true

/-- May another borrowed grant be made? -/
def L2Slice.mayBorrow (l : L2Slice) : Bool := decide (l.borrowed.length < 128)

/-- A grant: tokens are taken, or it is a borrowed one. -/
def L2Slice.charge (l : L2Slice) (ctx cost : Nat) : L2Slice :=
  let i := l.entryOf ctx
  match l.ctxs.get? i with
  | none => l
  | some e =>
    if cost ≤ e.tok then { l with ctxs := l.ctxs.set i { e with tok := e.tok - cost } }
    else { l with borrowed := l.ac :: l.borrowed }

/-- A request that no order of waiting requests holds back is granted at once where its tokens cover it; else the port
lets the ac pass until they do, or, for a context that gains none, until another borrowed grant may be made (16:R256, log
entry 75). -/
def L2Slice.chargeNow (l : L2Slice) (ctx cost now : Nat) : L2Slice :=
  let l := l.tick now
  if l.covers ctx cost then l.charge ctx cost
  else match l.ctxs.get? (l.entryOf ctx) with
    | none => l
    | some e =>
      if e.rate ≠ 0 && decide (cost ≤ e.depth) then
        (l.tick (l.ac + ((cost - e.tok) * 1024 - e.frac + e.rate - 1) / e.rate)).charge ctx cost
      else if l.mayBorrow then l.charge ctx cost
      else (l.tick (l.borrowed.foldl min l.ac + 1024)).charge ctx cost

/-- Tokens of a request: one per 64 bytes; a line is two. -/
def portCost (n : Nat) : Nat := max 1 ((n + 63) / 64)

/-- `n` bytes are accessed at their home (16:R242), and charged to the context. -/
def State.touchHome (s : State) (pa ctx n : Nat) (write : Bool) : State :=
  match regionOf pa with
  | .ram =>
    let ch := channelOf pa
    (s.setL2 ch ((s.l2slice ch).chargeNow ctx (portCost n) s.acNow)).passL2 pa ctx write
  | _ => s

/-- A line is accessed at its home. -/
def State.touchL2 (s : State) (pa ctx : Nat) (write : Bool) : State := s.touchHome pa ctx 128 write

/-! ### Coherence (16:R244, R245; log entry 102) -/

/-- Agents that cache lines: cores by their number, slice core i as 640 + i. The die of one, and its number there. -/
def agentDie (a : Nat) : Nat := if a < 640 then a / 160 else (a - 640) / 16
def agentIn (a : Nat) : Nat := if a < 640 then a % 160 else 160 + (a - 640) % 16
def agentOf (d n : Nat) : Nat := if n < 160 then 160 * d + n else 640 + 16 * d + (n - 160)

/-- The agents that hold a copy of a line. -/
def State.copies (s : State) (line : Nat) : List Nat :=
  match s.dir.get? line with
  | none => []
  | some e => e.dies.flatMap fun d => match (s.die d).snoop.get? line with
    | some x => x.agents.map (agentOf d)
    | none => []

/-- The agent whose copy is the owned one. -/
def State.ownerOf (s : State) (line : Nat) : Option Nat :=
  (s.dir.get? line).bind fun e => e.owner.bind fun d => ((s.die d).snoop.get? line).bind fun x => x.owner.map (agentOf d)

/-- An agent's copy of a line. -/
def State.copyOf (s : State) (a line : Nat) : Option Moesi :=
  if a < 640 then ((s.core a).l1.get? line).map (·.state) else (s.slice (a - 640)).cache.get? line

/-- The state of an agent's copy changes. -/
def State.setCopy (s : State) (a line : Nat) (st : Moesi) : State :=
  if a < 640 then
    match (s.core a).l1.get? line with
    | some t => s.setCore a { s.core a with l1 := (s.core a).l1.set line { t with state := st } }
    | none => s
  else s.setSlice (a - 640) { s.slice (a - 640) with cache := (s.slice (a - 640)).cache.set line st }

/-- The filter of the agent's die and the home's directory name the agent no more. -/
def State.unlist (s : State) (a line : Nat) : State :=
  let d := agentDie a
  match (s.die d).snoop.get? line with
  | none => s
  | some x =>
    let x' : SnoopEntry := ⟨x.agents.filter (· ≠ agentIn a), if x.owner = some (agentIn a) then none else x.owner⟩
    let gone := x'.agents.isEmpty
    let s := s.setDie d { s.die d with snoop := if gone then (s.die d).snoop.del line else (s.die d).snoop.set line x' }
    match s.dir.get? line with
    | none => s
    | some e =>
      let e' := { e with dies := if gone then e.dies.filter (· ≠ d) else e.dies,
                         owner := if e.owner = some d && x'.owner.isNone then none else e.owner }
      { s with dir := if e'.dies.isEmpty && e'.note.isNone then s.dir.del line else s.dir.set line e' }

/-- A copy leaves its agent; a dirty one is written back to the home. -/
def State.dropCopy (s : State) (a line : Nat) : State :=
  match s.copyOf a line with
  | none => s
  | some st =>
    let ctx := if a < 640 then (match (s.core a).l1.get? line with | some t => t.ctx | none => 0) else 0
    let s := if st = .m || st = .o then s.passL2 (128 * line) ctx true else s
    let s := if a < 640 then s.setCore a { s.core a with l1 := (s.core a).l1.del line }
      else s.setSlice (a - 640) { s.slice (a - 640) with cache := (s.slice (a - 640)).cache.del line }
    s.unlist a line

/-- A line leaves every cache (16:R245). -/
def State.recallLine (s : State) (line : Nat) : State := (s.copies line).foldl (fun s a => s.dropCopy a line) s

/-- The sets of a home's directory (8 ways) and of a die's snoop filter (16 ways): which lines share one is not stated. -/
def dirSet (line : Nat) : Nat := (channelLocal (128 * line) / 128) % 2048
def snoopSet (line : Nat) : Nat := line % 16384

/-- The other entries of a line's set in its home's directory. -/
def State.dirOthers (s : State) (line : Nat) : Map DirEntry :=
  s.dir.filter fun e => decide (e.1 ≠ line) && channelOf (128 * e.1) == channelOf (128 * line) && dirSet e.1 == dirSet line

/-- Room for a line in its home's directory: an entry that must go is recalled first. An entry with a holder note is not
taken: a set never holds eight of them (`State.roomNote`). -/
def State.roomDir (s : State) (line : Nat) : State :=
  let set_ := s.dirOthers line
  if set_.length < 8 then s
  else match set_.find? fun e => e.2.note.isNone with
    | some e => s.recallLine e.1
    | none => s

/-- Room in the snoop filter of a die: an entry that must go is recalled from the agents it names. -/
def State.roomSnoop (s : State) (d line : Nat) : State :=
  let set_ := (s.die d).snoop.filter fun e => decide (e.1 ≠ line) && snoopSet e.1 == snoopSet line
  match set_ with
  | e :: _ => if set_.length < 16 then s else e.2.agents.foldl (fun s n => s.dropCopy (agentOf d n) e.1) s
  | [] => s

/-- An agent's copy is listed, as the owned one (M or O) or not. -/
def State.list (s : State) (a line : Nat) (own : Bool) : State :=
  let d := agentDie a
  let s := (s.roomDir line).roomSnoop d line
  let x := (s.die d).snoop.getD line ⟨[], none⟩
  let n := agentIn a
  let x' : SnoopEntry := ⟨if x.agents.contains n then x.agents else n :: x.agents, if own then some n else x.owner⟩
  let s := s.setDie d { s.die d with snoop := (s.die d).snoop.set line x' }
  let e := s.dir.getD line ⟨[], none, none⟩
  { s with dir := s.dir.set line { e with dies := if e.dies.contains d then e.dies else d :: e.dies,
                                          owner := if own then some d else e.owner } }

/-- What the other holders do when an agent obtains a line: they lose it to a write; at a read a modified copy becomes the
owned one and an exclusive copy a shared one. -/
def State.yieldCopies (s : State) (a line : Nat) (write : Bool) : State :=
  if write then ((s.copies line).filter (· ≠ a)).foldl (fun s o => s.dropCopy o line) s
  else
    ((s.copies line).filter (· ≠ a)).foldl (fun s o =>
      match s.copyOf o line with
      | some .m => s.setCopy o line .o
      | some .e => s.setCopy o line .s
      | _ => s) s

/-- The state of the copy that an agent obtains. -/
def State.newState (s : State) (a line : Nat) (write : Bool) : Moesi :=
  if write then .m else match s.copyOf a line with
    | some st => st
    | none => if (s.copies line).isEmpty then .e else .s

/-- The way of an L1 set that a line takes, and the line it replaces. -/
def Core.fillWay (k : Core) (line : Nat) : Nat × Option Nat :=
  let held := fun (w : Nat) => k.l1.find? fun e => e.1 % 128 == line % 128 && decide (e.2.way = w)
  match (List.range 8).find? fun w => (held w).isNone with
  | some w => (w, none)
  | none =>
    let w := (plruWays (k.l1plru.getD (line % 128) 0) 3).headD 0
    (w, (held w).map (·.1))

/-- A core obtains a line to read or to write under a cache hint (09:R151, R152): a miss allocates it, at the least
recently used position with stream and not at all with bypass-L1. -/
def State.touchL1 (s : State) (c pa ctx : Nat) (write : Bool) (hint : Nat) : State :=
  let line := pa / 128
  let s := s.yieldCopies c line write
  let old := (s.core c).l1.get? line
  if old.isNone && hint % 4 = 2 then s
  else
    let st := s.newState c line write
    let (way, out) := match old with | some t => (t.way, none) | none => (s.core c).fillWay line
    let s := match out with | some l => s.dropCopy c l | none => s
    let k := s.core c
    let tree := plruUse 3 way (old.isNone && decide (hint % 4 = 1)) (k.l1plru.getD (line % 128) 0)
    let s := s.setCore c { k with l1 := k.l1.set line ⟨st, ctx, old.bind (·.tag), way⟩, l1plru := k.l1plru.set (line % 128) tree }
    s.list c line (decide (st = .m))

/-- An access of a core to a line (09:R151, R152): what its L1 does not hold comes from the home, but for a line that is
written whole; evict-after-use then drops it. -/
def State.coreLine (s : State) (c pa ctx : Nat) (write whole : Bool) (hint : Nat) : State :=
  match regionOf pa with
  | .ram =>
    let hit := (s.core c).l1.has (pa / 128)
    let s := s.touchL1 c pa ctx write hint
    let s := if hit then s
      else if hint % 4 = 2 then s.touchL2 pa ctx write
      else if write && whole then s
      else s.touchL2 pa ctx false
    if hint % 4 = 3 then s.dropCopy c (pa / 128) else s
  | _ => s

/-- An access of a slice core to a line, through its cache. -/
def State.sliceLine (s : State) (i pa ctx : Nat) (write : Bool) : State :=
  let line := pa / 128
  let a := 640 + i
  let hit := (s.copyOf a line).isSome
  let s := s.yieldCopies a line write
  let st := s.newState a line write
  let s := (s.setCopy a line st).list a line (decide (st = .m))
  if hit then s else s.touchL2 pa ctx false

/-- Lines of a context leave a core's L1 (09:R153). -/
def State.flushL1 (s : State) (c ctx : Nat) : State :=
  ((s.core c).l1.filter fun e => decide (e.2.ctx = ctx)).foldl (fun s e => s.dropCopy c e.1) s

/-! ### Versioned words (16:R246 to R248) -/

/-- The record of a word that only its first sibling has written (16:R247). -/
def VerRec.fresh (v : Nat) : VerRec := ⟨[some ⟨BitVec.ofNat 64 v, 1, 0⟩, none, none, none], [], 1, 0⟩

/-- The siblings of a word. -/
def VerRec.siblings (r : VerRec) : List Sibling := r.slots.filterMap id ++ r.pooled.map (·.2)

/-- The record of the word at `pa`. -/
def State.verRec (s : State) (pa : Nat) : VerRec := s.vers.getD pa (VerRec.fresh (s.mem.readNat pa 8))

/-- Insert a sibling by ascending SEQ. -/
def insertSeq (x : Sibling) : List Sibling → List Sibling
  | [] => [x]
  | y :: ys => if x.seq < y.seq then x :: y :: ys else y :: insertSeq x ys

/-- Insert an overflow entry by ascending SEQ. -/
def insertPool (x : Nat × Sibling) : List (Nat × Sibling) → List (Nat × Sibling)
  | [] => [x]
  | y :: ys => if x.2.seq < y.2.seq then x :: y :: ys else y :: insertPool x ys

/-- The overflow entry of the lowest SEQ moves into each free slot (16:R248). -/
def VerRec.settle (r : VerRec) : VerRec :=
  let sorted := r.pooled.foldr insertPool []
  let (slots, pooled) := r.slots.foldl (fun (acc : List (Option Sibling) × List (Nat × Sibling)) sl =>
    match sl, acc.2 with
    | some x, o => (acc.1 ++ [some x], o)
    | none, x :: o => (acc.1 ++ [some x.2], o)
    | none, [] => (acc.1 ++ [none], [])) ([], sorted)
  { r with slots := slots, pooled := pooled }

/-- Remove the siblings a token covers (16:R247). -/
def VerRec.cover (r : VerRec) (token : Nat) : VerRec :=
  if bits token 26 6 = r.epoch then
    let keep := fun (x : Sibling) => decide (bits token 0 26 < x.seq)
    VerRec.settle { r with slots := r.slots.map fun o => o.bind fun x => if keep x then some x else none,
                           pooled := r.pooled.filter fun x => keep x.2 }
  else r

/-- Entries of a slice's overflow pool (16:R248). -/
def poolSize : Nat := 65536

/-- The lowest number from `lo` on, among the next `n`, that is not in use. -/
def freeEntry (used : List Nat) (lo : Nat) : Nat → Option Nat
  | 0 => none
  | n + 1 => if used.contains lo then freeEntry used (lo + 1) n else some lo

/-- Put a sibling in the lowest free slot, else in a free entry of the pool; none where there is none, or where the word
has 16. -/
def VerRec.place (r : VerRec) (x : Sibling) (used : List Nat) : Option VerRec :=
  match r.slots.findIdx? (·.isNone) with
  | some i => some { r with slots := setAt r.slots i (some x) }
  | none =>
    if r.pooled.length ≥ 16 then none
    else (freeEntry used 0 poolSize).map fun e => { r with pooled := r.pooled ++ [(e, x)] }

/-- The entries in use after those of one record changed. -/
def poolAfter (used : List Nat) (old new : VerRec) : List Nat :=
  (used.filter fun e => !old.pooled.any fun p => decide (p.1 = e)) ++ new.pooled.map (·.1)

/-- A store with a token (16:R247): none where it is refused. `used` are the entries of the slice's pool in use. -/
def VerRec.store (r : VerRec) (token v actor : Nat) (used : List Nat) : Option VerRec :=
  let r' := r.cover token
  let wrapped := decide (r'.seq = 2 ^ 26 - 1)
  if wrapped && !r'.siblings.isEmpty then none
  else
    let r'' := if wrapped then { r' with epoch := (r'.epoch + 1) % 64, seq := 0 } else r'
    let q := r''.seq + 1
    let x : Sibling := ⟨BitVec.ofNat 64 v, q, actor⟩
    VerRec.place { r'' with seq := q } x (poolAfter used r r')

/-- Replace every sibling by one new one (17:R274, R275): the next SEQ under the epoch rule. -/
def VerRec.replace (r : VerRec) (v actor : Nat) : VerRec :=
  let q := if r.seq = 2 ^ 26 - 1 then 1 else r.seq + 1
  let e := if r.seq = 2 ^ 26 - 1 then (r.epoch + 1) % 64 else r.epoch
  ⟨[some ⟨BitVec.ofNat 64 v, q, actor⟩, none, none, none], [], q, e⟩

/-- Siblings by descending SEQ (17:R272). -/
def VerRec.ranked (r : VerRec) : List Sibling := (r.siblings.foldr insertSeq []).reverse

/-- Header bits 0+32: the token (16 Table 4). -/
def VerRec.token (r : VerRec) : Nat := r.seq + r.epoch * 2 ^ 26

/-- A dot (16 Table 3): 0 for a free slot. -/
def dotOf (o : Option Sibling) : Nat := match o with | some x => x.seq + x.actor * 2 ^ 26 | none => 0

/-- The 64 bytes of a record (16 Tables 2 to 4). -/
def VerRec.image (r : VerRec) : List Byte :=
  (r.slots.flatMap fun o => toBytes (match o with | some x => x.val.toNat | none => 0) 8) ++
  (r.slots.flatMap fun o => toBytes (dotOf o) 6) ++
  toBytes (r.token + r.siblings.length * 2 ^ 32 + (if r.pooled.isEmpty then 0 else 2 ^ 37) +
    (match r.pooled with | x :: _ => x.1 | [] => 0) * 2 ^ 38) 8

/-- Where the record of a word stands: at the shadow base of its VER page + 64w (16:R246). -/
def State.shadowOf (s : State) (pa : Nat) : Option Nat :=
  s.ctxs.findSome? fun c => (c.2.leaves.find? fun f => f.v && f.ver && decide (f.pa ≤ pa) && decide (pa < f.pa + f.size)).map
    fun f => f.shadow + 8 * (pa - f.pa)

/-- Write back a record, with its image in the shadow region, and the page word. -/
def State.setVer (s : State) (pa : Nat) (old new : VerRec) : State :=
  let ch := channelOf pa
  let l := s.l2slice ch
  let s := s.setL2 ch { l with pool := poolAfter l.pool old new }
  let v := match new.ranked with | x :: _ => x.val.toNat | [] => s.mem.readNat pa 8
  let m := match s.shadowOf pa with | some a => s.mem.write a new.image | none => s.mem
  { s with vers := s.vers.set pa new, mem := m.writeNat pa 8 v }

/-- A store of a word of a VER page at its home (16:R247, 17:R273, R274). -/
def State.verStore (s : State) (pa token v actor : Nat) : Option State :=
  let r := s.verRec pa
  match r.store token v actor (s.l2slice (channelOf pa)).pool with
  | none => none
  | some r' => some (s.setVer pa r r')

/-- Store bytes on a VER page: one store with token 0 for each word touched, ascending, its bytes merged into the page
word (17:R274). Stops at the first refusal; the flag says that one was refused. -/
def State.verBytes (actor : Nat) : Nat → State → Nat → List Byte → State × Bool
  | 0, s, _, _ => (s, false)
  | _, s, _, [] => (s, false)
  | n + 1, s, pa, bs =>
    let off := pa % 8
    let w := pa - off
    let k := 8 - off
    let word := ofBytes (((s.mem.read w off) ++ bs.take k ++ (s.mem.read pa 8).drop (bs.take k).length).take 8)
    match s.verStore w 0 word actor with
    | none => (s, true)
    | some s' => State.verBytes actor n s' (w + 8) (bs.drop k)

/-! ### The memory of the slice kernels (20:R290, R293, 05:R95; log entry 10) -/

/-- Bytes of the warp private areas of all warp slots, at the base of the kernels' memory. -/
def areaBytes : Nat := 640 * 256 * 147456

/-- Bytes of a table of 512 entries of 16 bytes, and of the 512 top-level ones from ROOT (20:R293). -/
def tableBytes : Nat := 8192
def rootBytes : Nat := 512 * 8192

/-- What is in use of the kernels' memory: the private areas, and each context's top-level table, tables, save area and
the pages in which its fault records stand. -/
def State.kernUsed (s : State) : List (Nat × Nat) :=
  (s.kern, areaBytes) :: s.ctxs.flatMap fun c =>
    (c.2.tableRoot.toNat, rootBytes) :: (c.2.saveArea.toNat, if c.2.saveTaken then 160 * 2 ^ 22 else 0) ::
    (c.2.tables.map (fun t => (t.2, tableBytes)) ++
     c.2.leaves.filterMap fun f => if f.up.isNone then some (f.pa, f.size) else none)

/-- A free place of `n` bytes in the kernels' memory: the first after something in use. -/
def State.kernFree (s : State) (n : Nat) : Nat :=
  let used := s.kernUsed
  ((used.map fun u => alignUp (u.1 + u.2) 4096).find? fun a =>
    decide (s.kern ≤ a) && used.all fun u => !overlap u.1 u.2 a n).getD (s.kern + areaBytes)

/-- Does a range meet memory that no translation maps: the slice kernels' own, or a shadow region (16:R246)? -/
def State.hidden (s : State) (a n : Nat) : Bool :=
  overlap a n s.kern s.kernSize ||
  s.ctxs.any fun c => c.2.leaves.any fun f => f.v && f.ver && overlap a n f.shadow (8 * f.size)

/-! ### Translation (16:R258, 20:R293, R294; log entry 10) -/

/-- Pages of the seven sizes, the largest first. -/
def pageSizes : List Nat :=
  [16 * 2 ^ 30, 2 ^ 30, 32 * 2 ^ 20, 2 * 2 ^ 20, 64 * 2 ^ 10, 16 * 2 ^ 10, 4 * 2 ^ 10]

/-- The leaf of a context at a virtual address; the root's is the identity, in pages of 1 GiB (20:R290), or the largest that
meet no hidden memory. -/
def State.leafAt (s : State) (ctx va : Nat) : Option Leaf :=
  match s.ctx? ctx with
  | none => none
  | some c =>
    match c.leaves.find? fun f => decide (f.va ≤ va) && decide (va < f.va + f.size) with
    | some f => some f
    | none =>
      if ctx = 0 && decide (va < 0x90000000000) && regionOf va = .ram then
        ((pageSizes.drop 1).find? fun n => !s.hidden (alignDown va n) n).map fun n =>
          ⟨alignDown va n, n, n, alignDown va n, true, true, true, true, false, false, false, 0, 0, some (alignDown va n)⟩
      else none

/-- Entries at level `l` (4: the top-level tables) each cover 2^(3 + 9l) bytes. -/
def unitShift (l : Nat) : Nat := 3 + 9 * l

/-- The level at which pages of a size stand, and how many leaves there make one, as CONT says. -/
def pageLevel (page : Nat) : Nat := if page < 2 ^ 21 then 1 else if page < 2 ^ 30 then 2 else 3
def contRun (cont : Nat) : Nat := if cont = 1 then 4 else if cont = 2 then 16 else 1
def contOf (page : Nat) : Nat :=
  let n := page / 2 ^ unitShift (pageLevel page)
  if n = 4 then 1 else if n = 16 then 2 else 0

def flag (b : Bool) (i : Nat) : Nat := if b then 2 ^ i else 0

/-- The translation entry of a leaf for an address (20 Table 3). -/
def Leaf.entry (f : Leaf) (va : Nat) : Nat :=
  let d := alignDown (va - f.va) (2 ^ unitShift (pageLevel f.page))
  flag f.v 0 + flag true 1 + flag f.r 2 + flag f.w 3 + flag f.x 4 + flag f.ver 5 + flag f.wblk 6 + contOf f.page * 2 ^ 7 +
    flag f.ac 9 + bits (f.pa + d) 12 40 * 2 ^ 12 + bits (f.shadow + 8 * d) 12 40 * 2 ^ 64 + f.stripe * 2 ^ 104

/-- Names the table at level `l` that serves an address. -/
def tableKey (l va : Nat) : Nat := 4 * (va >>> unitShift (l + 1)) + l

/-- The entry at level `l` of a context's table for an address (20:R293): a leaf, a pointer to the next table, or 0. -/
def State.entryAt (s : State) (ctx l va : Nat) : Nat :=
  let below := match s.ctx? ctx with
    | none => 0
    | some c => flag true 0 + bits (c.tables.getD (tableKey (l - 1) va) 0) 12 40 * 2 ^ 12
  match s.leafAt ctx va with
  | some f => if pageLevel f.page = l then f.entry va else if pageLevel f.page < l then below else 0
  | none =>
    let n := 2 ^ unitShift l
    let some_ := match s.ctx? ctx with
      | none => false
      | some c => decide (1 < l) && c.leaves.any fun f => overlap f.va f.size (alignDown va n) n
    if some_ then below else 0

/-- What a walk or a TLB gives. -/
structure Trans where
  pa : Nat
  r : Bool
  w : Bool
  x : Bool
  ver : Bool
  stripe : Nat
deriving DecidableEq, Repr

def TlbEntry.trans (e : TlbEntry) (va : Nat) : Trans := ⟨e.pa + (va - e.va), e.r, e.w, e.x, e.ver, e.stripe⟩

/-- A TLB's answer. -/
def tlbHit (tlb : List TlbEntry) (ctx va : Nat) : Option TlbEntry :=
  tlb.find? fun e => decide (e.ctx = ctx) && decide (e.va ≤ va) && decide (va < e.va + e.size)

/-- The TLB entry that a leaf entry at level `l` composes: the whole run of CONT. -/
def entryTlb (ctx l va e : Nat) : TlbEntry :=
  let unit := 2 ^ unitShift l
  let page := unit * contRun (bits e 7 2)
  let base := alignDown va page
  ⟨ctx, base, page, bits e 12 40 * 4096 - (alignDown va unit - base), bit e 2, bit e 3, bit e 4, bit e 5, bits e 104 8⟩

/-- A walk from level `l` down: at most four entries, of which the last is a leaf, or it finds V = 0. -/
def State.walkFrom (s : State) (ctx va : Nat) : Nat → Option TlbEntry
  | 0 => none
  | l + 1 =>
    let e := s.entryAt ctx (l + 1) va
    if !(bit e 0) then none else if bit e 1 then some (entryTlb ctx (l + 1) va e) else State.walkFrom s ctx va l

/-- The entry a walk composes: none where the page is not present. A leaf that blocks writes gives an entry without
write permission to nobody: writes wait (23:R347), see `State.blocked`. -/
def State.walk (s : State) (ctx va : Nat) : Option TlbEntry := s.walkFrom ctx va 4

/-- The physical addresses of the entries that a walk reads, from the table at `base` on. -/
def State.walkReads (s : State) (ctx va : Nat) : Nat → Nat → List Nat
  | 0, _ => []
  | l + 1, base =>
    let e := s.entryAt ctx (l + 1) va
    (base + 16 * bits va (unitShift (l + 1)) (if l = 3 then 18 else 9)) ::
      (if bit e 0 && !(bit e 1) then State.walkReads s ctx va l (bits e 12 40 * 4096) else [])

/-- A walk reads its entries through the L2, coherently, for the context (16:R255, R258). -/
def State.readTables (s : State) (ctx va : Nat) : State :=
  let root := match s.ctx? ctx with | some c => c.tableRoot.toNat | none => 0
  (s.walkReads ctx va 4 root).foldl (fun s pa => s.touchHome pa ctx 16 false) s

/-- The slice core of its home writes a table page's line; where another slice's core composes, it has been sent the write
as a message (20:R294, R298; log entry 69). -/
def State.writeTable (s : State) (by_ ctx pa : Nat) : State :=
  let h := homeSlice pa
  let (v, s) := if h = by_ then (0, s) else s.takeFree 56
  let s := if h = by_ then s else s.postEvent h 4 v
  s.sliceLine h pa ctx true

/-- The tables that a leaf needs, the highest level first, as level and an address each serves. -/
def Leaf.needs (f : Leaf) : List (Nat × Nat) :=
  [3, 2, 1].flatMap fun l =>
    if l < pageLevel f.page then []
    else
      let n := 2 ^ unitShift (l + 1)
      (rangeFrom (f.va / n) ((f.va + f.size - 1) / n + 1 - f.va / n)).map fun i => (l, i * n)

/-- A table page is taken where there is none, and named in the table above it. -/
def State.makeTable (s : State) (by_ ctx l va : Nat) : State :=
  match s.ctx? ctx with
  | none => s
  | some c =>
    if c.tables.has (tableKey l va) then s
    else
      let s := s.setCtx ctx { c with tables := c.tables.set (tableKey l va) (s.kernFree tableBytes) }
      let up := if l = 3 then c.tableRoot.toNat + 16 * bits va 39 18
        else c.tables.getD (tableKey (l + 1) va) 0 + 16 * bits va (unitShift (l + 1)) 9
      s.writeTable by_ ctx up

/-- The root's table has what its identity map needs beside memory that no translation maps (20:R290). -/
def State.rootTables (s : State) (a n : Nat) : State :=
  [a - 1, a + n].foldl (fun (s : State) va => [3, 2, 1].foldl (fun (s : State) l => s.makeTable 0 0 l va) s) s

/-- The lines of table pages in which the entries of a leaf stand. -/
def State.leafLines (s : State) (ctx : Nat) (f : Leaf) : List Nat :=
  let l := pageLevel f.page
  match s.ctx? ctx with
  | none => []
  | some c => (f.needs.filter (·.1 = l)).flatMap fun x =>
      let base := c.tables.getD (tableKey l x.2) 0
      let n := 2 ^ unitShift (l + 1)
      let lo := max f.va x.2 - x.2
      let hi := min (f.va + f.size) (x.2 + n) - x.2
      let i := (lo >>> unitShift l) / 8
      (rangeFrom i (((hi - 1) >>> unitShift l) / 8 + 1 - i)).map fun j => base + 128 * j

/-- A context's leaves change: the entries of those that come, change or go are written, by the slices their tables are
homed in, the slice core `by_` composing. -/
def State.setLeaves (s : State) (by_ ctx : Nat) (new : List Leaf) : State :=
  match s.ctx? ctx with
  | none => s
  | some c =>
    let come := new.filter fun f => !c.leaves.contains f
    let go := c.leaves.filter fun f => !new.contains f
    let gone := (go.flatMap (s.leafLines ctx)).eraseDups
    let s := s.setCtx ctx { c with leaves := new }
    let s := (come.flatMap Leaf.needs).eraseDups.foldl (fun s x => s.makeTable by_ ctx x.1 x.2) s
    (gone ++ (come.flatMap (s.leafLines ctx)).eraseDups.filter fun pa => !gone.contains pa).foldl
      (fun s pa => s.writeTable by_ ctx pa) s

/-- Is the page write-blocked (20 Table 3, WBLK)? -/
def State.blocked (s : State) (ctx va : Nat) : Bool :=
  match s.leafAt ctx va with
  | none => false
  | some f => f.v && f.wblk

/-- The set of an entry in a TLB of 256 sets (log entry 102). -/
def TlbEntry.set (e : TlbEntry) : Nat := (e.va / e.size) % 256

/-- The L1 TLB: 64 entries, fully associative. -/
def tlbInstall (tlb : List TlbEntry) (e : TlbEntry) : List TlbEntry := (e :: tlb).take 64

/-- The L2 TLB: 256 sets of 8 ways. -/
def tlbInstall8 (tlb : List TlbEntry) (e : TlbEntry) : List TlbEntry :=
  let same := tlb.filter fun x => x.set == e.set
  e :: (same.take 7 ++ tlb.filter fun x => x.set != e.set)

/-- The walker installs the composed entry in both TLBs (16:R258). -/
def State.install (s : State) (core : Nat) (e : TlbEntry) : State :=
  let k := s.core core
  let s := s.setCore core { k with tlb := tlbInstall k.tlb e }
  let cl := s.cluster (clusterOf core)
  s.setCluster (clusterOf core) { cl with tlb := tlbInstall8 cl.tlb e }

/-- A TLB entry of the core for an address: its own TLB, then the cluster's. -/
def State.tlbLook (s : State) (core ctx va : Nat) : Option TlbEntry :=
  match tlbHit (s.core core).tlb ctx va with
  | some e => some e
  | none => tlbHit (s.cluster (clusterOf core)).tlb ctx va

/-- Translation of a read or fetch made outside the operand log: through the TLBs, else by a walk. -/
def State.lookup (s : State) (core ctx va : Nat) : Option TlbEntry :=
  match s.tlbLook core ctx va with
  | some e => some e
  | none => s.walk ctx va

/-- An entry that a walk found, reading the tables, enters both TLBs (16:R258). -/
def State.walked (s : State) (core ctx va : Nat) (e : TlbEntry) : State :=
  if (s.tlbLook core ctx va).isSome then s else (s.readTables ctx va).install core e

/-- Translation by an agent of a core's cluster, with the walk that it takes. -/
def State.through (s : State) (core ctx va : Nat) : Option TlbEntry × State :=
  match s.lookup core ctx va with
  | none => (none, s)
  | some e => (some e, s.walked core ctx va e)

/-- Is the page of an address that an agent of this core needs not present? -/
def State.absent (s : State) (core ctx va : Nat) : Bool := (s.lookup core ctx va).isNone

/-- Where a stripe offset stands (23:R356): none for a set with V = 0. -/
def stripeAddr (set_ : List DWord) (o : Nat) : Option Nat :=
  let h := (set_.getD 0 0).toNat
  if !(bit h 0) then none
  else
    let glog := bits h 24 5
    let n := bits h 8 5
    let g := o >>> glog
    let m := g % n
    let w := (set_.getD (1 + m) 0).toNat
    let pa := bits w 12 40 * 4096 + ((g / n) <<< glog) + bits o 0 glog
    some (if m = bits h 16 4 then pa else 0xA000000000000 + bits w 0 8 * 2 ^ 40 + pa % 2 ^ 40)

/-- The physical address an access through a translation reaches: none where its stripe set has V = 0, or leads to memory
that no translation maps (16:R246). -/
def State.finalPa (s : State) (t : Trans) : Option Nat :=
  if t.stripe = 0 then some t.pa
  else (stripeAddr ((s.hdie.stripes.get? t.stripe).getD []) t.pa).bind fun pa => if s.hidden pa 1 then none else some pa

/-- Is there nothing to fetch at an address: its page is not present, or its frame is a hole or of a stripe set with
V = 0 (03:R52)? -/
def State.nothingAt (s : State) (core ctx va : Nat) : Bool :=
  match s.lookup core ctx va with
  | none => true
  | some e => match s.finalPa (e.trans va) with | none => true | some pa => decide (regionOf pa = .hole)

/-- Is a peer reached by some trained link (23:R354, R355)? The device's own id is no peer. -/
def State.peerAlive (s : State) (p : Nat) : Bool :=
  decide (p ≠ s.hdie.emid) && s.hdie.links.any fun l => l.2.trained && decide (l.2.emid = p)

/-- Is `x` the context `p`, or a descendant of it? -/
def State.inTree : Nat → State → Nat → Nat → Bool
  | 0, _, _, _ => false
  | n + 1, s, p, x => decide (x = p) || (match s.ctx? x with | some c => decide (x ≠ 0) && State.inTree n s p c.parent | none => false)

/-- Is a context in the subtree of a TDI that unlocks (23:R344)? -/
def State.unlocking (s : State) (ctx : Nat) : Bool :=
  s.hdie.tdis.any fun t => t.2.scrubbing && State.inTree 10 s t.2.bind_ ctx

/-! ### What a core reads (18:R279) -/

/-- The bytes of a store, by physical address. -/
def Access.cells (a : Access) : List (Nat × Byte) :=
  let data := toBytes a.b.toNat (a.size * a.parts)
  ((List.range a.pas.length).zip a.pas).flatMap fun (i, pa) =>
    (rangeFrom pa a.size).zip ((data.drop (i * a.size)).take a.size)

/-- Insert an access by its place in the order of local performance. -/
def insertLoc (a : Access) : List Access → List Access
  | [] => [a]
  | b :: bs => if a.loc.getD 0 < b.loc.getD 0 then a :: b :: bs else b :: insertLoc a bs

/-- The stores of a core that are locally and not yet globally performed, in the order of their local performance. -/
def State.localStores (s : State) (core : Nat) : List Access :=
  ((s.acc.filter fun e => decide (e.2.core = core) && decide (e.2.kind = .store) && e.2.loc.isSome).map (·.2)).foldr
    insertLoc []

/-- The last byte that `cells` writes at `a`. -/
def lastAt (cells : List (Nat × Byte)) (a : Nat) : Option Byte :=
  (cells.reverse.find? fun c => decide (c.1 = a)).map (·.2)

/-- What a core's lanes and scalar cores read: memory under the core's locally performed stores. -/
def State.coreRead (s : State) (core pa n : Nat) : List Byte :=
  let cells := (s.localStores core).flatMap Access.cells
  ((List.range n).zip (s.mem.read pa n)).map fun (i, b) => (lastAt cells (pa + i)).getD b

/-- The port of a second-tier address: the decoder that covers it interleaves 1, 2 or 4 ports at 4 KiB (23:R345). -/
def HDie.portOf (h : HDie) (pa : Nat) : Option Nat :=
  (h.hdm.find? fun d => decide (d.1 ≤ pa) && decide (pa < d.1 + d.2.1)).bind fun d =>
    d.2.2[((pa - d.1) / 4096) % d.2.2.length]?

/-- Has the expander behind a second-tier address stopped responding (23:R345; log entry 20)? -/
def State.expanderLost (s : State) (pa : Nat) : Bool :=
  decide (0x10000000000 ≤ pa) && decide (pa < 0x90000000000) &&
    match s.hdie.portOf pa with | some p => s.hdie.lostExpanders.contains p | none => false

/-- A core's read of bytes has seen the stores of the core to them that are only locally performed (18:R279). -/
def State.markSeen (s : State) (core pa n : Nat) : State :=
  { s with acc := s.acc.map fun (e : Nat × Access) =>
      if decide (e.2.core = core) && decide (e.2.kind = .store) && e.2.loc.isSome && e.2.pas.any (overlap · e.2.size pa n)
      then (e.1, { e.2 with seen := true }) else e }

/-- A read of physical memory: bytes, whether they are poisoned, and the state (host and peer data are free values,
log entry 12). With a core, the core's own locally performed stores are seen. -/
def State.physRead (s : State) (core : Option Nat) (pa n : Nat) : List Byte × Bool × State :=
  match regionOf pa with
  | .ram =>
    let bs := match core with | some c => s.coreRead c pa n | none => s.mem.read pa n
    (bs, s.poisoned pa n || s.expanderLost pa, match core with | some c => s.markSeen c pa n | none => s)
  | .host =>
    let (v, s) := (s.send (.hostRead (bits pa 0 47) n)).takeFree (8 * n)
    let (e, s) := s.takeFree 1
    (toBytes v n, e == 1, s)
  | .peer p =>
    if s.peerAlive p then
      let (v, s) := (s.send (.peerRead p (bits pa 0 40) n)).takeFree (8 * n)
      (toBytes v n, false, s)
    else (List.replicate n 0, true, s)
  | .registers => (List.replicate n 0, true, s)
  | .hole => (List.replicate n 0, true, s)

/-- A write of physical memory at its home; the flag says that it was dropped for a lost peer or expander. -/
def State.physWrite (s : State) (pa : Nat) (bs : List Byte) : State × Bool :=
  match regionOf pa with
  | .ram => if s.expanderLost pa then (s, true) else ({ s with mem := s.mem.write pa bs }, false)
  | .host => (s.send (.hostWrite (bits pa 0 47) bs), false)
  | .peer p => if s.peerAlive p then (s.send (.peerWrite p (bits pa 0 40) bs), false) else (s, true)
  | .registers => (s, true)
  | .hole => (s, true)

end Sys2Proof.Machine
end

