-- ==== Sys2Proof/Machine/Ops.lean ====
section
/-! DEFINITION. The named operations on threads, warps and groups: rows and uniform copies, frames and link records,
meeting points, forks, the run, taking a fault and returning from one, the end of threads, warps and phalanxes
(chapters 05, 07, 09, 11). -/

namespace Sys2Proof.Machine

/-! ### Register rows (09:R142) -/

/-- The cell of a lane's row and column that no window holds. -/
def Core.leftCell (k : Core) (lane row col : Nat) : Cell :=
  match k.rows.find? fun r => decide (r.lane = lane) && decide (r.base ≤ row) && decide (row < r.base + (r.columns.headD []).length) with
  | some r => (r.columns.getD col []).getD (row - r.base) ⟨0, true, .none⟩
  | none => ⟨0, true, .none⟩

/-- A warp leaves its window: its rows keep their cells, in place of what was kept of them before. -/
def Core.leaveRows (k : Core) (slot : Nat) (wp : Warp) : Core :=
  let covered := fun (r : LeftRows) => decide (r.lane = slot % 32) && decide (wp.winBase ≤ r.base) &&
    decide (r.base + (r.columns.headD []).length ≤ wp.winBase + wp.win)
  { k with rows := ⟨slot % 32, wp.winBase, wp.threads.map (·.cells)⟩ :: k.rows.filter fun r => !covered r }

/-- The cell of a row and column of a core's lane: a resident warp's, or what the last window left. -/
def State.rowCell (s : State) (c lane row col : Nat) : Cell :=
  match s.warps.find? fun e => e.1 / 256 == c && e.1 % 32 == lane && decide (e.2.winBase ≤ row) && decide (row < e.2.winBase + e.2.win) with
  | some e => (match e.2.threads[col]? with | some th => th.cells.getD (row - e.2.winBase) ⟨0, true, .none⟩ | none => ⟨0, true, .none⟩)
  | none => (s.core c).leftCell lane row col

/-! ### Rows and uniform registers -/

/-- A cell with a value: full, no poison. -/
def Cell.of (v : Nat) : Cell := ⟨BitVec.ofNat 32 v, true, .none⟩

/-- The cell of a virtual row (05:R88). -/
def Thread.cell (th : Thread) (row : Nat) : Cell := th.cells.getD (row % th.cells.length) (Cell.of 0)

def Thread.setCell (th : Thread) (row : Nat) (c : Cell) : Thread :=
  { th with cells := setAt th.cells (row % th.cells.length) c }

/-- Write frame register `i`: the cell becomes full and clear of poison (05:R91). -/
def Thread.setV (th : Thread) (i v : Nat) : Thread := th.setCell (th.fp + i) (Cell.of v)

/-- The value of frame register `i`. -/
def Thread.v (th : Thread) (i : Nat) : Nat := (th.cell (th.fp + i)).val.toNat

/-- Mark frame register `i` empty (05:R80). -/
def Thread.emptyV (th : Thread) (i : Nat) : Thread :=
  th.setCell (th.fp + i) { th.cell (th.fp + i) with full := false }

def Thread.pred (th : Thread) (p : Nat) : Bool := th.preds.getLsbD p

def Thread.setPred (th : Thread) (p : Nat) (b : Bool) : Thread :=
  { th with preds := BitVec.ofNat 8 (setBits th.preds.toNat p 1 (if b then 1 else 0)) }

/-- A uniform file of zeros without conflicts (05 Table 7). -/
def UCopy.zero : UCopy := ⟨List.replicate 64 0, 0, true⟩

def Warp.copy (w : Warp) (k : Nat) : UCopy := w.copies.getD k UCopy.zero

/-- g(i) in a copy. -/
def Warp.g (w : Warp) (k i : Nat) : Nat := wordAt (w.copy k).vals i

/-- Write g(i) in a copy: its conflict bit is cleared (05:R87). -/
def Warp.setG (w : Warp) (k i v : Nat) : Warp :=
  let c := w.copy k
  { w with copies := w.copies.set k { c with
      vals := setAt c.vals i (BitVec.ofNat 32 v),
      conflict := BitVec.ofNat 64 (setBits c.conflict.toNat i 1 0) } }

def Warp.thread? (w : Warp) (t : Nat) : Option Thread := w.threads[t]?

def Warp.setThread (w : Warp) (t : Nat) (th : Thread) : Warp := { w with threads := setAt w.threads t th }

def Warp.modThread (w : Warp) (t : Nat) (f : Thread → Thread) : Warp := { w with threads := modAt w.threads t f }

/-! ### Who executes (05:R75) -/

/-- May the thread issue: alive, not held, and not waiting for the spill engine? -/
def Thread.runs (th : Thread) : Bool := th.alive && !th.held && decide (th.twait = .none)

/-- The numbers of the threads that satisfy `p`, ascending. -/
def Warp.select (w : Warp) (p : Thread → Bool) : List Nat :=
  (List.range w.threads.length).filter fun t => match w.thread? t with | some th => p th | none => false

/-- The issue PC: that of the lowest-numbered thread that is alive and not held. -/
def Warp.issuePc (w : Warp) : Option DWord := (w.threads.find? Thread.runs).map (·.pc)

/-- The executing threads. -/
def Warp.executing (w : Warp) : List Nat :=
  match w.issuePc with
  | none => []
  | some pc => w.select fun th => th.runs && decide (th.pc = pc)

/-- The yield cause (09 Table 2); cause 7, pre-empted, is that of every warp of a context that a cluster is stopping or has
saved (`Cluster.stop`, `Cluster.saved`). -/
def Wait.cause : Wait → Nat
  | .none => 0
  | .regs _ => 1
  | .rows _ => 1
  | .engine => 2
  | .spill => 3
  | .results _ => 4
  | .sleep _ => 4
  | .barrier _ _ => 4
  | .pbar => 4
  | .mxwait _ _ => 4
  | .cpyw _ => 4
  | .pwait _ _ _ _ => 4
  | .lswait _ _ _ _ => 4
  | .page _ _ => 4
  | .mailbox _ => 5
  | .oplog => 6
  | .ordered _ _ _ => 6
  | .stopping _ _ => 4

/-- Is the warp ready (09:R146)? -/
def Warp.ready (w : Warp) : Bool := decide (w.wait = .none) && w.threads.any Thread.runs

/-! ### Meeting points (05:R77 to R82) -/

/-- The points a thread is pending on. -/
def Thread.points (th : Thread) : List (DWord × Nat) :=
  let own := if th.meetA = 0 then [] else [(th.meetA, th.meetD)]
  own ++ th.link.filterMap fun
    | .meet a d => if a = 0 then none else some (a, d)
    | .call _ _ _ => none
    | .trap _ _ => none

/-- The points of alive threads, each once. -/
def Warp.points (w : Warp) : List (DWord × Nat) :=
  (w.threads.flatMap fun th => if th.alive then th.points else []).eraseDups

/-- Is the thread held at the point? -/
def Thread.heldAt (th : Thread) (p : DWord × Nat) : Bool :=
  th.alive && th.held && decide (th.meetA = p.1) && decide (th.meetD = p.2)

/-- The meeting table: an entry for each point some alive thread is pending on (05:R77). -/
def Warp.syncMeets (w : Warp) : Warp :=
  { w with meets := w.points.map fun p =>
      ⟨p.1, p.2, (w.threads.filter fun th => th.alive && th.points.contains p).length,
        (w.threads.filter (·.heldAt p)).length⟩ }

/-- The hold test (05:R78). -/
def Thread.testHold (th : Thread) : Thread :=
  { th with held := th.alive && decide (th.meetA ≠ 0) && decide (th.pc = th.meetA) && decide (th.depth = th.meetD) }

/-- Drop the copies no alive thread holds, and keep at most four resident (05:R85, R86). -/
def Warp.tidyCopies (w : Warp) : Warp :=
  let live := w.copies.filter fun c => w.threads.any fun th => th.alive && decide (th.copy = c.1)
  let step := fun (acc : List (Nat × UCopy) × Nat) (c : Nat × UCopy) =>
    if c.2.resident && decide (acc.2 < 4) then (acc.1 ++ [c], acc.2 + 1)
    else (acc.1 ++ [(c.1, { c.2 with resident := false })], acc.2)
  { w with copies := (live.foldl step ([], 0)).1 }

/-- Merge the copies `ks`, the first being that of the lowest-numbered thread (05:R86). -/
def Warp.mergeCopies (w : Warp) (ks : List Nat) : UCopy :=
  match ks with
  | [] => UCopy.zero
  | k :: rest =>
    let base := w.copy k
    let others := rest.map w.copy
    let agree := fun i => others.all fun c => decide (wordAt c.vals i = wordAt base.vals i)
    let bitOf := fun i => !(agree i) || base.conflict.getLsbD i || others.any (fun c => c.conflict.getLsbD i)
    { base with conflict := BitVec.ofNat 64 ((List.range 64).foldl (fun n i => if bitOf i then n + 2 ^ i else n) 0) }

/-- Pop the top meet record into the meeting register; a record that is not resident holds the thread (05:R79, R92). -/
def Thread.popMeet (th : Thread) : Thread :=
  match th.link with
  | .meet a d :: rest =>
    { th with meetA := a, meetD := d, link := rest, linkRes := th.linkRes - 1,
              twait := if th.linkRes = 0 then .link else th.twait }
  | _ => { th with meetA := 0, meetD := 0 }

/-- Release the threads held at a point: they pop, merge their copies and are tested again (05:R79). -/
def Warp.release (w : Warp) (p : DWord × Nat) : Warp :=
  let ts := w.select (·.heldAt p)
  let ks := (ts.filterMap fun t => (w.thread? t).map (·.copy)).eraseDups
  let outside := fun k => (w.select fun th => th.alive && decide (th.copy = k)).any fun t => !ts.contains t
  let merged := w.mergeCopies ks
  let idx := match ks with
    | k :: _ => if outside k then (w.copies.free 0 33).getD k else k
    | [] => 0
  let w := if ks.length ≤ 1 then w else { w with copies := w.copies.set idx merged }
  let one := decide (ks.length ≤ 1)
  let pop := fun (th : Thread) => Thread.testHold { th.popMeet with copy := if one then th.copy else idx }
  let w := ts.foldl (fun w t => w.modThread t pop) w
  (w.tidyCopies).syncMeets

/-- Release points whose held count equals their nonzero pending count until none does. -/
def Warp.settleFrom : Nat → Warp → Warp
  | 0, w => w
  | n + 1, w =>
    match w.meets.find? fun e => decide (e.pending = e.heldN) && decide (e.pending ≠ 0) with
    | none => w
    | some e => Warp.settleFrom n (w.release (e.addr, e.depth))

/-- The meeting table after any change of a thread, with every release it causes. -/
def Warp.settle (w : Warp) : Warp :=
  let w := (w.tidyCopies).syncMeets
  Warp.settleFrom (1 + (w.threads.map fun th => th.link.length + 1).sum) w

/-! ### Forks (05:R84, 07:R125) -/

/-- Give the threads `ts`, which hold copy `k`, a copy of their own, unless nobody else holds `k`. -/
def Warp.splitCopy (w : Warp) (ts : List Nat) (k : Nat) : Warp :=
  let mine := ts.filter fun t => match w.thread? t with | some th => th.alive && decide (th.copy = k) | none => false
  let others := (w.select fun th => th.alive && decide (th.copy = k)).filter fun t => !mine.contains t
  if mine.isEmpty || others.isEmpty then w
  else
    match w.copies.free 0 33 with
    | none => w
    | some n =>
      let c := w.copy k
      let w := { w with copies := w.copies.set n { c with resident := decide ((w.copies.filter (·.2.resident)).length < 4) } }
      mine.foldl (fun w t => w.modThread t fun th => { th with copy := n }) w

/-- The next PCs of threads, each once, in the order of their lowest-numbered threads. -/
def Warp.outcomes (w : Warp) (ts : List Nat) : List DWord :=
  (ts.filterMap fun t => (w.thread? t).bind fun th => if th.alive then some th.pc else none).eraseDups

/-- Fork the executing threads by next PC: every outcome but the first takes new copies. -/
def Warp.fork (w : Warp) (ts : List Nat) : Warp :=
  match w.outcomes ts with
  | [] => w
  | _ :: rest => rest.foldl (fun w pc =>
      let mine := ts.filter fun t => match w.thread? t with | some th => th.alive && decide (th.pc = pc) | none => false
      let ks := (mine.filterMap fun t => (w.thread? t).map (·.copy)).eraseDups
      ks.foldl (fun w k => w.splitCopy mine k) w) w

/-! ### Frames, spills and link records (05:R88 to R93) -/

/-- Is a result in flight, or a refill pending, for a virtual row of the thread? -/
def State.rowPending (s : State) (c w uid t row : Nat) : Bool :=
  (s.results.any fun r => decide (r.2.core = c) && decide (r.2.slot = w) && decide (r.2.uid = uid) &&
    decide (r.2.thread = t) && !r.2.faulted && r.2.lands.contains (.row row)) ||
  (match s.warp? c w with
   | some wp => (match wp.thread? t with | some th => th.refill.contains row | none => false)
   | none => false)

/-- The virtual address of private word `k` of thread `t` (05:R94). -/
def Warp.privAddr (w : Warp) (t : Nat) (k : Int) : Nat := wrap (w.pbase.toNat + (k * 32 + t) * 4) 64

/-- The private word a virtual row spills to (05:R89). -/
def Warp.spillWord (w : Warp) (row : Nat) : Int := (w.p : Int) - 1 - row

/-- Rows that must be spilled for a frame that ends at `hi`: the new `lo` (05:R89). -/
def Warp.newLo (w : Warp) (th : Thread) (hi : Nat) : Nat := max th.lo (hi - w.win)

/-- STACK_LIMIT (05:R90): the first row of the spill that would be written below PLIM. -/
def Warp.stackLimit (w : Warp) (th : Thread) (hi : Nat) : Option Nat :=
  (rangeFrom th.lo (w.newLo th hi - th.lo)).find? fun j => decide ((j : Int) > (w.p : Int) - 1 - w.plim)

/-- The spilled words of rows whose page is not present. -/
def State.spillMissing (s : State) (w : Warp) (c t : Nat) (th : Thread) (hi : Nat) : Option Nat :=
  ((rangeFrom th.lo (w.newLo th hi - th.lo)).map fun j => w.privAddr t (w.spillWord j)).find? fun a =>
    match s.lookup c w.ctx a with | some e => !e.w | none => true

/-- Write a word of a warp's own memory (frame stack), through translation and the L1 (09:R151); a word of a poisoned cell
poisons its line (16:R240, 24:R366). -/
def State.privWrite (s : State) (w : Warp) (c t : Nat) (k : Int) (v : Nat) (bad : Bool) : State :=
  let a := w.privAddr t k
  match s.lookup c w.ctx a with
  | none => s
  | some e =>
    let s := (s.walked c w.ctx a e).coreLine c (e.trans a).pa w.ctx true false 0
    let s := { s with mem := s.mem.writeNat (e.trans a).pa 4 v }
    if bad then s.poisonLine (e.trans a).pa else s

def State.privRead (s : State) (w : Warp) (c t : Nat) (k : Int) : Nat :=
  let a := w.privAddr t k
  match s.lookup c w.ctx a with
  | none => 0
  | some e => s.mem.readNat (e.trans a).pa 4

/-- The rows that enter a frame keep what their physical rows held and are full (07:R129); then words are written to v0
onward (11:R191). -/
def Thread.enterRows (th : Thread) (from_ to_ : Nat) (writes : List Word) : Thread :=
  let th := (rangeFrom from_ (to_ - from_)).foldl (fun th j => th.setCell j (Cell.of (th.cell j).val.toNat)) th
  ((List.range writes.length).zip writes).foldl (fun th x => th.setV x.1 x.2.toNat) th

/-- The virtual rows of the thread for which a result is in flight or a refill pends. -/
def State.pendingRows (s : State) (c w uid t : Nat) : List Nat :=
  ((s.results.filter fun r => decide (r.2.core = c) && decide (r.2.slot = w) && decide (r.2.uid = uid) &&
    decide (r.2.thread = t) && !r.2.faulted).flatMap fun r => r.2.lands.filterMap fun | .row j => some j | _ => none) ++
  (match (s.warp? c w).bind (·.thread? t) with | some th => th.refill | none => [])

/-- Is every physical row the claim touches without a pending producer, whatever virtual row that producer named (07:R129)?
A row whose access has faulted has none: it is empty until TRET acts on it, and the entry of that very handler may need to
spill it (DEDUCED, log entry 100). -/
def State.claimReady (s : State) (c w uid t lo lo' from_ to_ win : Nat) : Bool :=
  let pending := s.pendingRows c w uid t
  (rangeFrom lo (lo' - lo) ++ rangeFrom from_ (to_ - from_)).all fun j => !pending.any fun p => p % win == j % win

/-- The claim of the spill engine (05:R89): rows lo to lo' − 1 go to private words, rows from_ to to_ − 1 enter. -/
def State.claim (s : State) (c w t lo' from_ to_ : Nat) (writes : List Word) : State :=
  match s.warp? c w with
  | none => s
  | some wp =>
    match wp.thread? t with
    | none => s
    | some th =>
      let s := (rangeFrom th.lo (lo' - th.lo)).foldl
        (fun s j => s.privWrite wp c t (wp.spillWord j) (th.cell j).val.toNat (decide ((th.cell j).poison ≠ .none))) s
      let th := ({ th with lo := lo', refill := th.refill.filter (· ≥ lo'), twait := .none }).enterRows from_ to_ writes
      s.setWarp c w (wp.setThread t th)

/-- Grow or move a frame whose rows from_ to to_ − 1 enter: at once where nothing is spilled and nothing pends, else
the thread waits for the claim (05:R89). -/
def State.growFrame (s : State) (c w t from_ to_ : Nat) (writes : List Word) (back : Option Undo) : State :=
  match s.warp? c w with
  | none => s
  | some wp =>
    match wp.thread? t with
    | none => s
    | some th =>
      let lo' := wp.newLo th to_
      if lo' = th.lo && s.claimReady c w wp.uid t th.lo lo' from_ to_ wp.win then
        s.claim c w t lo' from_ to_ writes
      else s.setWarp c w (wp.setThread t { th with twait := .spill lo' from_ to_ writes back })

/-- Push a link record; four stay resident (05:R92). -/
def Thread.push (th : Thread) (r : LinkRec) : Thread := { th with link := r :: th.link, linkRes := min (th.linkRes + 1) 4 }

/-- Pop a call or trap record: the caller's frame returns and its rows below `lo` are empty until refilled, the highest
first (05:R91, 07:R130). Rows above the caller's frame leave it, and a refill of one is needed no more. -/
def Thread.popFrame (th : Thread) (sz k : Nat) : Thread :=
  let fp := th.fp + k - sz
  let pending := th.refill.filter fun j => decide (j < fp + sz)
  let missing := (rangeFrom fp sz).filter fun j => decide (j < th.lo)
  let th := { th with fp := fp, s := sz, depth := th.depth - 1, link := th.link.drop 1, linkRes := th.linkRes - 1,
                      twait := if th.linkRes = 0 then .link else th.twait }
  let th := missing.foldl (fun th j => th.setCell j { th.cell j with full := false }) th
  if missing.isEmpty then { th with refill := pending } else { th with lo := fp, refill := pending ++ missing.reverse }

/-- Records a link stack holds at most (05 Table 1). -/
def linkMax : Nat := 260

/-! ### The warp private area (05:R95, Tables 4 and 5; 09:R151) -/

/-- The 16 bytes of a link record. -/
def LinkRec.bytes : LinkRec → List Byte
  | .call ret s k => toBytes (s * 4 + k * 2 ^ 9 + ret.toNat * 2 ^ 32) 16
  | .meet addr depth => toBytes (1 + depth * 2 ^ 16 + addr.toNat * 2 ^ 32) 16
  | .trap pc s => toBytes (2 + s * 4 + pc.toNat * 2 ^ 32) 16

/-- The values and conflict bits of a uniform copy: 264 bytes. -/
def UCopy.bytes (c : UCopy) : List Byte := (c.vals.flatMap fun v => toBytes v.toNat 4) ++ toBytes c.conflict.toNat 8

/-- What stands in the private area, by offset: the uniform copies that are not resident, and of each thread the link
records that are not, the oldest at level 0. -/
def Warp.area (w : Warp) : List (Nat × List Byte) :=
  (w.copies.filterMap fun c => if c.2.resident then none else some (512 * c.1, c.2.bytes)) ++
  ((List.range w.threads.length).zip w.threads).flatMap fun x =>
    let out := (x.2.link.drop x.2.linkRes).reverse
    ((List.range out.length).zip out).map fun r => (0x4000 + 512 * r.1 + 16 * x.1, r.2.bytes)

/-- The spill engine reads or writes a piece of a private area, through the L1 with the normal hint. -/
def State.areaLines (s : State) (c : Nat) (w : Warp) (off n : Nat) (write : Bool) : State :=
  let a := w.wpriv.toNat + off
  (rangeFrom (a / 128) ((a + n - 1) / 128 + 1 - a / 128)).foldl (fun s l => s.coreLine c (128 * l) w.ctx write false 0) s

/-- What has left the core for its private area is written there. -/
def State.spillArea (s : State) (c slot : Nat) : State :=
  match s.warp? c slot with
  | none => s
  | some w => w.area.foldl (fun (s : State) x =>
      let a := w.wpriv.toNat + x.1
      if s.mem.read a x.2.length = x.2 then s
      else
        let s := s.areaLines c w x.1 x.2.length true
        { s with mem := s.mem.write a x.2 }) s

/-! ### Fault records and fault queues (11:R190, 20:R297) -/

/-- FRAME_INDEX (05:R93). -/
def fFrameIndex : Nat := 14

/-- A fault of one thread. -/
structure Flt where
  thread : Nat
  code : Nat
  sub : Nat
  addr : Nat
deriving DecidableEq, Repr

/-- The eight words of a record (11 Table 1). -/
def FaultRecord.words (r : FaultRecord) : List Word :=
  [BitVec.ofNat 32 (r.code + r.sub * 2 ^ 8 + (if r.late then 2 ^ 16 else 0)),
   BitVec.ofNat 32 (r.pc.toNat % 2 ^ 32),
   BitVec.ofNat 32 (r.addr.toNat % 2 ^ 32), BitVec.ofNat 32 (r.addr.toNat / 2 ^ 32),
   r.handle,
   BitVec.ofNat 32 (r.pc.toNat / 2 ^ 32),
   BitVec.ofNat 32 (r.size + r.dir * 2 ^ 5 + r.op * 2 ^ 8 + r.x * 2 ^ 16),
   BitVec.ofNat 32 (r.thread + r.wslot * 2 ^ 5 + r.depth * 2 ^ 13)]

/-- An operand-log handle (11 Table 2). -/
def handleOf (entry : Option Nat) (t : Nat) : Nat :=
  match entry with
  | none => 0
  | some e => 2 ^ 31 + t * 2 ^ 8 + e

/-- The record of a fault. -/
def Site.record (site : Site) (f : Flt) (late : Bool) (entry : Option Nat) (w depth : Nat) : FaultRecord :=
  { code := f.code, sub := f.sub, late := late, pc := site.pc, addr := BitVec.ofNat 64 f.addr,
    handle := BitVec.ofNat 32 (handleOf entry f.thread), size := site.size, dir := site.dir,
    op := site.op, x := site.x, thread := f.thread, wslot := w, depth := depth }

/-- The bytes of a fault-queue record (20:R297). -/
def FqRecord.bytes (r : FqRecord) : List Byte :=
  (match r.record with
   | some f => f.words.flatMap fun w => toBytes w.toNat 4
   | none => List.replicate 32 0) ++
  [BitVec.ofNat 8 r.kind, 0] ++ toBytes r.ctx 2 ++ toBytes r.gen 2 ++ [0, 0] ++ toBytes r.item.toNat 8 ++
  List.replicate 16 0

/-- The MSI-X state of a function. -/
def State.msixOf (s : State) (fn : HostFn) : Msix := ((s.hdie.msix.find? (·.1 = fn)).map (·.2)).getD ⟨[], []⟩

def State.setMsix (s : State) (fn : HostFn) (t : Msix) : State :=
  { s with hdie := { s.hdie with msix := (fn, t) :: s.hdie.msix.filter (·.1 ≠ fn) } }

/-- MSI-X: a masked vector sets its pending bit, another is signalled (23:R339). -/
def State.signal (s : State) (fn : HostFn) (vec : Nat) : State :=
  let t := s.msixOf fn
  if t.unmasked.contains vec then s.send (.msix fn vec)
  else s.setMsix fn { t with pending := if t.pending.contains vec then t.pending else vec :: t.pending }

/-- The root's records go to the host ring; a full ring drops them (23:R340). -/
def State.postHost (s : State) (r : FqRecord) : State :=
  let h := s.hdie
  if (h.rfqprod + 1) % h.rfqsize = h.rfqcons % h.rfqsize then
    ({ s with hdie := { h with rfqdrop := h.rfqdrop + 1 } }).count cRfqDrop 1
  else
    let s := s.send (.hostWrite (h.rfqbase.toNat + 64 * (h.rfqprod % h.rfqsize)) r.bytes)
    ({ s with hdie := { s.hdie with rfqprod := (h.rfqprod + 1) % h.rfqsize } }).signal .pf h.rfqvec

/-- A task enters a queue's gathering (20:R305): the entry, or none where the slice has none free. -/
def State.addTask (s : State) (t : Task) : Option (Nat × State) :=
  let i := t.queue / 64
  let sl := s.slice i
  match sl.tasks.free 0 32768 with
  | none => none
  | some e => some (e, s.setSlice i { sl with tasks := sl.tasks.set e { t with entry := e }, gather := sl.gather ++ [e] })

/-- A page of the context's addresses at which nothing is mapped: the page numbered `p`, or the first after a mapped one. -/
def State.freePage (s : State) (ctx p : Nat) : Nat :=
  let leaves := match s.ctx? ctx with | some c => c.leaves | none => []
  ((4096 * p :: leaves.map fun f => alignUp (f.va + f.size) 4096).find? fun va =>
    decide (va < 2 ^ 57) && (s.leafAt ctx va).isNone && !leaves.any fun f => overlap f.va f.size va 4096).getD (4096 * p)

/-- The 64 bytes of a record are written by a slice core in a page that the kernel maps for its task. -/
def State.placeRecord (s : State) (slice ctx va : Nat) (r : FqRecord) : State :=
  match s.ctx? ctx with
  | none => s
  | some c =>
    let pa := s.kernFree 4096
    let f : Leaf := ⟨va, 4096, 4096, pa, true, true, true, false, false, false, false, 0, 0, none⟩
    let s := (s.setLeaves (ctx % 64) ctx (c.leaves ++ [f])).sliceLine slice pa ctx true
    { s with mem := s.mem.write pa r.bytes }

/-- A record becomes a task of its queue, whose argument record it is; while the slice has no free task entry it is
held. The place of the record is not stated: the start of a page that nothing else is mapped at, found from a free value
(log entry 18). -/
def State.postTask (s : State) (q hdr : Nat) (d : Queue) (r : FqRecord) : State :=
  let (p, s) := s.takeFree 44
  let va := s.freePage d.ctx p
  match s.addTask ⟨hdr, d.ctx, q, BitVec.ofNat 64 va, 0, s.time, false, 0⟩ with
  | some (_, s) => { s.placeRecord (q / 64) d.ctx va r with fqPosted := s.fqPosted ++ [(q, r)] }
  | none => { s with fqHeld := s.fqHeld ++ [(q, r)] }

/-- Post a record to the fault queue of a context, or of the nearest ancestor that has one, or to the host (20:R297). -/
def State.postFrom : Nat → State → Nat → FqRecord → State
  | 0, s, _, r => s.postHost r
  | n + 1, s, ctx, r =>
    match s.ctx? ctx with
    | none => s.postHost r
    | some c =>
      match c.fq with
      | some (q, hdr) =>
        (match s.queues.get? q with
         | some d =>
           if d.v then s.postTask q hdr d r
           else if ctx = 0 then s.postHost r else State.postFrom n s c.parent r
         | none => if ctx = 0 then s.postHost r else State.postFrom n s c.parent r)
      | none => if ctx = 0 then s.postHost r else State.postFrom n s c.parent r

/-- Post a record of a kind about a context (20 Table 5): kind 1 starts at the parent. -/
def State.post (s : State) (kind ctx item : Nat) (rec : Option FaultRecord) : State :=
  let gen := match s.ctx? ctx with | some c => c.gen | none => 0
  let r : FqRecord := ⟨kind, ctx, gen, BitVec.ofNat 64 item, rec⟩
  let start := if kind = 1 then (match s.ctx? ctx with | some c => c.parent | none => 0) else ctx
  if kind = 1 && decide (ctx = 0) then s.postHost r else State.postFrom 10 s start r

/-- A record held for a slice is delivered now that an entry may be free; where its queue is a fault queue no more, it goes
where the record would go now. -/
def State.postHeld (s : State) (i : Nat) : State :=
  match s.fqHeld.find? fun x => decide (x.1 / 64 = i) with
  | none => s
  | some (q, r) =>
    if ((s.slice i).tasks.free 0 32768).isNone then s
    else
      let s := { s with fqHeld := s.fqHeld.erase (q, r) }
      let hdr? := s.ctxs.findSome? fun c => match c.2.fq with | some (p, h) => if p = q then some h else none | none => none
      match hdr?, s.queues.get? q with
      | some hdr, some d => s.postTask q hdr d r
      | _, _ => State.postFrom 10 s r.ctx r

/-! ### The end of threads, warps, groups and phalanxes (07:R133, R134; 13:R203) -/

/-- Thread `t` of warp `uid` is reported failed: it counts once, and the first code stands (20 Table 10). -/
def Launch.fail (l : Launch) (uid t code : Nat) : Launch :=
  if l.failed.contains (uid, t) then l
  else { l with failed := (uid, t) :: l.failed, fcode := if l.failed.isEmpty then code else l.fcode }

/-- The thread's item is reported failed (20 Table 10); a task also posts TASK_FAILED (20:R305). -/
def State.failItem (s : State) (wp : Warp) (t code : Nat) : State :=
  match s.launches.get? wp.launch with
  | none => s
  | some l =>
    let s := { s with launches := s.launches.set wp.launch (l.fail wp.uid t code) }
    match l.wave[t]? with
    | some k => s.post 4 wp.ctx k.arg.toNat none
    | none => s

/-- The counter of a queue's slice that `k` names for a context (20:R304). -/
def State.counterOf (s : State) (ctx k : Nat) : Nat := (match s.ctx? ctx with | some c => c.claim.dclo | none => 0) + k

/-- Does a launch or task of queue `q` in context `ctx` that names `k` belong to the job of counter `n` in slice `i`? -/
def State.ofJob (s : State) (i n ctx q k : Nat) : Bool := decide (k ≠ 0) && decide (q / 64 = i) && decide (s.counterOf ctx k = n)

/-- Counter `n` of slice `i` is read poisoned: running launches of its job are marked, its waiting tasks complete failed
(20:R304). -/
def State.poisonJob (s : State) (i n : Nat) : State :=
  let mark := fun (e : Nat × Launch) =>
    if s.ofJob i n e.2.ctx e.2.queue e.2.sigc || s.ofJob i n e.2.ctx e.2.queue e.2.waitc ||
        e.2.wave.any (fun t => s.ofJob i n t.ctx t.queue t.sigc)
    then (e.1, { e.2 with depPoison := true }) else e
  let s := { s with launches := s.launches.map mark }
  let sl := s.slice i
  let waits := sl.gather ++ sl.waves.flatMap (·.tasks)
  let hit := sl.tasks.filter fun t => waits.contains t.1 && s.ofJob i n t.2.ctx t.2.queue t.2.sigc
  let s := s.setSlice i { sl with
    dc := sl.dc.set n 0, tasks := sl.tasks.filter (fun t => !hit.any fun h => decide (h.1 = t.1)),
    gather := sl.gather.filter fun e => !hit.any fun h => decide (h.1 = e)
    waves := sl.waves.map fun w => { w with tasks := w.tasks.filter fun e => !hit.any fun h => decide (h.1 = e) } }
  (hit.foldl (fun (s : State) t => (s.post 5 t.2.ctx t.2.arg.toNat none).postHeld i) s).count (cDepPoison + 32 * i) 1

/-- Is the counter poisoned? It then reads 0 and is skipped until a SETC. -/
def State.counterBad (s : State) (ctx queue k : Nat) : Bool :=
  decide (k ≠ 0) && (s.slice (queue / 64)).dcPoison.contains (s.counterOf ctx k)

/-- Decrement a dependence counter of a queue's slice; one at 0 stays, 0 names none (20:R304). -/
def State.decCounter (s : State) (ctx queue k : Nat) : State :=
  if k = 0 then s
  else
    let i := queue / 64
    let sl := s.slice i
    let n := s.counterOf ctx k
    if sl.dcPoison.contains n then s.poisonJob i n
    else s.setSlice i { sl with dc := sl.dc.set n (sl.dc.getD n 0 - 1) }

/-- The entry of a task that has ended is free again. -/
def State.freeTask (s : State) (t : Task) : State :=
  let sl := s.slice (t.queue / 64)
  (s.setSlice (t.queue / 64) { sl with tasks := sl.tasks.del t.entry }).postHeld (t.queue / 64)

/-- A task ends when its thread ends: its entry is free, and its SIGC is decremented (20:R305). -/
def State.endTask (s : State) (wp : Warp) (t : Nat) : State :=
  match s.launches.get? wp.launch with
  | none => s
  | some l =>
    match l.wave[t]? with
    | some k => (s.freeTask k).decCounter l.ctx l.queue k.sigc
    | none => s

/-- The phalanx of a group. -/
def State.phalanx? (s : State) (core phx : Nat) : Option Phalanx := (s.cluster (clusterOf core)).phxs.get? phx

def State.setPhalanx (s : State) (core phx : Nat) (p : Option Phalanx) : State :=
  let k := clusterOf core
  let cl := s.cluster k
  s.setCluster k { cl with phxs := match p with | some p => cl.phxs.set phx p | none => cl.phxs.del phx }

/-- A phalanx of a launch has completed. -/
def State.phalanxDone (s : State) (launch : Nat) : State :=
  match s.launches.get? launch with
  | none => s
  | some l => { s with launches := s.launches.set launch { l with done := l.done + 1 } }

/-- Release every warp of a phalanx that waits at its barrier (13:R203). -/
def State.releasePbar (s : State) (core phx : Nat) : State :=
  (rangeFrom (4 * clusterOf core) 4).foldl (fun s c => (List.range 256).foldl (fun s w =>
    match s.warp? c w with
    | none => s
    | some wp =>
      match s.group? c wp.gslot with
      | none => s
      | some g => if g.phx = phx && decide (wp.wait = .pbar) then
          s.setWarp c w { wp with wait := .none, stamp := ((s.core c).laneAc.getD (w % 32) 0) + 1, waitOp := 0 } else s) s) s

/-- Whenever ARR equals a nonzero LIVE the phalanx barrier releases (13:R203). -/
def State.checkPbar (s : State) (core phx : Nat) : State :=
  match s.phalanx? core phx with
  | none => s
  | some p =>
    if p.arr = p.live && decide (p.live ≠ 0) then
      (s.setPhalanx core phx (some { p with arr := 0, gen := !p.gen })).releasePbar core phx
    else s

/-- The successor's card as its home holds it when the last thread exits (07:R134): none where the read has to wait, for its
page, a commit or a release that it publishes, or finds no data. -/
def State.cardAt (s : State) (ctx va : Nat) : Option (List Byte) :=
  match (if va % 64 = 0 then s.walk ctx va else none) with
  | none => none
  | some e =>
    match s.finalPa (e.trans va) with
    | none => none
    | some pa =>
      let held := (s.l2slice (channelOf pa)).reserved.any fun r => overlap (8 * r.1) 8 pa 64
      let noted := match s.dir.get? (pa / 128) with | some d => d.note.isSome | none => false
      if !e.r || regionOf pa ≠ .ram || held || noted || s.poisoned pa 64 || s.expanderLost pa then none
      else some (s.mem.read pa 64)

/-- A warp of a phalanx has ended: LIVE falls; at 0 the entry is freed, or stands for what a castling exit keeps, and the
successor's card is read. -/
def State.warpGone (s : State) (core phx launch : Nat) : State :=
  match s.phalanx? core phx with
  | none => s
  | some p =>
    let p := { p with live := p.live - 1 }
    if p.live = 0 then
      if p.castle = 0 then (s.setPhalanx core phx none).phalanxDone launch
      else s.setPhalanx core phx (some { p with kept := true, card := s.cardAt p.ctx p.castle.toNat })
    else (s.setPhalanx core phx (some p)).checkPbar core phx

/-- Bytes of a warp private area (05:R95). -/
def warpArea : Nat := 147456

/-- A context's MEM gets back `n` bytes (20:R292). -/
def State.freeMem (s : State) (ctx n : Nat) : State :=
  match s.ctx? ctx with
  | none => s
  | some c => s.setCtx ctx { c with memUsed := c.memUsed - n }

/-- Free the slots of a warp whose every thread has ended, its private area, and its group's slot (07:R133). -/
def State.reap (s : State) (c w : Nat) : State :=
  match s.warp? c w with
  | none => s
  | some wp =>
    if wp.threads.any (·.alive) then s
    else
      let s := ((s.setCore c ((s.core c).leaveRows w wp)).delWarp c w).freeMem wp.ctx warpArea
      let s := { s with results := s.results.filter fun r => !(decide (r.2.core = c) && decide (r.2.slot = w) && decide (r.2.uid = wp.uid)) }
      match s.group? c wp.gslot with
      | none => s
      | some g =>
        let left := (List.range 8).any fun j => match s.warp? c (8 * wp.gslot + j) with | some x => decide (x.gslot = wp.gslot) | none => false
        let s := if left then s else s.delGroup c wp.gslot
        s.warpGone c g.phx g.launch

/-- The end of a thread: it leaves every count and its frames, link records and gambit are discarded (07:R133). -/
def Thread.ended (th : Thread) : Thread :=
  { th with alive := false, held := false, twait := .none, link := [], linkRes := 0, refill := [], meetA := 0,
            meetD := 0, trap := none, gambit := { th.gambit with opened := false, reads := [], writes := [] } }

/-- Release an operand-log entry's hold by a thread; the entry goes with its last (09:R158, 11:R198). -/
def State.logDone (s : State) (c : Nat) (entry : Option Nat) (t : Nat) : State :=
  match entry with
  | none => s
  | some e =>
    let k := s.core c
    match k.oplog.get? e with
    | none => s
    | some le =>
      let ts := le.threads.map fun x => if x.thread = t then { x with status := .done } else x
      if ts.all fun x => decide (x.status = .done) then
        { s.setCore c { k with oplog := k.oplog.del e } with
          acc := s.acc.map fun (a : Nat × Access) =>
            if a.2.core = c && a.2.entry = some e then (a.1, { a.2 with entry := none }) else a }
      else s.setCore c { k with oplog := k.oplog.set e { le with threads := ts } }

/-- The entry a handle names. -/
def entryOf (handle : Word) : Option Nat := if handle.getLsbD 31 then some (handle.toNat % 256) else none

/-- Mark a thread of an entry. -/
def State.logMark (s : State) (c : Nat) (entry : Option Nat) (t : Nat) (st : LogStatus) : State :=
  match entry with
  | none => s
  | some e =>
    let k := s.core c
    match k.oplog.get? e with
    | none => s
    | some le =>
      let ts := le.threads.map fun x => if x.thread = t then { x with status := st } else x
      s.setCore c { k with oplog := k.oplog.set e { le with threads := ts } }

/-- The accesses of a thread that are not globally performed. -/
def State.accessesOf (s : State) (c slot uid t : Nat) : List Nat :=
  (s.acc.filter fun e => decide (e.2.core = c) && decide (e.2.slot = slot) && decide (e.2.uid = uid) &&
    decide (e.2.thread = t)).map (·.1)

/-- The tracked accesses of threads that have still to join their gambits' sets (10:R180). -/
def State.trackedOf (s : State) (c slot uid : Nat) (ts : List Nat) : List Nat :=
  (s.acc.filter fun e => e.2.gambit && decide (e.2.core = c) && decide (e.2.slot = slot) && decide (e.2.uid = uid) &&
    ts.contains e.2.thread).map (·.1)

/-- A thread exits (07:R133): inside a handler, its entry's hold is released (11:R198); a task ends with its thread. -/
def State.exitThread (s : State) (c w t : Nat) : State :=
  match s.warp? c w with
  | none => s
  | some wp =>
    match wp.thread? t with
    | none => s
    | some th =>
      let s := match th.trap with
        | some e => s.logDone c (entryOf e.record.handle) t
        | none => s
      (s.setWarp c w (wp.setThread t th.ended)).endTask wp t

/-- Kill a thread as by TRET KILL (11:R193, R199): failed with a code. -/
def State.killThread (s : State) (c w t code : Nat) : State :=
  match s.warp? c w with
  | none => s
  | some wp =>
    match wp.thread? t with
    | none => s
    | some th =>
      if !th.alive then s
      else
        let s := match th.trap with
          | some e => s.logDone c (entryOf e.record.handle) t
          | none => s
        let s := s.setWarp c w (wp.setThread t th.ended)
        (s.failItem wp t code).endTask wp t

/-! ### Taking a fault (11:R191 to R193; 05:R81, R90, R92) -/

/-- The fault FRAME_SPILL. -/
def fFrameSpill : Nat := 16

/-- The logged sources as the handler's v8 to v15 (11:R191). -/
def State.loggedWords (s : State) (c : Nat) (handle : Word) : List Word :=
  match entryOf handle with
  | none => List.replicate 8 0
  | some e =>
    match (s.core c).oplog.get? e with
    | none => List.replicate 8 0
    | some le =>
      match le.threads.find? fun x => decide (x.thread = handle.toNat / 256 % 32) with
      | none => List.replicate 8 0
      | some x => toWords x.a.toNat 2 ++ toWords x.b.toNat 2 ++ toWords x.c.toNat 4

/-- Reflect a fault: post its records to the parent's queue and kill the thread (11:R193). -/
def State.reflect (s : State) (c w t ctx : Nat) (recs : List FaultRecord) : State :=
  let s := recs.foldl (fun s r => s.post 1 ctx 0 (some r)) s
  let s := recs.foldl (fun s r => s.logDone c (entryOf r.handle) t) s
  s.killThread c w t (match recs with | r :: _ => r.code | [] => 0)

/-- Doom an open gambit, unless it is doomed already (10:R181). -/
def Gambit.doom (g : Gambit) (code : Nat) : Gambit := if g.opened && decide (g.code = 0) then { g with code := code } else g

/-- A handler at frame depth `d` is entered with the gambit: an open one is doomed with HANDLER, and nothing is tracked until
the handler returns (10:R181). -/
def Gambit.enter (g : Gambit) (d : Nat) : Gambit :=
  let g := g.doom 14
  if g.opened && g.away.isNone then { g with away := some d } else g

/-- The handler at frame depth `d` returns. -/
def Gambit.back (g : Gambit) (d : Nat) : Gambit := if g.away = some d then { g with away := Option.none } else g

/-- A fresh frame of 16 rows above the thread's own, with a trap record (05:R92), entered at `pc` with `writes` in v0
onward: the shared part of handler and interrupt entry. A failure gives the subcode of FRAME_SPILL and its address. -/
def State.enterFrame (s : State) (c w t : Nat) (resume pc : DWord) (writes : List Word) (trap : Option TrapEntry) :
    State × Option (Nat × Nat) :=
  match s.warp? c w with
  | none => (s, none)
  | some wp =>
    match wp.thread? t with
    | none => (s, none)
    | some th =>
      let hi := th.fp + th.s
      if th.link.length ≥ linkMax then (s, some (3, 0))
      else
        match wp.stackLimit th (hi + 16) with
        | some j => (s, some (1, wp.privAddr t (wp.spillWord j)))
        | none =>
          let entry := match trap with
            | some e => some { e with depth := th.depth + 1 }
            | none => th.trap
          let th' := { th with fp := hi, s := 16, depth := th.depth + 1, pc := pc, held := false, trap := entry,
                               gambit := th.gambit.enter (th.depth + 1) }
          let th' := th'.push (.trap resume th.s)
          ((s.setWarp c w (wp.setThread t th')).growFrame c w t hi (hi + 16) writes none, none)

/-- The thread waits no more with the others of its warp: it has left the instruction at which the warp waits. -/
def Warp.leaveWait (w : Warp) (t : Nat) : Warp := { w with back := w.back.filter (· ≠ t) }

/-- A faulting thread enters its context's handler, or its fault is reflected (11:R191, R193). -/
def State.takeFault (s : State) (c w : Nat) (rec : FaultRecord) (resume : DWord) (len : Nat) : State :=
  match s.warp? c w with
  | none => s
  | some wp =>
    match wp.thread? rec.thread with
    | none => s
    | some th =>
      let s := s.logMark c (entryOf rec.handle) rec.thread .faulted
      let hbase := match s.ctx? wp.ctx with | some x => x.hbase | none => 0
      match th.trap with
      | some old => s.reflect c w rec.thread wp.ctx [old.record, rec]
      | none =>
        if hbase = 0 then s.reflect c w rec.thread wp.ctx [rec]
        else
          match (s.setWarp c w (wp.leaveWait rec.thread)).enterFrame c w rec.thread resume hbase (rec.words ++ s.loggedWords c rec.handle) (some ⟨rec, len, 0⟩) with
          | (s, none) => s
          | (s, some (sub, addr)) =>
            s.reflect c w rec.thread wp.ctx
              [rec, { rec with code := fFrameSpill, sub := sub, addr := BitVec.ofNat 64 addr, handle := 0, size := 0, dir := 3 }]

/-- Return from a trap record: FP, S and DEPTH as RET restores them, and the PC (11:R199, 21:R326). -/
def Thread.leaveTrap (th : Thread) (pc : DWord) : Thread :=
  let g := th.gambit.back th.depth
  match th.link with
  | .trap _ sz :: _ => { th.popFrame sz 0 with pc := pc, gambit := g }
  | _ => { th with pc := pc, gambit := g }

/-! ### After an instruction -/

/-- The lane's ac count (09 Table 2, ready stamp). -/
def State.laneNow (s : State) (c w : Nat) : Word := (s.core c).laneAc.getD (w % 32) 0

/-- The lane leaves the warp: a run boundary, with the stamp set if the warp stays ready (09:R146, R147). -/
def State.endRun (s : State) (c w : Nat) : State :=
  let k := s.core c
  let s := s.setCore c { k with laneRun := k.laneRun.del (w % 32) }
  match s.warp? c w with
  | none => s
  | some wp => s.setWarp c w { wp with run := 0, stamp := if wp.ready then s.laneNow c w else wp.stamp }

/-- The run of a warp that has no thread left to issue is over (09:R147). -/
def State.runOver (s : State) (c w : Nat) : State :=
  let ready := match s.warp? c w with | some wp => wp.ready | none => false
  if (s.core c).laneRun.get? (w % 32) = some w && !ready then s.endRun c w else s

/-- Test the threads whose PC was set, settle the meeting table, and let MEET_DEADLOCK be taken where every alive
thread is held (05:R78 to R82). -/
def State.afterMove (s : State) (c w : Nat) (moved : List Nat) : State :=
  match s.warp? c w with
  | none => s
  | some wp =>
    let wp := moved.foldl (fun wp t => wp.modThread t Thread.testHold) wp
    let wp := wp.settle
    let s := (s.setWarp c w wp).spillArea c w
    let alive := wp.select (·.alive)
    if !alive.isEmpty && alive.all fun t => match wp.thread? t with | some th => th.held | none => false then
      let s := alive.foldl (fun s t =>
        match wp.thread? t with
        | none => s
        | some th =>
          let site : Site := ⟨th.meetA, 0, 0, 0, 0, 3⟩
          s.takeFault c w (site.record ⟨t, 19, 0, th.meetA.toNat⟩ false none w th.depth) th.pc 0) s
      match s.warp? c w with
      | none => s
      | some wp =>
        let wp := wp.fork alive
        ((s.setWarp c w (wp.settle)).reap c w).runOver c w
    else (s.reap c w).runOver c w

/-- Does one of some threads wait for the spill engine or a link record? -/
def Warp.spills (w : Warp) (ts : List Nat) : Bool :=
  ts.any fun t => match w.thread? t with | some th => th.alive && decide (th.twait ≠ .none) | none => false

/-- The threads that do not. -/
def State.unspilled (s : State) (c w : Nat) : List Nat :=
  match s.warp? c w with
  | none => []
  | some wp => (List.range wp.threads.length).filter fun t => !wp.spills [t]

/-- Charge the lane `n` ac and count the instruction in its run, which ends at B, at the 24th instruction, at a wait, at
a thread's wait for the spill engine or a link record (07:R141, 09 Table 6), or with no thread left to issue (09:R146 to
R148). -/
def State.tally (s : State) (c w : Nat) (ts : List Nat) (n : Nat) (brk : Bool) : State :=
  let k := s.core c
  let s := s.setCore c { k with laneAc := k.laneAc.set (w % 32) (k.laneAc.getD (w % 32) 0 + BitVec.ofNat 32 n) }
  match s.warp? c w with
  | none => s.endRun c w
  | some wp =>
    let stuck := decide (wp.wait = .none) && !wp.threads.any Thread.runs && wp.threads.any fun th => th.alive && !th.held
    let wp := { wp with run := wp.run + 1, wait := if stuck then .spill else wp.wait, refused := [] }
    let s := s.setWarp c w wp
    if brk || decide (wp.run ≥ 24) || !wp.ready || wp.spills ts then s.endRun c w else s

/-- The run breaks before the instruction: the warp waits and no thread is affected (09:R148). -/
def State.yieldBefore (s : State) (c w : Nat) (wait : Wait) (op : Nat) : State :=
  match s.warp? c w with
  | none => s
  | some wp => (s.setWarp c w { wp with wait := wait, waitOp := if wait.cause = 4 then op else 0 }).endRun c w

/-- Insert a fault by ascending thread index. -/
def insertFlt (f : Flt) : List Flt → List Flt
  | [] => [f]
  | g :: gs => if f.thread < g.thread then f :: g :: gs else g :: insertFlt f gs

/-- Faults in ascending thread index (02:R32, 05:R74). -/
def sortFlts (fs : List Flt) : List Flt := fs.foldl (fun acc f => insertFlt f acc) []

/-- Every thread in `faults` takes its fault, in ascending thread index; the executing threads fork by next PC if `forks` or if some faulted; then
the tests of 05:R78 to R82, the lane's time and the run, which also ends where another thread now waits for the spill
engine or a link record. -/
def State.conclude (s : State) (c w : Nat) (site : Site) (ts : List Nat) (faults : List Flt) (entry : Option Nat)
    (forks : Bool) (ac : Nat) (brk : Bool) : State :=
  let free := s.unspilled c w
  let s := (sortFlts faults).foldl (fun s f =>
    match (s.warp? c w).bind (·.thread? f.thread) with
    | none => s
    | some th => s.takeFault c w (site.record f false entry w th.depth) th.pc site.len) s
  let s := match s.warp? c w with
    | none => s
    | some wp => if forks || !faults.isEmpty then s.setWarp c w (wp.fork ts) else s
  (s.afterMove c w ts).tally c w (ts ++ free) ac brk

end Sys2Proof.Machine
end

