-- ==== Sys2Proof/Machine/Publish.lean ====
section
/-! DEFINITION. What comes before what (18:R279 to R284; log entry 8): the accesses of threads, their order, late faults,
results, the global performance of stores and the publish of a release, and the reads that go through the caches that are
not coherent or past the operand log. -/

namespace Sys2Proof.Machine

/-! ### What an access is -/

/-- Does the access only read (as loads do)? -/
def AccKind.loads : AccKind → Bool
  | .load _ => true
  | .ldv _ => true
  | .vcnt => true
  | .waitv _ => true
  | .atomic _ _ => true
  | .recon _ => true
  | .lds => true
  | .store => false
  | .ntfy _ => false
  | .zfill _ => false
  | .wback _ _ => false
  | .stv _ => false
  | .sts => false

/-- Does the access write? -/
def AccKind.stores : AccKind → Bool
  | .store => true
  | .stv _ => true
  | .atomic _ _ => true
  | .recon _ => true
  | .zfill _ => true
  | .sts => true
  | .ntfy _ => false
  | .load _ => false
  | .lds => false
  | .ldv _ => false
  | .vcnt => false
  | .waitv _ => false
  | .wback _ _ => false

/-- The permissions an access needs: read, write (11:R194). -/
def AccKind.needs : AccKind → Bool × Bool
  | .store => (false, true)
  | .stv _ => (false, true)
  | .zfill _ => (false, true)
  | .atomic _ _ => (true, true)
  | .recon _ => (true, true)
  | .load _ => (true, false)
  | .ldv _ => (true, false)
  | .vcnt => (true, false)
  | .waitv _ => (true, false)
  | .ntfy _ => (true, false)
  | .wback _ _ => (true, false)
  | .lds => (true, false)
  | .sts => (false, true)

/-- Is the access performed only at the home, in one stage? A store of a VER page is. -/
def Access.atHome (a : Access) : Bool :=
  match a.kind with
  | .load _ => false
  | .store => a.ver
  | _ => true

/-- Virtual addresses of the parts. -/
def Access.vas (a : Access) : List Nat := (List.range a.parts).map fun i => wrap ((a.va + i * a.stride : Nat) : Int) 64

/-- The parts as physical ranges. -/
def Access.ranges (a : Access) : List (Nat × Nat) := a.pas.map fun pa => (pa, a.size)

/-- Do two lists of ranges meet? -/
def rangesMeet (x y : List (Nat × Nat)) : Bool := x.any fun p => y.any fun q => overlap p.1 p.2 q.1 q.2

/-- Is it of the same thread? -/
def Access.sameThread (a b : Access) : Bool :=
  decide (a.core = b.core) && decide (a.slot = b.slot) && decide (a.uid = b.uid) && decide (a.thread = b.thread)

/-- The actor id of a thread (16 Table 3). -/
def actorOf (core slot t : Nat) : Nat := t + (slot % 32) * 2 ^ 5 + core * 2 ^ 10

/-! ### Order (18:R282; 10:R163) -/

/-- Has the access been locally performed, or ended? -/
def State.doneL (s : State) (id : Nat) : Bool := match s.acc.get? id with | none => true | some a => a.loc.isSome

/-- Has the access been globally performed, or ended? -/
def State.doneG (s : State) (id : Nat) : Bool := !(s.acc.has id)

/-- May the access be performed: it is translated, everything ordered before it is done, and so is every earlier access
of its thread to overlapping bytes? -/
def State.gate (s : State) (id : Nat) (a : Access) : Bool :=
  !a.pas.isEmpty && a.afterL.all s.doneL && a.afterG.all s.doneG &&
  s.acc.all fun e => !(decide (e.1 < id) && a.sameThread e.2 && rangesMeet a.ranges e.2.ranges) || e.2.loc.isSome

/-- Is one of the words held by a gambit's commit (10:R183)? -/
def State.reserved (s : State) (rs : List (Nat × Nat)) : Bool :=
  rs.any fun r => (s.l2slice (channelOf r.1)).reserved.any fun e => overlap (8 * e.1) 8 r.1 r.2

/-- The locally performed stores of a core, the latest first. -/
def State.localDesc (s : State) (core : Nat) : List (Nat × Access) :=
  let loc := fun (e : Nat × Access) => e.2.loc.getD 0
  let ins := fun (e : Nat × Access) (l : List (Nat × Access)) => l.takeWhile (fun x => loc e < loc x) ++ e :: l.dropWhile (fun x => loc e < loc x)
  (s.acc.filter fun e => decide (e.2.core = core) && decide (e.2.kind = .store) && e.2.loc.isSome).foldr ins []

/-- The aligned 8-byte words of ranges. -/
def wordsOver (rs : List (Nat × Nat)) : List (Nat × Nat) :=
  rs.map fun r => (r.1 / 8 * 8, (r.1 + r.2 + 7) / 8 * 8 - r.1 / 8 * 8)

/-- The highest number of a release whose stores come with a synchronizing store: its own release's, and for one of wide
scope, which holds no tag, the latest of the core's, since its thread may have acquired any (18:R280, R283; log entry 103). -/
def Core.tagOf (k : Core) (id : Nat) : Option Nat :=
  (k.releases.filter fun r => r.sync.contains id).foldl (fun m r =>
    (let n := if r.tag5.isSome then r.tag else k.nextTag
     match m with
     | none => some n
     | some t => some (max t n))) none

/-- The stores of a release and of every older one of the core (18:R284). -/
def Core.membersUpTo (k : Core) (tag : Nat) : List Nat :=
  (k.releases.filter fun r => decide (r.tag ≤ tag)).flatMap fun r => r.set_ ++ r.sync

def maxTag (a b : Option Nat) : Option Nat :=
  match a, b with
  | none, y => y
  | x, none => x
  | some x, some y => some (max x y)

/-- Of the local stores of a core, latest first, those that must be globally performed with bytes `rs` and the releases
up to `tag`: stores to the same words, whose home order agrees with what the core has seen (18:R279), stores of the
releases, and what these need in turn. Earliest first. -/
def needed (k : Core) : List (Nat × Access) → List (Nat × Nat) → Option Nat → List Nat
  | [], _, _ => []
  | e :: rest, rs, tag =>
    let member := match tag with | some t => (k.membersUpTo t).contains e.1 | none => false
    if member || rangesMeet (wordsOver e.2.ranges) (wordsOver rs) then
      needed k rest (e.2.ranges ++ rs) (maxTag tag (k.tagOf e.1)) ++ [e.1]
    else needed k rest rs tag

/-! ### Late faults (11:R196) -/

/-- A result that will not arrive by itself any more. -/
def State.deadResult (s : State) (r : Option Nat) : State :=
  match r with
  | none => s
  | some id =>
    match s.results.get? id with
    | none => s
    | some x => { s with results := s.results.set id { x with faulted := true } }

/-- The thread leaves its copy's other holders (05:R84, 11:R191). -/
def State.splitOff (s : State) (c w t : Nat) : State :=
  match s.warp? c w with
  | none => s
  | some wp =>
    match wp.thread? t with
    | none => s
    | some th => s.setWarp c w (wp.splitCopy [t] th.copy)

/-- The item of a thread that has gone is reported failed (11:R196). -/
def State.failLaunch (s : State) (launch uid t code : Nat) : State :=
  match s.launches.get? launch with
  | none => s
  | some l =>
    { s with launches := s.launches.set launch (l.fail uid t code) }

/-- Does the warp wait before an instruction, which is tested again when it issues? -/
def Wait.before : Wait → Bool
  | .regs _ => true
  | .rows _ => true
  | .engine => true
  | .page _ _ => true
  | .mailbox _ => true
  | .oplog => true
  | .ordered _ _ _ => true
  | _ => false

/-- A warp that waits before an instruction becomes ready: another instruction may now be its next (11:R196, 05:R74). -/
def State.reissue (s : State) (c slot : Nat) : State :=
  match s.warp? c slot with
  | none => s
  | some wp =>
    if wp.wait.before then s.setWarp c slot { wp with wait := .none, waitOp := 0, stamp := s.laneNow c slot + 1 } else s

/-- The run of a warp breaks where one of some threads now waits for the spill engine or a link record (09 Table 6). -/
def State.breakRun (s : State) (c slot : Nat) (ts : List Nat) : State :=
  match s.warp? c slot with
  | none => s
  | some wp => if wp.spills ts && decide ((s.core c).laneRun.get? (slot % 32) = some slot) then s.endRun c slot else s

/-- A fault raised after its thread has issued past the instruction: the thread takes it where it now is; one that has
exited posts its record to its context's queue, and its item fails (11:R196). -/
def State.lateFault (s : State) (id : Nat) (a : Access) (code sub addr : Nat) : State :=
  let s := { s with acc := s.acc.del id }
  let s := s.deadResult a.result
  let held := match a.entry with | some e => (s.core a.core).oplog.has e | none => false
  let entry := if held then a.entry else none
  let there := match s.warp? a.core a.slot with
    | some wp => if wp.uid = a.uid then (match wp.thread? a.thread with | some th => if th.alive then some th else none | none => none) else none
    | none => none
  let f : Flt := ⟨a.thread, code, sub, addr⟩
  match there with
  | none =>
    let s := s.logDone a.core entry a.thread
    (s.post 2 a.ctx 0 (some (a.site.record f true entry a.slot 0))).failLaunch a.launch a.uid a.thread code
  | some th =>
    let free := s.unspilled a.core a.slot
    let s := s.splitOff a.core a.slot a.thread
    let s := match s.warp? a.core a.slot with
      | some wp => s.setWarp a.core a.slot (wp.modThread a.thread fun th => { th with held := false })
      | none => s
    let s := s.takeFault a.core a.slot (a.site.record f true entry a.slot th.depth) th.pc a.site.len
    ((s.afterMove a.core a.slot [a.thread]).reissue a.core a.slot).breakRun a.core a.slot (a.thread :: free)

/-! ### Results -/

/-- The words of a result are known. -/
def State.give (s : State) (r : Option Nat) (words : List Word) : State :=
  match r with
  | none => s
  | some id =>
    match s.results.get? id with
    | none => s
    | some x => { s with results := s.results.set id { x with words := words, ready := true } }

/-- A value arrives for a virtual row: the row is full and needs no refill. Nothing shows it where the cell now belongs to
another resident row, or the row has been spilled (07:R129, R130). -/
def Thread.landRow (th : Thread) (j : Nat) (v : Word) : Thread :=
  let hi := th.fp + th.s
  let taken := decide (j < th.lo) || (decide (hi ≤ j) && decide (th.lo + (j - th.lo) % th.cells.length < hi))
  if taken then th else { th.setCell j (Cell.of v.toNat) with refill := th.refill.filter (· ≠ j) }

/-- Land the words of a result (05:R80): a row of the thread becomes full, a uniform register is written in the copy
that the thread holds. A thread that has ended takes nothing (07:R133). -/
def Warp.landOne (w : Warp) (t : Nat) (l : Land) (v : Word) : Warp :=
  match w.thread? t with
  | none => w
  | some th =>
    if !th.alive then w
    else
      match l with
      | .row j => w.setThread t (th.landRow j v)
      | .g i => w.setG th.copy i v.toNat
      | .pred p => w.setThread t (th.setPred p (decide (v ≠ 0)))
      | .nowhere => w

/-- The places of a result with their words; a predicate becomes 1 if any word is nonzero (03:R43). -/
def landPairs (lands : List Land) (words : List Word) : List (Land × Word) :=
  match lands with
  | [.pred p] => [(.pred p, if words.any (· ≠ 0) then 1 else 0)]
  | _ => lands.zip (words ++ List.replicate lands.length 0)

/-- Land words in a thread. -/
def Warp.landAll (w : Warp) (t : Nat) (lands : List Land) (words : List Word) : Warp :=
  (landPairs lands words).foldl (fun (w : Warp) x => w.landOne t x.1 x.2) w

def State.landResult (s : State) (id : Nat) : State :=
  match s.results.get? id with
  | none => s
  | some r =>
    let s := { s with results := s.results.del id }
    match s.warp? r.core r.slot with
    | none => s
    | some wp =>
      if wp.uid ≠ r.uid then s
      else s.setWarp r.core r.slot (wp.landAll r.thread r.lands r.words)

/-- The value a warp waited for goes to a thread. A frame row that a handler's entry has spilled meanwhile is written
where it was spilled to (11:R196). -/
def State.landWaiter (s : State) (c slot : Nat) (x : Waiter) (words : List Word) : State :=
  match s.warp? c slot with
  | none => s
  | some wp =>
    match wp.thread? x.thread with
    | none => s
    | some th =>
      let s := (landPairs x.lands words).foldl (fun (s : State) y => match y.1 with
        | .row j => if th.alive && decide (j < th.lo) then s.privWrite wp c x.thread (wp.spillWord j) y.2.toNat false else s
        | _ => s) s
      s.setWarp c slot (wp.landAll x.thread x.lands words)

/-- A value extended to 32 bits and cut into the words of a destination (10:R164). -/
def loadWords (n : Nat) (sx : Bool) (v : Nat) : List Word :=
  if n < 4 then toWords (if sx then wrap (sext v (8 * n)) 32 else v) 1 else toWords v (n / 4)

/-! ### Global performance of stores -/

/-- Lines of a core's L1 that carry a tag lose it or get it (09:R153). -/
def Core.tagLines (k : Core) (lines : List Nat) (tag : Option Nat) : Core :=
  { k with l1 := k.l1.map fun e => if lines.contains e.1 then (e.1, { e.2 with tag := tag }) else e }

/-- Forget the ended accesses in the releases of a core; a release with none left and no fence that still adds stores to
it goes, and its tag with it. -/
def State.pruneReleases (s : State) (core : Nat) : State :=
  let k := s.core core
  let live := fun id => s.acc.has id
  let fenced := fun (tag : Nat) => s.warps.any fun w => w.2.fences.any fun f => decide (f.tag = some tag) && decide (w.1 / 256 = core)
  let rs := (k.releases.map fun r => { r with set_ := r.set_.filter live, sync := r.sync.filter live }).filter fun r =>
    !r.set_.isEmpty || !r.sync.isEmpty || fenced r.tag
  let freed := (k.releases.filterMap (·.tag5)).filter fun t => !rs.any fun r => decide (r.tag5 = some t)
  let stale := (k.l1.filter fun e => match e.2.tag with | some t => freed.contains t | none => false).map (·.1)
  s.setCore core { k.tagLines stale none with releases := rs }

/-- An access reaches the L2 of its home: what its instruction moves there is charged once (10:R163). -/
def State.accessL2 (s : State) (a : Access) (pa : Nat) (write : Bool) : State :=
  let n := match (a.pas.zip a.charge).find? fun x => decide (x.1 = pa) with | some x => x.2 | none => 0
  if n = 0 then s.passL2 pa a.ctx write else s.touchHome pa a.ctx n write

/-- Has another thread's access of the same instruction still to reach the line (10:R163)? -/
def State.lineShared (s : State) (a : Access) (line : Nat) : Bool :=
  s.acc.any fun e => decide (e.2.core = a.core) && decide (e.2.slot = a.slot) && decide (e.2.uid = a.uid) &&
    decide (e.2.site = a.site) && decide (e.2.thread ≠ a.thread) && e.2.pas.any fun p => decide (p / 128 = line)

/-- An access of a core to a line through its L1, or past it (09:R151, R152). Evict-after-use drops the line after the last
access of its instruction to it (10:R163). -/
def State.accessLine (s : State) (a : Access) (pa : Nat) (write : Bool) : State :=
  if a.hint % 4 = 2 && !(s.core a.core).l1.has (pa / 128) then (s.yieldCopies a.core (pa / 128) write).accessL2 a pa write
  else s.coreLine a.core pa a.ctx write a.wline (if a.hint % 4 = 3 && s.lineShared a (pa / 128) then 0 else a.hint)

/-- Write the parts of a store at their homes; the address of the first part that was lost, if any. -/
def State.writeParts (s : State) (a : Access) : State × Option Nat :=
  let data := toBytes a.b.toNat (a.size * a.parts)
  ((List.range a.pas.length).zip a.pas).foldl (fun (acc : State × Option Nat) x =>
    let s := acc.1.accessLine a x.2 true
    let s := if a.wline then s.clearPoison x.2 else s
    let (s, lost) := s.physWrite x.2 ((data.drop (x.1 * a.size)).take a.size)
    (s, if lost && acc.2.isNone then some (wrap ((a.va + x.1 * a.stride : Nat) : Int) 64) else acc.2)) (s, none)

/-- The stores of a core that must be at their homes before bytes `rs` are, or a release up to `tag`. -/
def State.neededOf (s : State) (core : Nat) (rs : List (Nat × Nat)) (tag : Option Nat) : List Nat :=
  needed (s.core core) (s.localDesc core) rs tag

/-- Stores of other cores than `core` to the words of `rs` that their own cores have seen: each reaches its home before a
write that its core is to see later (18:R279). -/
def State.seenOf (s : State) (core : Option Nat) (rs : List (Nat × Nat)) : List Nat :=
  ((s.acc.filter fun e => e.2.seen && decide (e.2.kind = .store) && e.2.loc.isSome && decide (some e.2.core ≠ core) &&
      rangesMeet (wordsOver e.2.ranges) (wordsOver rs)).map (·.2.core)).eraseDups.flatMap fun c => s.neededOf c rs none

/-- Globally perform one store that is locally performed, which nothing else need precede. A store lost with its peer or
expander is a late DATA_POISON (23:R345, R355). -/
def State.globalStore (s : State) (id : Nat) : State :=
  match s.acc.get? id with
  | none => s
  | some a =>
    let (s, lost) := s.writeParts a
    let k := s.core a.core
    let tag := ((k.releases.filter fun r => r.set_.contains id).getLast?).bind (·.tag5)
    let s := if tag.isSome then s.setCore a.core (k.tagLines (a.pas.map (· / 128)) tag) else s
    match lost with
    | some va => s.lateFault id a 5 0 va
    | none => { s with acc := s.acc.del id }

/-- Globally perform a store after the stores of other cores that theirs have seen, to the depth given. -/
def State.globalFrom : Nat → State → Nat → State
  | 0, s, id => s.globalStore id
  | n + 1, s, id =>
    match s.acc.get? id with
    | none => s
    | some a => ((s.seenOf (some a.core) a.ranges).foldl (State.globalFrom n) s).globalStore id

/-- Globally perform one store that is locally performed. -/
def State.globalOne (s : State) (id : Nat) : State := s.globalFrom s.acc.length id

/-- Stores with those of other cores that must reach their homes before them. -/
def State.company : Nat → State → List Nat → List Nat
  | 0, _, ids => ids
  | n + 1, s, ids =>
    let more := (ids.flatMap fun id => match s.acc.get? id with
      | some a => s.seenOf (some a.core) a.ranges
      | none => []).eraseDups.filter fun id => !ids.contains id
    if more.isEmpty then ids else State.company n s (more ++ ids)

/-- Before an agent writes bytes at their homes, the stores to their words that other cores than `core` have seen go
there. -/
def State.settleSeen (s : State) (core : Option Nat) (rs : List (Nat × Nat)) : State :=
  (s.seenOf core rs).foldl (fun s id => s.globalOne id) s

/-- Globally perform stores, the earliest first. -/
def State.globalAll (s : State) (core : Nat) (ids : List Nat) : State :=
  (ids.foldl (fun s id => s.globalOne id) s).pruneReleases core

/-- The bytes that the global performance of stores writes: theirs, and those of the stores that must come first. -/
def State.rangesOf (s : State) (ids : List Nat) : List (Nat × Nat) :=
  (State.company s.acc.length s ids).flatMap fun id => match s.acc.get? id with | some a => a.ranges | none => []

/-- What a write of bytes by an agent of `core` writes at their homes with them. -/
def State.settleRanges (s : State) (core : Option Nat) (rs : List (Nat × Nat)) : List (Nat × Nat) :=
  rs ++ s.rangesOf (s.seenOf core rs)

/-- Publish what a holder note of a line names (18:R284): the stores of the noted release and of every older one, and
the synchronizing store; the note goes. Nothing while one of them meets a word that a commit holds (10:R183). -/
def State.publishLine (s : State) (line : Nat) : State :=
  match s.dir.get? line with
  | none => s
  | some d =>
    match d.note with
    | none => s
    | some (core, tag) =>
      let ids := s.neededOf core [] (some tag)
      if s.reserved (s.rangesOf ids) then s
      else
      let s := s.globalAll core ids
      match s.dir.get? line with
      | none => s
      | some d => { s with dir := if d.dies.isEmpty then s.dir.del line else s.dir.set line { d with note := none } }

/-- What the forced publishes of lines would write. -/
def State.publishRanges (s : State) (reader : Option Nat) (lines : List Nat) : List (Nat × Nat) :=
  lines.flatMap fun l => match s.dir.get? l with
    | some ⟨_, _, some (core, tag)⟩ =>
      if reader = some core then [] else s.rangesOf (s.neededOf core [] (some tag))
    | _ => []

/-- The lines of ranges. -/
def linesOf (rs : List (Nat × Nat)) : List Nat :=
  (rs.flatMap fun r => rangeFrom (r.1 / 128) ((r.1 + r.2 - 1) / 128 + 1 - r.1 / 128)).eraseDups

/-- A read reaches the homes of lines: forced publishes come first, but for notes of the reader's own core. -/
def State.publishFor (s : State) (reader : Option Nat) (lines : List Nat) : State :=
  lines.foldl (fun s l => match s.dir.get? l with
    | some ⟨_, _, some (core, _)⟩ => if reader = some core then s else s.publishLine l
    | _ => s) s

/-- Bring a core's own stores of bytes `rs`, and its releases up to `tag`, to their homes. -/
def State.bringHome (s : State) (core : Nat) (rs : List (Nat × Nat)) (tag : Option Nat) : State :=
  s.globalAll core (s.neededOf core rs tag)

/-! ### The caches that are not coherent (03:R53, 09:R155) -/

/-- One word read through such a cache: where the cached line and memory differ, either value (log entry 7). -/
def State.mixedWord (s : State) (cache : List (Nat × Nat × List Byte)) (ctx pa : Nat) : List Byte × State :=
  let now := s.mem.read pa 4
  match cache.find? fun e => decide (e.1 = ctx) && decide (e.2.1 = pa / 128) with
  | none => (now, s)
  | some e =>
    let old := (e.2.2.drop (pa % 128)).take 4
    if old = now then (now, s)
    else
      let (b, s) := s.takeFree 1
      (if b = 1 then old else now, s)

/-- `n` words, each whole. -/
def State.mixedWords (cache : List (Nat × Nat × List Byte)) (ctx : Nat) : Nat → State → Nat → List Byte × State
  | 0, s, _ => ([], s)
  | n + 1, s, pa =>
    let (w, s) := s.mixedWord cache ctx pa
    let (ws, s) := State.mixedWords cache ctx n s (pa + 4)
    (w ++ ws, s)

/-- A line enters such a cache: at most four of a set of 128 (09 Table 1) in the constant cache, the oldest leaving. -/
def cacheLine (code : Bool) (c : List (Nat × Nat × List Byte)) (e : Nat × Nat × List Byte) : List (Nat × Nat × List Byte) :=
  if code then e :: c
  else e :: ((c.filter fun x => x.2.1 % 128 == e.2.1 % 128).take 3 ++ c.filter fun x => x.2.1 % 128 != e.2.1 % 128)

/-- The lines of a read enter the cache with what memory holds; each comes from the L2, a read of its home (18:R284). -/
def State.fillLines (s : State) (core ctx pa n : Nat) (code : Bool) : State :=
  (rangeFrom (pa / 128) ((pa + n - 1) / 128 + 1 - pa / 128)).foldl (fun (s : State) l =>
    let k := s.core core
    let c := if code then k.icache else k.ccache
    if c.any fun e => decide (e.1 = ctx) && decide (e.2.1 = l) then s
    else
      let s := s.publishFor (some core) [l]
      let k := s.core core
      let c := cacheLine code c (ctx, l, s.mem.read (128 * l) 128)
      (s.setCore core (if code then { k with icache := c } else { k with ccache := c })).touchL2 (128 * l) ctx false) s

/-- A read of words through the constant cache, or with `code` the instruction cache, of a core, within one page. -/
def State.cachedRead (s : State) (core ctx pa n : Nat) (code : Bool) : List Byte × Bool × State :=
  match regionOf pa with
  | .ram =>
    let s := s.fillLines core ctx pa n code
    let k := s.core core
    let (bs, s) := State.mixedWords (if code then k.icache else k.ccache) ctx (n / 4) s pa
    (bs, s.poisoned pa n || s.expanderLost pa, s)
  | _ => s.physRead none pa n

/-- What a read outside the operand log finds (11:R374). -/
inductive Plain
  | ok (bs : List Byte)
  | wait
  | deny (sub : Nat)
  | poison
deriving DecidableEq, Repr

/-- A read by a core's thread outside the operand log, within one page. -/
def State.plainRead (s : State) (core ctx va n : Nat) : Plain × State :=
  match s.lookup core ctx va with
  | none => (.wait, s)
  | some e =>
    let s := s.walked core ctx va e
    if !e.r then (.deny 2, s)
    else match s.finalPa (e.trans va) with
      | none => (.deny 1, s)
      | some pa =>
        if regionOf pa = .hole then (.deny 1, s)
        else
          let lines := rangeFrom (pa / 128) ((pa + n - 1) / 128 + 1 - pa / 128)
          let s := s.publishFor (some core) (lines.filter fun l => !(s.core core).l1.has l)
          let s := lines.foldl (fun (s : State) l => s.coreLine core (128 * l) ctx false false 0) s
          let (bs, bad, s) := s.physRead (some core) pa n
          (if bad then .poison else .ok bs, s)

/-- A constant-window read of a core (09:R154, R155). -/
def State.windowRead (s : State) (core ctx va n : Nat) : Plain × State :=
  match s.lookup core ctx va with
  | none => (.wait, s)
  | some e =>
    let s := s.walked core ctx va e
    if !e.r then (.deny 2, s)
    else match s.finalPa (e.trans va) with
      | none => (.deny 1, s)
      | some pa =>
        if regionOf pa = .hole then (.deny 1, s)
        else
          let (bs, bad, s) := s.cachedRead core ctx pa n false
          (if bad then .poison else .ok bs, s)

end Sys2Proof.Machine
end

