-- ==== Sys2Proof/Machine/Roles.lean ====
section
/-! DEFINITION. What each field of each lane instruction is: the operand tables of 06 Table 1, 07 Table 1, 10 Tables 1
and 3, 14 Table 1, 17 Table 1, 21 Tables 1 and 8. The decoder, the encoder and the meanings read this one table. -/

namespace Sys2Proof.Machine

/-- What stands in an operand field. -/
inductive Role
  /-- reserved: nonzero traps ILLEGAL_OP -/
  | zero
  /-- the register that GETX indexes counts as source A: the field is zero, its trap-if-empty bit is read (06:R121) -/
  | hidden
  /-- a source of `n` words -/
  | src (n : Nat)
  /-- a source that must be uniform -/
  | usrc (n : Nat)
  /-- a destination of `n` words -/
  | dst (n : Nat)
  /-- a destination that is read as well (base forms of FMA and BFI) -/
  | upd (n : Nat)
  /-- a destination that must be uniform -/
  | udst (n : Nat)
  /-- a destination that must be per thread -/
  | vdst (n : Nat)
  /-- a number; `ok3` false traps ILLEGAL_OP, `ok4` false ILLEGAL_OPERAND -/
  | num (ok3 ok4 : Nat → Bool)

/-- What word 2 is. -/
inductive W2
  | unused
  | imm
  | field (ok3 ok4 : Nat → Bool)

/-- The roles of an instruction's fields. `lit`: it reads a source B; `kw`: 1 in KW is not refused outright; `slots`:
sources a window operand may replace; `mixed`: 03:R45 does not apply; `viaC`: the destination may stand in C (03:R43). -/
structure Roles where
  d : Role := .zero
  a : Role := .zero
  b : Role := .zero
  c : Role := .zero
  w2 : W2 := .unused
  rm : Nat → Bool := fun n => n == 0
  ov : Nat → Bool := fun n => n == 0
  sc3 : Nat → Bool := fun n => n == 0
  sc4 : Nat → Bool := fun _ => true
  lit : Bool := false
  kw : Bool := true
  slots : Nat → Bool := fun _ => true
  mixed : Bool := false
  viaC : Bool := true
  noGuard : Bool := false
  extOnly : Bool := false

namespace Role

/-- Any number. -/
def any : Role := .num (fun _ => true) (fun _ => true)

/-- A number whose bits from `n` on are reserved. -/
def low (n : Nat) : Role := .num (fun x => decide (x < 2 ^ n)) (fun _ => true)

/-- Words a source role reads. -/
def srcWords : Role → Option Nat
  | .src n => some n
  | .usrc n => some n
  | _ => none

/-- Words a destination role writes. -/
def dstWords : Role → Option Nat
  | .dst n => some n
  | .upd n => some n
  | .udst n => some n
  | .vdst n => some n
  | _ => none

end Role

/-- RM as a rounding mode, or zero (03 Table 4a, 06:R98). -/
def rmRound (fp : Bool) : Nat → Bool := fun n => if fp then decide (n ≤ 5) else n == 0

/-- RM as a cache hint (03:R38). -/
def rmHint : Nat → Bool := fun n => decide (n ≤ 3)

/-- SC where it is read. -/
def scAny : Nat → Bool := fun n => decide (n ≤ 6)

/-- SC of ENQ, POST, TSPAWN and INTR: 5 or 6 (21:R313). -/
def scWide : Nat → Bool := fun n => n == 5 || n == 6

/-- dest, x and y of `n` words. -/
def r3 (n : Nat) (rm : Nat → Bool := fun k => k == 0) : Roles :=
  { d := .dst n, a := .src n, b := .src n, rm := rm, lit := true }

/-- Words of a format index of CVT (06 Table 6). -/
def cvtWords (i : Nat) : Nat := if i == 0 || i == 6 || i == 7 then 2 else 1

/-- Is the index an integer format? -/
def cvtInteger (i : Nat) : Bool := decide (4 ≤ i)

/-- Is the code one of CVT's (06:R113, Table 7)? -/
def cvtCode (b : Nat) : Bool :=
  if b ≤ 95 then !(b == 36 || b == 45 || b == 54 || b == 63)
  else decide (b ≤ 102) || b == 104 || b == 105 || b == 106

/-- Roles of CVT by its code (06:R112 to R115). RM 1 to 4 need T = 0 (03:R39), also where a conversion between integer
formats then ignores both. DEDUCED (log entry 99). -/
def cvtRoles (t b : Nat) : Roles :=
  let num : Role := .num cvtCode (fun _ => true)
  let rm := fun n => decide (n ≤ 5) && (n == 0 || n == 5 || t == 0)
  if b ≤ 95 then
    { d := .dst (cvtWords (b / 8)), a := .src (cvtWords (b % 8)), b := num, rm := rm,
      ov := fun n => if cvtInteger (b / 8) then n == 0 || n == 3 else decide (n ≤ 3) }
  else if b ≤ 97 then { d := .dst 1, a := .src 2, b := num, rm := rm, ov := fun n => decide (n ≤ 3) }
  else if b ≤ 99 then { d := .dst 2, a := .src 1, b := num, rm := rm, ov := fun n => decide (n ≤ 3) }
  else if b ≤ 102 then
    { d := .dst 1, a := .src 1, b := .num (fun _ => t == 0) (fun _ => true), c := .udst 1,
      ov := fun n => decide (n ≤ 3), noGuard := true, extOnly := true, viaC := false }
  else
    { d := .dst 1, a := .src 1, b := num, c := .src 1, rm := rm, ov := fun n => decide (n ≤ 3), extOnly := true }

/-- Majors 1 to 37 (06 Table 1, 03 Table 7). -/
def rolesArith (op t : Nat) (ext : Bool) (b : Nat) : Option Roles :=
  if op ≤ 3 then some (r3 1 (rmRound (decide (2 ≤ t))))
  else match op with
  | 4 => if t == 0 then some (r3 1) else none
  | 5 => if t == 1 then none else some
      { (if ext then { d := .dst 1, c := .src 1 } else { d := .upd 1 } : Roles) with
        a := .src 1, b := .src 1, rm := rmRound (decide (2 ≤ t)), lit := true }
  | 6 => some (r3 1)
  | 7 => some (r3 1)
  | 8 => if t ≤ 1 then some (r3 (t + 1)) else none
  | 9 => if t ≤ 1 then some (r3 (t + 1)) else none
  | 10 => if t ≤ 1 then some (r3 (t + 1)) else none
  | 11 => if t ≤ 1 then some (r3 (t + 1)) else none
  | 12 => if t ≤ 1 then some { r3 (t + 1) with b := .src 1 } else none
  | 13 => some { r3 (t % 2 + 1) with b := .src 1 }
  | 14 => if t ≤ 1 then some { r3 (t + 1) with b := .src 1 } else none
  | 15 => if t ≤ 1 then some
      { d := .dst (t + 1), a := .src (t + 1), b := .num (fun n => decide (n ≤ 7)) (fun _ => true) } else none
  | 16 => if t ≤ 1 then some (r3 1) else none
  | 17 => if t == 0 then some
      { (if ext then { d := .dst 1, c := .src 1 } else { d := .upd 1 } : Roles) with
        a := .src 1, b := .src 1, lit := true } else none
  | 18 => if t ≤ 2 then some (r3 2 (rmRound (t == 2))) else none
  | 19 => if t ≤ 2 then some (r3 2 (rmRound (t == 2))) else none
  | 20 => some (r3 2 (rmRound (t == 2)))
  | 21 => if t == 0 || t == 2 then some
      { (if ext then { d := .dst 2, c := .src 2 } else { d := .upd 2 } : Roles) with
        a := .src 2, b := .src 2, rm := rmRound (t == 2), lit := true } else none
  | 22 => some (r3 (if t == 3 then 2 else 1) (rmRound (decide (2 ≤ t))))
  | 23 => some (r3 (if 2 ≤ t then 2 else 1))
  | 24 =>
      let n := if t == 3 then 2 else 1
      some { d := .num (fun k => decide (2 ≤ t) || decide (k / 8 ≤ 5) || decide (14 ≤ k / 8)) (fun _ => true),
             a := .src n, b := .src n, lit := true }
  | 25 => if t ≤ 1 then some
      { d := .num (fun k => decide (k / 8 ≤ 5) || decide (14 ≤ k / 8)) (fun _ => true),
        a := .src 2, b := .src 2, lit := true } else none
  | 26 => if ext then (if t == 0 then some { r3 1 with c := .src 1 } else none) else some { r3 1 with d := .vdst 1 }
  | 27 =>
      if t ≤ 1 then some { d := .dst (t + 1), b := .src (t + 1), lit := true }
      else if t == 2 then some { d := .udst 1, b := .src 1, lit := true, mixed := true }
      else some { d := .udst 1, a := .src 1, b := .usrc 1, lit := true, mixed := true }
  | 28 => if b < 128 then some (cvtRoles t b) else none
  | 29 => some
      { d := .dst (if t == 2 then 2 else 1), a := .src (if t == 2 then 2 else 1),
        b := .num (fun n => decide (n ≤ 9)) (fun _ => true),
        rm := fun n => if b ≤ 1 then decide (n ≤ 5) else n == 0 || n == 5 }
  | 30 => some { d := .dst 1, a := .src 1, b := .src 1, lit := true, mixed := true }
  | 31 => some
      { d := .dst (if t == 3 then 2 else 1), a := .src (if t == 3 then 2 else 1),
        b := .num (fun n => decide (n ≤ 5) && (t != 2 || decide (n ≤ 2))) (fun _ => true),
        rm := rmRound (t == 2), mixed := true }
  | 32 => if t ≤ 1 then
      let ty := bits b 3 2
      let n := if ty == 3 then 2 else 1
      some { d := .vdst n, a := .src n, rm := rmRound (ty == 2),
             b := .num (fun k => decide (k < 32) && decide (k % 8 ≤ 5) && (ty != 2 || decide (k % 8 ≤ 2))) (fun _ => true) }
      else none
  | 33 => some
      { d := .dst 1, a := if bit b 3 then .zero else .src 1,
        b := .num (fun k => decide (k < 16) && (bit k 3 || k == 0)) (fun _ => true), mixed := true }
  | 34 => if t ≤ 1 then some { d := .vdst (t + 1), a := .hidden, b := .src 1, w2 := .imm, lit := true } else none
  | 35 => if t ≤ 1 then some { a := .src (t + 1), b := .src 1, w2 := .imm, lit := true } else none
  | 36 => some { d := .dst 2, a := .src 2, b := .src 1, w2 := .imm, lit := true }
  | 37 => some { d := .low 3, a := .low 4, b := .low 4 }
  | _ => none

/-- Majors 38 to 46 (07 Table 1). -/
def rolesControl (op t : Nat) (ext : Bool) : Option Roles :=
  let off : Role := if ext then .zero else .any
  let w2 : W2 := if ext then .field (fun _ => true) (fun _ => true) else .unused
  match op with
  | 38 =>
      if t == 0 then some { d := .low 4, a := off, b := off, w2 := w2 }
      else if t == 1 then some { a := off, b := off, w2 := w2 }
      else if t == 2 then some { a := .src 2 }
      else none
  | 39 => some { d := off, a := if t == 2 then .zero else .usrc 1, b := off, w2 := w2 }
  | 40 => if t == 0 then some { d := .num (fun _ => true) (fun n => decide (n ≤ 96)), a := off, b := off, w2 := w2 } else none
  | 41 => if t == 0 then some { d := .num (fun _ => true) (fun n => decide (n ≤ 96)), a := .src 2 } else none
  | 42 => if t == 0 then some { kw := false, viaC := false } else none
  | 43 => if t == 0 then some { d := .num (fun _ => true) (fun n => decide (1 ≤ n) && decide (n ≤ 96)) } else none
  | 44 => if t == 0 then some { a := off, b := off, w2 := w2 } else none
  | 45 => if t == 0 then some {} else if t == 1 then some { a := .usrc 2 } else none
  | 46 => if t == 0 then some { d := .any } else none
  | _ => none

/-- Words of an access of size code 0 b8 to 4 b128. -/
def sizeWords (n : Nat) : Nat := if n ≤ 2 then 1 else if n == 3 then 2 else 4

/-- The legal combinations of ATOM and RED (10 Table 4). -/
def atomLegal (op : Nat) (size64 ret : Bool) : Bool :=
  decide (op ≤ 14) &&
  (!size64 || !(op == 1 || op == 11 || op == 12 || op == 13 || op == 14)) &&
  (ret || !(op == 9 || op == 10))

/-- A field of word 2 whose bits from `n` on are reserved, and a range. -/
def w2low (n : Nat) (ok4 : Nat → Bool := fun _ => true) : W2 := .field (fun x => decide (x < 2 ^ n)) ok4

/-- Families 48 to 55 (10 Tables 1 and 3; 07 Table 1 for SLEEP and WAITFE). -/
def rolesCore (op x t a : Nat) : Option Roles :=
  match op with
  | 48 =>
      let size := bits x 0 3
      let mode := bits x 3 2
      let se := bit x 5
      if size ≤ 4 && mode ≤ 2 && x < 64 && (!se || size ≤ 1) && t ≤ 1 then
        some { d := .dst (sizeWords size), w2 := .imm, rm := rmHint, sc3 := scAny, slots := fun k => k == 2,
               a := if mode == 0 then .src 2 else if mode == 1 then .usrc 2 else .zero,
               b := if mode == 0 then .zero else if mode == 1 then .src 1
                    else .num (fun _ => true) (fun n => decide (n ≤ 15)), lit := mode == 1 }
      else none
  | 49 =>
      let size := bits x 0 3
      let mode := bits x 3 2
      if size ≤ 4 && mode ≤ 2 && x < 32 && (t == 0 || t == 2) then
        some { c := .src (sizeWords size), w2 := .imm, rm := rmHint, sc3 := scAny, slots := fun k => k == 2,
               a := if mode == 0 then .src 2 else if mode == 1 then .usrc 2 else .zero,
               b := if mode == 0 then .zero else if mode == 1 then .src 1
                    else .num (fun _ => true) (fun n => decide (n ≤ 15)), lit := mode == 1 }
      else none
  | 50 =>
      let n := 2 ^ bits x 1 2
      if x < 8 && bits x 1 2 ≤ 2 && t == 0 then
        if bit x 0 then some { a := .src 1, c := .src n, w2 := .imm, rm := rmHint }
        else some { d := .dst n, a := .src 1, w2 := .imm, rm := rmHint }
      else none
  | 51 =>
      let n := 2 ^ bits x 1 2
      if x < 32 && bits x 1 2 ≤ 2 then
        if bit x 0 then
          if t == 0 || t == 2 then some { a := .src 1, c := .src n, w2 := .imm, rm := rmHint } else none
        else if t ≤ 1 then some { d := .dst n, a := .src 1, w2 := .imm, rm := rmHint } else none
      else if x == 32 && (t == 0 || t == 2) then some { a := .src 1, w2 := w2low 13 (fun n => n % 4096 != 0) }
      else if x == 33 && t ≤ 1 then some { d := .dst 1, a := .src 1 }
      else none
  | 52 =>
      let n := if bit x 4 then 2 else 1
      if x < 64 && atomLegal (bits x 0 4) (bit x 4) (bit x 5) then
        if bit x 5 then
          some { d := .dst n, a := .src 2, b := .src n, c := if bits x 0 4 == 10 then .src n else .zero, w2 := .imm,
                 rm := rmHint, sc3 := scAny, lit := true }
        else if t == 0 || t == 2 then
          some { a := .src 2, b := .src n, w2 := .imm, rm := rmHint, sc3 := scAny, lit := true }
        else none
      else none
  | 53 =>
      if x == 0 then (if 1 ≤ t then some { sc3 := scAny } else none)
      else if x == 1 || x == 2 then (if t == 0 then some { c := .usrc 1, w2 := w2low 4 } else none)
      else if x == 3 then (if t == 0 then some { w2 := w2low 4 } else none)
      else if x == 4 then (if t == 0 then some { kw := false } else none)
      else if x == 5 then (if t ≤ 1 then some
        { d := .dst 1, a := .src 2, b := .src 1, c := .src 1, w2 := .imm, sc3 := scAny, lit := true } else none)
      else if x == 6 || x == 7 then (if t == 0 || t == 2 then some
        { d := .dst 1, a := .src 2, w2 := .imm, sc3 := scAny } else none)
      else if x == 8 then (if t == 0 then
        (if a == 0 then some { a := .any, w2 := .field (fun _ => true) (fun _ => true) }
         else some { a := .usrc 1 }) else none)
      else if x == 9 then (if t == 0 then some
        { a := .num (fun _ => true) (fun n => decide (n ≤ 95)),
          w2 := .field (fun _ => true) (fun n => decide (1 ≤ n) && decide (n ≤ 96)) } else none)
      else none
  | 54 =>
      if t == 0 then
        match x with
        | 0 => some {}
        | 1 => some { d := .low 3 }
        | 2 => some { w2 := w2low 8 }
        | 3 => some { d := .dst 1 }
        | _ => none
      else none
  | 55 =>
      match x with
      | 0 => some { b := .usrc 1, lit := true }
      | 1 =>
          let d : Role := .num (fun _ => true) (fun n => decide (n ≤ 15))
          if t == 0 then some { d := d, b := .src 2, w2 := w2low 0, lit := true }
          else if t == 1 then some { d := d, b := .usrc 1, w2 := w2low 2, lit := true }
          else if t == 2 then some { d := d, w2 := w2low 0 }
          else none
      | 2 => if t == 0 then some { w2 := .field (fun _ => true) (fun _ => true) } else none
      | 3 => some { d := .dst 1 }
      | 4 => some { d := .dst 1 }
      | _ => none
  | _ => none

/-- Codes of MXCVT (14 Table 4). -/
def mxcvtCode (b : Nat) : Bool :=
  b == 0x00 || b == 0x01 || b == 0x10 || b == 0x14 || b == 0x15 || b == 0x22 || b == 0x23 || b == 0x36

/-- Is the destination of the MXCVT code an integer format? -/
def mxcvtInteger (b : Nat) : Bool := !(b == 0x14 || b == 0x15 || b == 0x36)

/-- A tile register field: bits 5+2 are reserved (14:R223). -/
def tileReg : Role := .low 5

/-- Families 56 and 57 (14 Table 1). -/
def rolesCluster (op x t b w2 : Nat) : Option Roles :=
  match op with
  | 56 =>
      match x with
      | 0 => if t == 0 then some { a := .src 1, w2 := .imm, kw := false } else none
      | 1 => if t == 0 then some { d := tileReg, a := .src 2, w2 := .field (fun n => !(bit n 11) && decide (n < 2 ^ 24)) (fun _ => true) } else none
      | 2 => if t == 0 then some { d := tileReg, a := .src 2, w2 := .field (fun n => !(bit n 11) && decide (n < 2 ^ 24)) (fun _ => true) } else none
      | 3 => if t == 0 then some { d := tileReg, w2 := .field (fun n => !(bit n 11) && decide (n < 2 ^ 24)) (fun _ => true) } else none
      | 4 => if t == 0 then some
          { d := tileReg, a := tileReg, b := .num mxcvtCode (fun _ => true),
            w2 := .field (fun n => !(bit n 11) && decide (n < 2 ^ 19)) (fun _ => true),
            ov := fun n => if mxcvtInteger b then n == 0 || n == 3 else decide (n ≤ 3) } else none
      | 5 => if t == 0 then some { d := .dst 1, w2 := w2low 8 } else none
      | 6 => if t ≤ 1 then some { d := .dst 1, w2 := w2low 3 } else none
      | 8 => if t ≤ 2 then some
          { d := tileReg, a := tileReg, b := if bits w2 12 4 == 5 then .zero else tileReg,
            w2 := .field (fun n => !(bit n 11) && decide (n < 2 ^ 16) && decide (bits n 12 4 ≤ 5)) (fun _ => true),
            ov := fun n => if t == 0 then n == 0 else decide (n ≤ 3) } else none
      | _ => none
  | 57 =>
      if t == 0 then
        match x with
        | 0 => some { a := .src 1, b := .src 1, w2 := .imm, lit := true, kw := false }
        | 1 => some { a := .src 1, b := .src 1, w2 := .imm, lit := true, kw := false }
        | 2 => some { b := .src 1, lit := true, kw := false, w2 := w2low 13 (fun n => decide (1 ≤ n) && decide (n ≤ 4096)) }
        | 3 => some { a := .src 1, b := .src 1, lit := true, kw := false }
        | _ => none
      else none
  | _ => none

/-- Families 58 and 59 (17 Table 1). -/
def rolesDie (op x t b : Nat) : Option Roles :=
  let lines : W2 := w2low 13 (fun n => decide (1 ≤ n) && decide (n ≤ 4096))
  match op with
  | 58 =>
      if t != 0 then none
      else match x with
      | 0 => some { d := .udst 4, a := .src 1, w2 := .imm, mixed := true, viaC := false }
      | 1 => some { d := .dst 1, a := .src 2, b := .src 1, lit := true }
      | 2 => some { d := .dst 2, b := .src 1, lit := true, viaC := false }
      | 3 => some { a := .src 2, w2 := lines }
      | 4 => some { a := .src 2, w2 := lines }
      | 5 => some { a := .src 2, w2 := lines }
      | 6 => some { d := .dst 1, a := .src 1, mixed := true, w2 := w2low 9 (fun n => decide (1 ≤ n) && decide (n ≤ 256)) }
      | 7 => some { d := .dst 1, a := .src 1, mixed := true, w2 := w2low 9 (fun n => decide (1 ≤ n) && decide (n ≤ 256)) }
      | 8 => some { d := .dst 2, w2 := w2low 5, viaC := false }
      | 9 => some { d := .udst 4, a := .src 1, w2 := .imm, mixed := true, viaC := false }
      | 10 => some { a := .src 2, w2 := .imm, rm := fun n => decide (n ≤ 2) }
      | _ => none
  | 59 =>
      match x with
      | 0 => if t ≤ 1 then some { d := .vdst 4, a := .src 2, c := .src 1, w2 := .imm, sc3 := scAny } else none
      | 1 => if t == 0 || t == 2 then some { a := .src 2, b := .src 1, c := .src 2, w2 := .imm, sc3 := scAny, lit := true } else none
      | 2 => some { a := .src 2, b := .num (fun n => decide (n ≤ 7)) (fun _ => true),
                    c := if b == 7 then .src 2 else .zero, w2 := .imm, sc3 := scAny }
      | 3 => if t ≤ 1 then some { d := .dst 1, a := .src 2, w2 := .imm, sc3 := scAny } else none
      | _ => none
  | _ => none

/-- Words of a system register, none for a number not listed (05 Table 6, 21 Table 9). -/
def sysWords (n : Nat) : Option Nat :=
  if n == 4 || n == 6 || n == 9 || n == 12 || n == 14 || n == 15 then some 2
  else if n ≤ 16 then some 1 else none

/-- Is the register per thread (05 Table 6)? -/
def sysThread (n : Nat) : Bool := decide (1 ≤ n) && decide (n ≤ 5)

/-- Is the register written by SYSW? -/
def sysWritable (n : Nat) : Bool := n == 0 || n == 14 || n == 15

/-- Families 60 to 62 (21 Tables 1 and 8). -/
def rolesPackage (op x t w2 : Nat) : Option Roles :=
  let post : Roles := { d := .dst 1, sc3 := scAny, sc4 := scWide, kw := false, mixed := true }
  match op with
  | 60 =>
      match x with
      | 0 => if t == 0 || t == 2 then some { post with a := .usrc 1, b := .usrc 1, w2 := .imm, lit := true } else none
      | 1 => if t == 0 || t == 2 then some { post with a := .src 2, b := .src 1, w2 := .imm, lit := true, mixed := false } else none
      | 2 => if t == 0 || t == 2 then some { post with a := .src 2, b := .usrc 2, w2 := w2low 25, lit := true, mixed := false } else none
      | 3 => if t == 0 then some { d := .dst 1, a := .usrc 2, kw := false, mixed := true } else none
      | 4 => if t == 0 then some { d := .dst 1, a := .usrc 2, kw := false, w2 := w2low 4 (fun n => n != 0) } else none
      | 5 => if t == 0 then some { d := .dst 1, a := .usrc 2, kw := false } else none
      | 6 => if t == 0 || t == 2 then some { post with a := .usrc 1, b := .usrc 1, w2 := w2low 5, lit := true } else none
      | 8 => if t == 0 then some { d := .dst 2, b := .usrc 1, lit := true, kw := false } else none
      | _ => none
  | 61 =>
      let base : Roles := { d := .dst 1, kw := false, mixed := true, lit := true, b := .src 1 }
      if t != 0 then none
      else match x with
      | 0 => some { base with a := .src 2, b := .zero, lit := false }
      | 1 => some { base with a := .src 2 }
      | 2 => some { base with a := .src 2 }
      | 3 => some { base with a := .src 2 }
      | 4 => some { base with a := .src 2, c := .src 2 }
      | 5 => some base
      | 6 => some base
      | 7 => some { base with a := .src 2, w2 := w2low 2 }
      | 8 => some { base with a := .src 1, c := .src 2, w2 := w2low 2 (fun n => decide (n ≤ 2)) }
      | _ => none
  | 62 =>
      match x with
      | 0 => if t == 0 then some { w2 := w2low 3 (fun n => decide (n ≤ 3) || n == 7), kw := false } else none
      | 1 => if t == 0 then some
          { d := if sysThread w2 then .vdst ((sysWords w2).getD 1) else .dst ((sysWords w2).getD 1), kw := false,
            w2 := w2low 8 (fun n => (sysWords n).isSome) } else none
      | 2 => if t == 0 then some
          { b := .usrc ((sysWords w2).getD 1), lit := true, kw := false, w2 := w2low 8 sysWritable } else none
      | 3 => if t ≤ 2 then some { d := .dst 1, b := .usrc 1, lit := true, kw := false, mixed := true } else none
      | 4 => if t ≤ 1 then some { d := .dst 1, a := .usrc 1, w2 := .imm, kw := false, mixed := true } else none
      | 5 => if t ≤ 1 then some { d := .dst 1, b := .usrc 1, lit := true, kw := false, mixed := true } else none
      | 7 => if t == 0 then some { d := .dst 1, kw := false, mixed := true } else none
      | 8 => if t == 0 then some { kw := false } else none
      | _ => none
  | _ => none

/-- The roles of an instruction by major, sub-opcode, T and form, and by those raw fields some roles hang on: A (SLEEP),
Bs (codes) and word 2 (register numbers). None: the instruction is not listed, which traps ILLEGAL_OP. -/
def roles (op x t : Nat) (ext : Bool) (a b w2 : Nat) : Option Roles :=
  if op ≤ 37 then rolesArith op t ext b
  else if op ≤ 46 then rolesControl op t ext
  else if op ≤ 55 then rolesCore op x t a
  else if op ≤ 57 then rolesCluster op x t b w2
  else if op ≤ 59 then rolesDie op x t b
  else rolesPackage op x t w2

/-- Is source B an i-typed operand, whose literal is sign-extended (03:R42)? The index of LEA and of mode 1, the stride
of LNCOEF, the amount of the 32- and 64-bit SHR and the position and width of BFX have no type of their own: theirs is
zero-extended. DEDUCED (log entry 99). -/
def litSigned (op x t : Nat) : Bool :=
  if op ≤ 3 then decide (t ≤ 1)
  else match op with
  | 5 => t == 0
  | 6 => t == 0
  | 7 => t == 0
  | 22 => t == 0
  | 23 => t == 0
  | 24 => t == 0
  | 52 => bits x 0 4 == 0 || bits x 0 4 == 2 || bits x 0 4 == 3
  | _ => false

end Sys2Proof.Machine
end

