-- ==== Sys2Proof/Machine/Operands.lean ====
section
/-! DEFINITION. Reading and writing operands, participants, and the shared forms in which instructions issue (03:R37 to
R46, 05:R75, R76, R93, 06:R99, R100). -/

namespace Sys2Proof.Machine

/-- The values an instruction reads: D where it is read as well, A, B and C. -/
structure Vals where
  d : Nat := 0
  a : Nat := 0
  b : Nat := 0
  c : Nat := 0
deriving DecidableEq, Repr

/-- What reading an operand gives: a value, a fault, or empty rows to wait for. -/
inductive Rd
  | val (v : Nat)
  | flt (code addr : Nat)
  | empty (rows : List Nat)
deriving DecidableEq, Repr

/-- Read `n` words of a register in a thread. A row at or above S takes FRAME_INDEX; an empty row is waited for, or
takes EMPTY_READ in trap mode; a poisoned one takes FRAME_FILL, or DATA_POISON where the array failed (05:R76, R87,
R91, R93; 24:R366). -/
def Warp.readReg (w : Warp) (t : Nat) (th : Thread) (g : Reg) (n : Nat) (trap : Bool) : Rd :=
  match g with
  | .g i =>
    if trap && (List.range n).any fun j => (w.copy th.copy).conflict.getLsbD (i + j) then .flt 21 0
    else .val (ofWords ((List.range n).map fun j => BitVec.ofNat 32 (w.g th.copy (i + j))))
  | .v i =>
    if decide (0 < n) && decide (i + n > th.s) then .flt 14 0
    else
      let rows := rangeFrom (th.fp + i) n
      let empty := rows.filter fun j => !(th.cell j).full
      if !empty.isEmpty then (if trap then .flt 20 0 else .empty (empty))
      else match rows.find? fun j => decide ((th.cell j).poison ≠ .none) with
        | some j => if (th.cell j).poison = .fill then .flt 17 (w.privAddr t (w.spillWord j)) else .flt 5 0
        | none => .val (ofWords (rows.map fun j => (th.cell j).val))

/-- The value a window gives, read once per instruction (09:R154). -/
inductive Win
  | none
  | val (v : Nat)
  | flt (code sub addr : Nat)
  | wait (addr : Nat)
deriving DecidableEq, Repr

/-- Read a source of `n` words; `now` is device time, `win` the window's value. -/
def Warp.readSrc (w : Warp) (gidx : Nat) (now : DWord) (win : Nat) (t : Nat) (th : Thread) (n : Nat) : Opd → Rd
  | .src (.reg g) trap => w.readReg t th g n trap
  | .src (.pred p) _ => .val (if th.pred p then 1 else 0)
  | .src (.inline v) _ => .val (wrap v (32 * n))
  | .src .zero _ => .val 0
  | .src .tid _ => .val t
  | .src .widx _ => .val w.widx
  | .src .gidx _ => .val gidx
  | .src .dtlo _ => .val (now.toNat % 2 ^ 32)
  | .src (.lit v) _ => .val (v.toNat % 2 ^ (32 * n))
  | .src (.window _ _) _ => .val win
  | .num k => .val k
  | .none => .val 0
  | .dst _ => .val 0

/-- Words a role's source has; numbers and reserved fields read nothing. -/
def Role.reads : Role → Nat
  | .src n => n
  | .usrc n => n
  | .upd n => n
  | _ => 0

/-- The guard (03:R37). -/
def Guard.holds (g : Guard) (th : Thread) : Bool :=
  match g with
  | .always => true
  | .on p neg => th.pred p != neg

/-- What a thread finds before it may execute. -/
inductive Ready
  | go (v : Vals)
  | flt (f : Flt)
  | empty (rows : List Nat)
deriving DecidableEq, Repr

/-- The destination of an instruction with its words: D, or C under 03:R43. -/
def Ops.dst (o : Ops) (r : Roles) : Option (Dst × Nat) :=
  match o.d with
  | .dst d => r.d.dstWords.map fun n => (d, n)
  | .none => (match o.c with
    | .dst d => r.d.dstWords.map fun n => (d, n)
    | _ => none)
  | _ => none

/-- The frame registers a destination names, with its words. -/
def Dst.rows (th : Thread) (d : Dst) (n : Nat) : List Nat :=
  match d with
  | .reg (.v i) => rangeFrom (th.fp + i) n
  | _ => []

/-- Does the destination lie beyond the frame (05:R93)? -/
def Dst.beyond (th : Thread) (d : Dst) (n : Nat) : Bool :=
  match d with
  | .reg (.v i) => decide (i + n > th.s)
  | _ => false

/-- Does a source name a register beyond the frame? -/
def Opd.beyond (th : Thread) (n : Nat) : Opd → Bool
  | .src (.reg (.v i)) _ => decide (0 < n) && decide (i + n > th.s)
  | _ => false

/-- The first fault among reads, in order. -/
def firstFault : List Rd → Option (Nat × Nat)
  | [] => none
  | .flt c a :: _ => some (c, a)
  | _ :: rs => firstFault rs

/-- The value of a read. -/
def Rd.get : Rd → Nat
  | .val v => v
  | _ => 0

/-- The rows still empty. -/
def Rd.rows : Rd → List Nat
  | .empty rs => rs
  | _ => []

/-- One thread's checks and reads. FRAME_INDEX comes first; then faults of the sources in the order A, B, C; then the
rows to wait for, among them the rows of the destination that a producer or refill will still fill (05:R76). -/
def Warp.readyThread (w : Warp) (s : State) (c slot gidx win : Nat) (r : Roles) (o : Ops) (t : Nat) : Ready :=
  match w.thread? t with
  | none => .empty []
  | some th =>
    let na := r.a.reads
    let nb := r.b.reads
    let nc := r.c.reads
    let dst := Ops.dst o r
    let beyond := Opd.beyond th na o.a || Opd.beyond th nb o.b || Opd.beyond th nc o.c ||
      (match dst with | some (d, n) => Dst.beyond th d n | none => false)
    if beyond then .flt ⟨t, 14, 0, 0⟩
    else
      let rd := fun n x => w.readSrc gidx s.time win t th n x
      let ra := rd na o.a
      let rb := rd nb o.b
      let rc := rd nc o.c
      let rdd := match r.d, o.d with
        | .upd n, .dst (.reg g) => w.readReg t th g n false
        | _, _ => .val 0
      match firstFault [ra, rb, rc, rdd] with
      | some (code, addr) => .flt ⟨t, code, 0, addr⟩
      | none =>
        let pend := match dst with
          | some (d, n) => (Dst.rows th d n).filter fun j => s.rowPending c slot w.uid t j
          | none => []
        let rows := ra.rows ++ rb.rows ++ rc.rows ++ rdd.rows ++ pend
        if rows.isEmpty then .go ⟨rdd.get, ra.get, rb.get, rc.get⟩ else .empty rows

/-- An instruction ready to execute: its executing threads, its participants, the values read and the faults found. -/
structure Prep where
  exec : List Nat
  parts : List Nat
  vals : List (Nat × Vals)
  faults : List Flt
deriving DecidableEq, Repr

inductive PrepR
  | wait (w : Wait)
  | go (p : Prep)
deriving DecidableEq, Repr

/-- The window operand of an instruction, with the words its source has. -/
def Ops.windowOf (o : Ops) (r : Roles) : Option (Nat × Nat × Nat) :=
  match o.a, o.b, o.c with
  | .src (.window k off) _, _, _ => some (k, off, r.a.reads)
  | _, .src (.window k off) _, _ => some (k, off, r.b.reads)
  | _, _, .src (.window k off) _ => some (k, off, r.c.reads)
  | _, _, _ => none

/-- Read the window operand (09:R154, 11:R374). -/
def State.readWindow (s : State) (c : Nat) (wp : Warp) (r : Roles) (o : Ops) : Win × State :=
  match Ops.windowOf o r with
  | none => (.none, s)
  | some (k, off, n) =>
    let a := wrap ((wp.kb.getD k 0).toNat + 4 * off) 64
    if off + n > wp.ks.getD k 0 then (.flt 12 0 a, s)
    else
      match s.windowRead c wp.ctx a (4 * n) with
      | (.ok bs, s) => (.val (ofBytes bs), s)
      | (.wait, s) => (.wait a, s)
      | (.deny sub, s) => (.flt 4 sub a, s)
      | (.poison, s) => (.flt 5 0 a, s)

/-- The group index of a warp. -/
def State.gidxOf (s : State) (c : Nat) (wp : Warp) : Nat :=
  match s.group? c wp.gslot with
  | some g => g.gidx
  | none => 0

/-- The participants: executing threads whose guard holds (06:R100). -/
def Warp.participants (w : Warp) (o : Ops) : List Nat :=
  w.executing.filter fun t => match w.thread? t with | some th => Guard.holds o.guard th | none => false

/-- The threads for which an instruction reads its operands: its participants, or the lowest of them (14:R224). -/
def readers (elected : Bool) (parts : List Nat) : List Nat := if elected then parts.take 1 else parts

/-- The copies of the uniform file that must be resident before an instruction: those of its executing threads, the first
four where they are more (05:R85; log entry 101). -/
def Warp.copiesNeeded (w : Warp) : List Nat := ((w.executing.filterMap fun t => (w.thread? t).map (·.copy)).eraseDups).take 4

/-- Are they? -/
def Warp.copiesReady (w : Warp) : Bool := w.copiesNeeded.all fun k => (w.copy k).resident

/-- The participants of an elected instruction but the elected one, where it writes a result to each (21:R314): those whose
destination lies inside their frame; the others take FRAME_INDEX (05:R93). A row that is still to be filled is waited for
(05:R76). -/
def Warp.othersOf (w : Warp) (s : State) (c slot : Nat) (dst : Option (Dst × Nat)) (ts : List Nat) :
    List Nat × List (Nat × Nat) :=
  match dst with
  | none => (ts, [])
  | some (d, n) =>
    let inside := ts.filter fun t => match w.thread? t with | some th => !Dst.beyond th d n | none => false
    (inside, inside.flatMap fun t => match w.thread? t with
      | some th => ((Dst.rows th d n).filter fun j => s.rowPending c slot w.uid t j).map fun j => (t, j)
      | none => [])

/-- Everything before execution: the window, the checks and reads of every reader, and the block-mode test over all of
them before the first executes (05:R76, 09 Table 6). The threads in `skip` do not take part. -/
def State.prep (s : State) (c slot : Nat) (wp : Warp) (r : Roles) (o : Ops) (elected : Bool) (skip : List Nat) :
    PrepR × State :=
  let exec := wp.executing
  let parts := (wp.participants o).filter fun t => !skip.contains t
  let rs := readers elected parts
  let others := if elected then wp.othersOf s c slot (Ops.dst o r) (parts.drop 1) else (parts.drop 1, [])
  let outside : List Flt := if elected then ((parts.drop 1).filter fun t => !others.1.contains t).map fun t => ⟨t, 14, 0, 0⟩ else []
  let parts := if elected then parts.take 1 ++ others.1 else parts
  if !wp.copiesReady then (.wait .spill, s)
  else
    match (if rs.isEmpty then (.none, s) else s.readWindow c wp r o) with
    | (.wait a, s) => if wp.refused.contains a then (.go ⟨exec, parts, [], rs.map fun t => ⟨t, 4, 1, a⟩⟩, s) else (.wait (.page a false), s)
    | (.flt code sub a, s) => (.go ⟨exec, parts, [], rs.map fun t => ⟨t, code, sub, a⟩⟩, s)
    | (win, s) =>
      let v := match win with | .val v => v | _ => 0
      let rd := rs.map fun t => (t, wp.readyThread s c slot (s.gidxOf c wp) v r o t)
      let needs := (rd.flatMap fun x => match x.2 with | .empty rows => rows.map fun j => (x.1, j) | _ => []) ++ others.2
      if !needs.isEmpty then (.wait (.regs needs), s)
      else
        (.go ⟨exec, parts,
          rd.filterMap fun x => (match x.2 with | .go v => some (x.1, v) | _ => none),
          rd.filterMap (fun x => (match x.2 with | .flt f => some f | _ => none)) ++ outside⟩, s)

/-! ### Writing destinations -/

/-- Write a destination of `n` words in a thread: registers, or a predicate (1 if nonzero), or nothing (03:R43). -/
def Warp.writeDst (w : Warp) (t : Nat) (d : Dst) (n v : Nat) : Warp :=
  match d with
  | .reg (.v i) => w.modThread t fun th =>
      (List.range n).foldl (fun th j => th.setV (i + j) (v / 2 ^ (32 * j))) th
  | .reg (.g i) =>
    match w.thread? t with
    | none => w
    | some th => (List.range n).foldl (fun w j => w.setG th.copy (i + j) (v / 2 ^ (32 * j))) w
  | .pred p => w.modThread t fun th => th.setPred p (decide (v ≠ 0))
  | .discard => w

/-- Move the PCs of threads to the next instruction in sequence. -/
def Warp.nextPc (w : Warp) (ts : List Nat) (len : Nat) : Warp :=
  ts.foldl (fun w t => w.modThread t fun th => { th with pc := th.pc + BitVec.ofNat 64 len }) w

/-- The issuing warp's own instruction, or the fault noIssuer. -/
def State.onWarp (s : State) (f : Nat → Nat → Warp → State) : Host.Outcome State Fault Refusal :=
  match s.focus with
  | .warp c slot =>
    match s.warp? c slot with
    | some wp => .next (if wp.executing.isEmpty then s else f c slot wp)
    | none => .fault .noIssuer
  | .device => .fault .noIssuer
  | .scalar _ _ => .fault .noIssuer

/-- The raw S7 value of an operand field on which roles may hang. -/
def rawField : Opd → Nat
  | .num n => n
  | .src (.reg (.v i)) _ => i
  | .src (.reg (.g i)) _ => 96 + i
  | _ => 0

/-- The roles of an instruction from its decoded operands. -/
def rolesOf (op : Nat) (o : Ops) : Option Roles :=
  roles op o.x o.t o.form.hasExt (rawField o.a) (rawField o.b) (wrap o.w2 32)

/-- The site of the instruction at the issue PC. -/
def siteOf (wp : Warp) (op : Nat) (o : Ops) (size dir : Nat) : Site :=
  ⟨wp.issuePc.getD 0, o.form.len, op, o.x, size, dir⟩

/-- Every executing thread takes a decode trap (03:R51); B ends the run here too (03 Table 2). -/
def State.trapAll (s : State) (c slot : Nat) (wp : Warp) (code op x len : Nat) (brk : Bool) : State :=
  let ts := wp.executing
  s.conclude c slot ⟨wp.issuePc.getD 0, len, op, x, 0, 3⟩ ts (ts.map fun t => ⟨t, code, 0, 0⟩) none false ts.length brk

/-- The participants with an open gambit (10:R180). -/
def Warp.inGambit (w : Warp) (o : Ops) : List Nat :=
  (w.participants o).filter fun t => match w.thread? t with | some th => th.gambit.opened | none => false

/-- The shared form: find the roles, prepare, and hand over; a wait breaks the run before the instruction. `g` changes
which operands are read at this point. With `tx`, the instruction is not performed by a participant in an open gambit,
which it dooms with ILLEGAL once its earlier tracked accesses have joined its sets (10:R180; log entry 23). -/
def State.issueWith (s : State) (op : Nat) (o : Ops) (elected tx : Bool) (g : Roles → Roles)
    (k : Nat → Nat → Warp → Roles → Prep → State → State) : Host.Outcome State Fault Refusal :=
  s.onWarp fun c slot wp =>
    match rolesOf op o with
    | none => s.trapAll c slot wp 1 op o.x o.form.len o.brk
    | some r =>
      let skip := if tx then wp.inGambit o else []
      match s.prep c slot wp (g r) o elected skip with
      | (.wait w, s) => s.yieldBefore c slot w (op + o.x * 64)
      | (.go p, s) =>
        let tracked := s.trackedOf c slot wp.uid skip
        if skip.isEmpty then k c slot wp r p s
        else if !tracked.isEmpty then s.yieldBefore c slot (.ordered [] [] tracked) (op + o.x * 64)
        else
          let wp := skip.foldl (fun (w : Warp) t => w.modThread t fun th => { th with gambit := th.gambit.doom 7 }) wp
          k c slot wp r p (s.setWarp c slot wp)

/-- The shared form in which every operand is read. -/
def State.issue (s : State) (op : Nat) (o : Ops) (elected : Bool)
    (k : Nat → Nat → Warp → Roles → Prep → State → State) : Host.Outcome State Fault Refusal :=
  s.issueWith op o elected false id k

/-- The shared form of the instructions that are not performed in an open gambit. -/
def State.issueTx (s : State) (op : Nat) (o : Ops) (elected : Bool)
    (k : Nat → Nat → Warp → Roles → Prep → State → State) : Host.Outcome State Fault Refusal :=
  s.issueWith op o elected true id k

/-- Executing threads without those that faulted. -/
def Prep.moving (p : Prep) (faults : List Flt) : List Nat := p.exec.filter fun t => !faults.any fun f => decide (f.thread = t)

/-- The lane time of an instruction of majors 1 to 37: once per copy where everything is uniform (05:R74). -/
def Warp.aluAc (w : Warp) (r : Roles) (o : Ops) (ts : List Nat) (each : Nat) : Nat :=
  let uni := fun (x : Opd) => match x with
    | .src (.reg (.v _)) _ => false
    | .src (.pred _) _ => false
    | .src .tid _ => false
    | _ => true
  let toG := match Ops.dst o r with | some (.reg (.g _), _) => true | _ => false
  let n := if toG && uni o.a && uni o.b && uni o.c
    then (ts.filterMap fun t => (w.thread? t).map (·.copy)).eraseDups.length else ts.length
  each * n

/-- What a per-thread computation gives: a value with flags, or a fault. -/
inductive AluRes
  | ok (v : Nat) (fl : XFlags)
  | flt (code sub addr : Nat)
deriving DecidableEq, Repr

/-- Write results in ascending thread index and raise their flags. -/
def Warp.writeAll (w : Warp) (dst : Option (Dst × Nat)) (rs : List (Nat × Nat × XFlags)) : Warp :=
  rs.foldl (fun w x =>
    let w := w.raise x.2.2
    match dst with
    | some (d, n) => w.writeDst x.1 d n x.2.1
    | none => w) w

/-- The shared form of a per-thread computation: every participant reads, computes `f`, and writes; its flags are
raised; its result is forwarded (05:R76, 06:R99). `each` is the lane time per thread. -/
def State.alu (s : State) (op : Nat) (o : Ops) (each : Nat) (f : Vals → AluRes) : Host.Outcome State Fault Refusal :=
  s.issue op o false fun c slot wp r p s =>
    let rs := p.vals.map fun x => (x.1, f x.2)
    let faults := p.faults ++ rs.filterMap fun x => match x.2 with
      | .flt code sub addr => some ⟨x.1, code, sub, addr⟩
      | .ok _ _ => none
    let oks := rs.filterMap fun x => match x.2 with
      | .ok v fl => some (x.1, v, fl)
      | .flt _ _ _ => none
    let w' := (wp.writeAll (Ops.dst o r) oks).nextPc (p.moving faults) o.form.len
    (s.setWarp c slot w').conclude c slot (siteOf wp op o 0 3) p.exec faults none false (wp.aluAc r o p.exec each) o.brk

/-- A per-thread computation that raises no flag and takes no fault. -/
def State.pure (s : State) (op : Nat) (o : Ops) (f : Vals → Nat) : Host.Outcome State Fault Refusal :=
  s.alu op o 1 fun v => .ok (f v) 0

/-! ### Results that arrive later (05:R80) -/

/-- Where the words of a destination land. -/
def landsOf (th : Thread) (d : Dst) (n : Nat) : List Land :=
  match d with
  | .reg (.v i) => (rangeFrom (th.fp + i) n).map Land.row
  | .reg (.g i) => (rangeFrom i n).map Land.g
  | .pred p => [Land.pred p]
  | .discard => [Land.nowhere]

/-- Where a thread of the warp wants its value. -/
def Warp.landsAt (w : Warp) (t : Nat) (dst : Option (Dst × Nat)) : List Land :=
  match w.thread? t, dst with
  | some th, some (d, n) => landsOf th d n
  | _, _ => [Land.nowhere]

/-- Threads of an instruction whose warp waits after it. -/
def Warp.waiters (w : Warp) (ts : List Nat) (dst : Option (Dst × Nat)) : List Waiter :=
  ts.map fun t => ⟨t, 0, 0, w.landsAt t dst⟩

/-- Mark the frame registers of a destination empty. -/
def Warp.emptyDst (w : Warp) (t : Nat) (d : Dst) (n : Nat) : Warp :=
  match d with
  | .reg (.v i) => w.modThread t fun th => (List.range n).foldl (fun th j => th.emptyV (i + j)) th
  | .reg (.g _) => w
  | .pred _ => w
  | .discard => w

/-- Is the destination one for which the warp waits after the instruction: a uniform register, and likewise a predicate
(log entry 21)? -/
def Dst.awaited : Dst → Bool
  | .reg (.g _) => true
  | .pred _ => true
  | .reg (.v _) => false
  | .discard => false

/-- Results of known words that land later, one per thread: the destinations are empty, or the warp waits. -/
def State.deliverLater (s : State) (c slot : Nat) (w : Warp) (op : Nat) (dst : Option (Dst × Nat)) (isDiv : Bool)
    (rs : List (Nat × List Word)) : Warp × State :=
  match dst with
  | none => (w, s)
  | some (d, n) =>
    let (b, s) := s.takeId
    let step := fun (acc : Warp × State × List Nat) (x : Nat × List Word) =>
      match w.thread? x.1 with
      | none => acc
      | some th =>
        let (id, s) := acc.2.1.takeId
        let res : Result := ⟨c, slot, w.uid, x.1, landsOf th d n, x.2, true, isDiv, false, b⟩
        (acc.1.emptyDst x.1 d n, { s with results := s.results.set id res }, acc.2.2 ++ [id])
    let (w', s, ids) := rs.foldl step (w, s, [])
    (if Dst.awaited d && !ids.isEmpty then { w' with wait := .results ids, waitOp := op } else w', s)

end Sys2Proof.Machine
end

