-- ==== Sys2Proof/Machine/Arith.lean ====
section
/-! DEFINITION. NOP and the majors that compute within a thread (03:R48; chapter 06): each meaning hands its per-thread
computation to the shared form. -/

namespace Sys2Proof.Machine

/-- A floating-point result as a computation's. -/
def FRes.res (r : FRes) : AluRes := .ok r.v r.fl

/-- An operation on both elements of a pair of 16-bit values (04:R55). -/
def onPair (f : Nat → Nat → FRes) (a b : Nat) : AluRes :=
  let lo := f (bits a 0 16) (bits b 0 16)
  let hi := f (bits a 16 16) (bits b 16 16)
  .ok (lo.v + hi.v * 2 ^ 16) (lo.fl ||| hi.fl)

/-- The same with three operands. -/
def onPair3 (f : Nat → Nat → Nat → FRes) (a b c : Nat) : AluRes :=
  let lo := f (bits a 0 16) (bits b 0 16) (bits c 0 16)
  let hi := f (bits a 16 16) (bits b 16 16) (bits c 16 16)
  .ok (lo.v + hi.v * 2 ^ 16) (lo.fl ||| hi.fl)

/-- A saturating result of `w` bits (06:R102). -/
def satRes (w : Nat) (r : Int) : AluRes :=
  let lo : Int := -(2 ^ (w - 1) : Nat)
  let hi : Int := (2 ^ (w - 1) : Nat) - 1
  let v := sat r lo hi
  .ok (wrap v w) (if v = r then 0 else xSAT)

/-- NOP and hints: the PC advances and nothing else (03:R48). -/
def State.idle (s : State) (brk : Bool) (len : Nat) : Host.Outcome State Fault Refusal :=
  s.onWarp fun c slot wp =>
    let ts := wp.executing
    (s.setWarp c slot (wp.nextPc ts len)).conclude c slot ⟨wp.issuePc.getD 0, len, 0, 0, 0, 3⟩ ts [] none false ts.length brk

def execNop (form : Form) (w0 _w1 _w2 : Word) (_lit : DWord) (s : State) : Host.Outcome State Fault Refusal :=
  s.idle (w0.getLsbD 2) form.len

/-! ### Integer and floating-point arithmetic (06:R102) -/

/-- ADD and ADD64 on `w` bits, by T. -/
def addOn (w : Nat) (f : Fmt) (mode : RMode) (t : Nat) (a b : Nat) : AluRes :=
  match t with
  | 0 => .ok (wrap (a + b) w) 0
  | 1 => satRes w (sext a w + sext b w)
  | 2 => (f.add mode a b).res
  | _ => onPair (Fmt.f16.add mode) a b

/-- SUB and SUB64. -/
def subOn (w : Nat) (f : Fmt) (mode : RMode) (t : Nat) (a b : Nat) : AluRes :=
  match t with
  | 0 => .ok (wrap ((a : Int) - b) w) 0
  | 1 => satRes w (sext a w - sext b w)
  | 2 => (f.sub mode a b).res
  | _ => onPair (Fmt.f16.sub mode) a b

/-- The high half of a product. -/
def mulHigh (w : Nat) (signed : Bool) (a b : Nat) : Nat :=
  if signed then bits (wrap (sext a w * sext b w) (2 * w)) w w else bits (a * b) w w

/-- MUL and MUL64: T3 is f16x2 in 32 bits and n64hi in 64 bits. -/
def mulOn (w : Nat) (f : Fmt) (mode : RMode) (t : Nat) (a b : Nat) : AluRes :=
  match t with
  | 0 => .ok (wrap ((a * b : Nat) : Int) w) 0
  | 1 => .ok (mulHigh w true a b) 0
  | 2 => (f.mul mode a b).res
  | _ => if w = 64 then .ok (mulHigh 64 false a b) 0 else onPair (Fmt.f16.mul mode) a b

/-- FMA and FMA64. -/
def fmaOn (w : Nat) (f : Fmt) (mode : RMode) (t : Nat) (a b c : Nat) : AluRes :=
  match t with
  | 0 => .ok (wrap ((a * b + c : Nat) : Int) w) 0
  | 2 => (f.fma mode a b c).res
  | _ => onPair3 (Fmt.f16.fma mode) a b c

/-- MIN and MAX. -/
def minmaxOn (max : Bool) (t a b : Nat) : AluRes :=
  match t with
  | 0 => .ok (if decide (sext a 32 < sext b 32) != max then a else b) 0
  | 1 => .ok (if decide (a < b) != max then a else b) 0
  | 2 => (Fmt.f32.minmax max a b).res
  | _ => onPair (Fmt.f16.minmax max) a b

/-- Lane time of an f64 variant (06:R102). -/
def f64Time (t : Nat) : Nat := if t = 2 then 4 else 1

/-- The addend of FMA and base of BFI: C in an extended form, else D (06 Table 1). -/
def addend (o : Ops) (v : Vals) : Nat := if o.form.hasExt then v.c else v.d

def execAdd (o : Ops) (s : State) : Host.Outcome State Fault Refusal :=
  s.alu 1 o 1 fun v => addOn 32 .f32 (RMode.ofRM o.rm) o.t v.a v.b
def execSub (o : Ops) (s : State) : Host.Outcome State Fault Refusal :=
  s.alu 2 o 1 fun v => subOn 32 .f32 (RMode.ofRM o.rm) o.t v.a v.b
def execMul (o : Ops) (s : State) : Host.Outcome State Fault Refusal :=
  s.alu 3 o 1 fun v => mulOn 32 .f32 (RMode.ofRM o.rm) o.t v.a v.b
def execMulhn (o : Ops) (s : State) : Host.Outcome State Fault Refusal :=
  s.pure 4 o fun v => mulHigh 32 false v.a v.b
def execFma (o : Ops) (s : State) : Host.Outcome State Fault Refusal :=
  s.alu 5 o 1 fun v => fmaOn 32 .f32 (RMode.ofRM o.rm) o.t v.a v.b (addend o v)
def execMin (o : Ops) (s : State) : Host.Outcome State Fault Refusal :=
  s.alu 6 o 1 fun v => minmaxOn false o.t v.a v.b
def execMax (o : Ops) (s : State) : Host.Outcome State Fault Refusal :=
  s.alu 7 o 1 fun v => minmaxOn true o.t v.a v.b
def execAdd64 (o : Ops) (s : State) : Host.Outcome State Fault Refusal :=
  s.alu 18 o (f64Time o.t) fun v => addOn 64 .f64 (RMode.ofRM o.rm) o.t v.a v.b
def execSub64 (o : Ops) (s : State) : Host.Outcome State Fault Refusal :=
  s.alu 19 o (f64Time o.t) fun v => subOn 64 .f64 (RMode.ofRM o.rm) o.t v.a v.b
def execMul64 (o : Ops) (s : State) : Host.Outcome State Fault Refusal :=
  s.alu 20 o (f64Time o.t) fun v => mulOn 64 .f64 (RMode.ofRM o.rm) o.t v.a v.b
def execFma64 (o : Ops) (s : State) : Host.Outcome State Fault Refusal :=
  s.alu 21 o (f64Time o.t) fun v => fmaOn 64 .f64 (RMode.ofRM o.rm) o.t v.a v.b (addend o v)

/-! ### Bits, shifts and fields (06:R103 to R105) -/

/-- Width by T: b32 or b64. -/
def widthOf (t : Nat) : Nat := if t % 2 = 1 then 64 else 32

/-- SHL. -/
def shlOn (w a n : Nat) : Nat := if n < w then wrap ((a * 2 ^ n : Nat) : Int) w else 0

/-- SHR, logical or arithmetic. -/
def shrOn (w : Nat) (signed : Bool) (a n : Nat) : Nat :=
  if signed then wrap (sext a w / ((2 ^ min n w : Nat) : Int)) w
  else if n < w then a / 2 ^ n else 0

/-- ROT: left by n mod w. -/
def rotOn (w a n : Nat) : Nat :=
  let k := n % w
  wrap ((a * 2 ^ k + a / 2 ^ (w - k) : Nat) : Int) w

/-- BITS (06 Table 4). -/
def bitsOn (w code a : Nat) : Nat :=
  match code with
  | 0 => popcount a w
  | 1 => clz a w
  | 2 => ctz a w
  | 3 => bitrev a w
  | 4 => a % 2 ^ (w - 1)
  | 5 => a ^^^ 2 ^ (w - 1)
  | 6 => 2 ^ w - 1 - a
  | _ => byteswap a (w / 8)

/-- The position and width of BFX and BFI (06:R105). -/
def fieldOf (b : Nat) : Nat × Nat := (bits b 0 5, min (bits b 8 6) (32 - bits b 0 5))

/-- BFX. -/
def bfxOn (signed : Bool) (a b : Nat) : Nat :=
  let (pos, wd) := fieldOf b
  if signed then wrap (sext (bits a pos wd) wd) 32 else bits a pos wd

/-- BFI. -/
def bfiOn (base a b : Nat) : Nat :=
  let (pos, wd) := fieldOf b
  setBits base pos wd a

def execAnd (o : Ops) (s : State) : Host.Outcome State Fault Refusal := s.pure 8 o fun v => v.a &&& v.b
def execOr (o : Ops) (s : State) : Host.Outcome State Fault Refusal := s.pure 9 o fun v => v.a ||| v.b
def execXor (o : Ops) (s : State) : Host.Outcome State Fault Refusal := s.pure 10 o fun v => v.a ^^^ v.b
def execAndn (o : Ops) (s : State) : Host.Outcome State Fault Refusal :=
  s.pure 11 o fun v => v.a &&& (2 ^ widthOf o.t - 1 - v.b)
def execShl (o : Ops) (s : State) : Host.Outcome State Fault Refusal := s.pure 12 o fun v => shlOn (widthOf o.t) v.a v.b
def execShr (o : Ops) (s : State) : Host.Outcome State Fault Refusal :=
  s.pure 13 o fun v => shrOn (widthOf o.t) (decide (2 ≤ o.t)) v.a v.b
def execRot (o : Ops) (s : State) : Host.Outcome State Fault Refusal := s.pure 14 o fun v => rotOn (widthOf o.t) v.a v.b
def execBits (o : Ops) (s : State) : Host.Outcome State Fault Refusal :=
  s.pure 15 o fun v => bitsOn (widthOf o.t) v.b v.a
def execBfx (o : Ops) (s : State) : Host.Outcome State Fault Refusal := s.pure 16 o fun v => bfxOn (decide (o.t = 1)) v.a v.b
def execBfi (o : Ops) (s : State) : Host.Outcome State Fault Refusal := s.pure 17 o fun v => bfiOn (addend o v) v.a v.b

/-! ### Compare, select, predicates and moves (06:R107 to R111) -/

/-- What CMP and CMP64 find, with NV for a signalling operand. -/
def cmpOn (w : Nat) (t a b : Nat) : Cmp4 × XFlags :=
  match t with
  | 0 => (icmp (sext a w) (sext b w), 0)
  | 1 => (icmp a b, 0)
  | _ =>
    let f := if t = 2 then Fmt.f32 else Fmt.f64
    (fcmp (f.decode a) (f.decode b), nvOf [f.decode a, f.decode b])

/-- The shared form of an instruction that writes one predicate per participant. -/
def State.setsPred (s : State) (op : Nat) (o : Ops) (p : Nat) (f : Thread → Vals → Bool × XFlags) :
    Host.Outcome State Fault Refusal :=
  s.issue op o false fun c slot wp r pr s =>
    let w' := pr.vals.foldl (fun w x =>
      match wp.thread? x.1 with
      | none => w
      | some th => let q := f th x.2; (w.raise q.2).modThread x.1 fun th => th.setPred p q.1) wp
    (s.setWarp c slot (w'.nextPc (pr.moving pr.faults) o.form.len)).conclude c slot (siteOf wp op o 0 3) pr.exec pr.faults
      none false (wp.aluAc r o pr.exec 1) o.brk

/-- The number in the D field. -/
def Ops.dNum (o : Ops) : Nat := rawField o.d

def execCmp (o : Ops) (s : State) : Host.Outcome State Fault Refusal :=
  s.setsPred 24 o (bits (Ops.dNum o) 0 3) fun _ v =>
    let q := cmpOn 32 o.t v.a v.b
    (condHolds (bits (Ops.dNum o) 3 4) q.1, q.2)
def execCmp64 (o : Ops) (s : State) : Host.Outcome State Fault Refusal :=
  s.setsPred 25 o (bits (Ops.dNum o) 0 3) fun _ v =>
    let q := cmpOn 64 o.t v.a v.b
    (condHolds (bits (Ops.dNum o) 3 4) q.1, q.2)

/-- The shared form in which the result also depends on the thread. -/
def State.aluTh (s : State) (op : Nat) (o : Ops) (f : Thread → Vals → Nat) : Host.Outcome State Fault Refusal :=
  s.issue op o false fun c slot wp r p s =>
    let rs := p.vals.filterMap fun x => (wp.thread? x.1).map fun th => (x.1, f th x.2, (0 : XFlags))
    let w' := (wp.writeAll (Ops.dst o r) rs).nextPc (p.moving p.faults) o.form.len
    (s.setWarp c slot w').conclude c slot (siteOf wp op o 0 3) p.exec p.faults none false (wp.aluAc r o p.exec 1) o.brk

/-- The condition of SEL (06:R109). -/
def selCond (o : Ops) (th : Thread) (v : Vals) : Bool := if o.form.hasExt then decide (v.c ≠ 0) else th.pred o.t

def execSel (o : Ops) (s : State) : Host.Outcome State Fault Refusal :=
  s.aluTh 26 o fun th v => if selCond o th v then v.a else v.b

/-- A predicate named with a negate bit (06:R110). -/
def plogArg (th : Thread) (n : Nat) : Bool := th.pred (bits n 0 3) != bit n 3

/-- PLOG's function (06:R110). -/
def plogOn (t : Nat) (a b : Bool) : Bool :=
  match t with
  | 0 => a && b
  | 1 => a || b
  | 2 => a != b
  | _ => a && !b

def execPlog (o : Ops) (s : State) : Host.Outcome State Fault Refusal :=
  s.setsPred 37 o (bits (Ops.dNum o) 0 3) fun th v => (plogOn o.t (plogArg th v.a) (plogArg th v.b), 0)

def execMov (o : Ops) (s : State) : Host.Outcome State Fault Refusal := s.pure 27 o fun v => v.b

/-! ### Conversions (06:R112 to R115) -/

/-- The format of an index 0 to 3 of 06 Table 6. -/
def fmtOf (i : Nat) : Fmt :=
  match i with
  | 0 => .f64
  | 1 => .f32
  | 2 => .f16
  | _ => .bf16

/-- Width and signedness of an integer index of 06 Table 6. -/
def intOf (i : Nat) : Nat × Bool :=
  match i with
  | 4 => (32, true)
  | 5 => (32, false)
  | 6 => (64, true)
  | 7 => (64, false)
  | 8 => (16, true)
  | 9 => (16, false)
  | 10 => (8, true)
  | _ => (8, false)

/-- The exact source value. -/
def cvtSource (src x : Nat) : FVal :=
  if src < 4 then (fmtOf src).decode (x % 2 ^ (fmtOf src).width)
  else let (w, sg) := intOf src; FVal.ofInt (if sg then sext x w else (x % 2 ^ w : Nat))

/-- A result narrower than a register, extended to it (04:R57). -/
def extend (w : Nat) (signed : Bool) (v : Nat) : Nat := if w < 32 && signed then wrap (sext v w) 32 else v

/-- ARITH_OVERFLOW (04:R68). -/
def fArithOverflow : Nat := 13

def CvtRes.res (r : CvtRes) : AluRes :=
  match r with
  | .ok v fl => .ok v fl
  | .overflow => .flt fArithOverflow 0 0

/-- Codes 0 to 95 (06:R113). -/
def cvtScalar (mode : RMode) (ov code x : Nat) : AluRes :=
  let dst := code / 8
  let src := code % 8
  if dst < 4 then
    if dst = src then
      let q := (fmtOf dst).roundIntegral mode (x % 2 ^ (fmtOf dst).width)
      .ok q.1 q.2
    else
      match cvtSource src x with
      | .nan sn => .ok (fmtOf dst).nan (if sn then xNV else 0)
      | v => ((fmtOf dst).cvt mode ov v).res
  else
    let (w, sg) := intOf dst
    match cvtInt w sg mode ov (cvtSource src x) with
    | .ok v fl => .ok (extend w sg v) fl
    | .overflow => .flt fArithOverflow 0 0

/-- Two conversions at once (06 Table 7, codes 96 to 99): a fault of one is the instruction's. -/
def cvtPair (k : Nat) (lo hi : AluRes) : AluRes :=
  match lo, hi with
  | .ok a f, .ok b g => .ok (a + b * 2 ^ k) (f ||| g)
  | .flt c sub x, _ => .flt c sub x
  | _, .flt c sub x => .flt c sub x

/-- F of a DSB code: 0 d8, 1 d6, 2 d4. -/
def dsbF (k : Nat) : Nat := match k with | 0 => 6 | 1 => 4 | _ => 2

/-- CVT but for packing. The rounding mode is T, or RM where it is not 0 or 5 (03:R39). -/
def cvtOn (o : Ops) (v : Vals) : AluRes :=
  let mode := if o.rm = 0 || o.rm = 5 then RMode.ofT o.t else RMode.ofRM o.rm
  let code := v.b
  if code ≤ 95 then cvtScalar mode o.ov code v.a
  else if code ≤ 97 then
    let f := if code = 96 then Fmt.f16 else Fmt.bf16
    let one := fun x => (f.cvt mode o.ov (Fmt.f32.decode x)).res
    cvtPair 16 (one (bits v.a 0 32)) (one (bits v.a 32 32))
  else if code ≤ 99 then
    let f := if code = 98 then Fmt.f16 else Fmt.bf16
    let one := fun x => (Fmt.f32.cvt mode o.ov (f.decode x)).res
    cvtPair 32 (one (bits v.a 0 16)) (one (bits v.a 16 16))
  else (Fmt.f32.cvt mode o.ov (dsbValue (dsbF (code - 104)) v.c v.a)).res

/-- Codes 100 to 102: pack the values of the participants into one block (06:R114). Thread t's word goes to its D, the
scale word to C, in every copy a participant holds. A uniform D receives one value (06:R100): the word of the lowest
participant (DESIGN CHOICE, log entry 22). -/
def execCvtPack (o : Ops) (s : State) : Host.Outcome State Fault Refusal :=
  s.issue 28 o false fun c slot wp r p s =>
    let F := dsbF (rawField o.b - 100)
    let xs := (List.range 32).map fun t =>
      match p.vals.find? fun x => decide (x.1 = t) with
      | some x => Fmt.f32.decode x.2.a
      | none => FVal.fin false 0 0
    let blk := dsbPack F xs
    let all := packCodes (F + 2) blk.codes
    let words := F + 2
    let word := fun (t : Nat) => if t < words then bits all (32 * t) 32 else 0
    let uni := match Ops.dst o r with | some (.reg (.g _), _) => true | _ => false
    let first := match p.vals with | x :: _ => x.1 | [] => 0
    let rs := p.vals.map fun x => (x.1, word (if uni then first else x.1), blk.fl)
    let w' := wp.writeAll (Ops.dst o r) rs
    let w' := match o.c with
      | .dst d => p.vals.foldl (fun (w : Warp) (x : Nat × Vals) => w.writeDst x.1 d 1 blk.scale) w'
      | _ => w'
    (s.setWarp c slot (w'.nextPc (p.moving p.faults) o.form.len)).conclude c slot (siteOf wp 28 o 0 3) p.exec p.faults none
      false (wp.aluAc r o p.exec 1) o.brk

def execCvt (o : Ops) (s : State) : Host.Outcome State Fault Refusal :=
  if 100 ≤ rawField o.b && rawField o.b ≤ 102 then execCvtPack o s else s.alu 28 o 1 fun v => cvtOn o v

/-! ### Functions, frame indexing, addresses (06:R116, R121, R122) -/

/-- FUN in the format T names. -/
def funOn (mode : RMode) (t code a : Nat) : AluRes :=
  match t with
  | 0 => (Fmt.f32.fn mode code a).res
  | 1 => onPair (fun x _ => Fmt.f16.fn mode code x) a 0
  | 2 => (Fmt.f64.fn mode code a).res
  | _ => onPair (fun x _ => Fmt.bf16.fn mode code x) a 0

def execFun (o : Ops) (s : State) : Host.Outcome State Fault Refusal :=
  s.alu 29 o 1 fun v => funOn (RMode.ofRM o.rm) o.t v.b v.a

/-- The frame index of GETX and PUTX; none outside the frame (06:R121). -/
def frameIdx (S n b : Nat) (imm : Int) : Option Nat :=
  let i := (b : Int) + imm
  if i < 0 || (S : Int) < i + n then none else some i.toNat

/-- GETX reads its row as source A: trap-if-empty, poison, block mode (06:R121). -/
def execGetx (o : Ops) (s : State) : Host.Outcome State Fault Refusal :=
  s.issue 34 o false fun c slot wp r p s =>
    let n := if o.t = 1 then 2 else 1
    let trap := match o.a with | .src _ e => e | _ => false
    let rd := p.vals.map fun x =>
      (x.1, match wp.thread? x.1 with
        | none => Rd.val 0
        | some th =>
          match frameIdx th.s n x.2.b o.w2 with
          | none => Rd.flt fFrameIndex 0
          | some i => wp.readReg x.1 th (.v i) n trap)
    let needs := rd.flatMap fun x => x.2.rows.map fun j => (x.1, j)
    if !needs.isEmpty then s.yieldBefore c slot (.regs needs) 34
    else
      let faults := p.faults ++ rd.filterMap fun x => match x.2 with
        | .flt code addr => some ⟨x.1, code, 0, addr⟩
        | _ => none
      let oks := rd.filterMap fun x => match x.2 with
        | .val v => some (x.1, v, (0 : XFlags))
        | _ => none
      let w' := (wp.writeAll (Ops.dst o r) oks).nextPc (p.moving faults) o.form.len
      (s.setWarp c slot w').conclude c slot (siteOf wp 34 o 0 3) p.exec faults none false (wp.aluAc r o p.exec 1) o.brk

/-- PUTX writes a row of the frame; a row whose fill is pending is waited for (06:R121). -/
def execPutx (o : Ops) (s : State) : Host.Outcome State Fault Refusal :=
  s.issue 35 o false fun c slot wp r p s =>
    let n := if o.t = 1 then 2 else 1
    let at_ := p.vals.map fun x => (x.1, x.2.a, (wp.thread? x.1).bind fun th => frameIdx th.s n x.2.b o.w2)
    let needs := at_.flatMap fun x => match x.2.2, wp.thread? x.1 with
      | some i, some th => (((rangeFrom (th.fp + i) n).filter fun j => s.rowPending c slot wp.uid x.1 j).map fun j => (x.1, j))
      | _, _ => []
    if !needs.isEmpty then s.yieldBefore c slot (.regs needs) 35
    else
      let faults := p.faults ++ at_.filterMap fun x => match x.2.2 with
        | none => some ⟨x.1, fFrameIndex, 0, 0⟩
        | some _ => none
      let w' := p.vals.foldl (fun (w : Warp) x =>
        match (wp.thread? x.1).bind fun th => frameIdx th.s n x.2.b o.w2 with
        | some i => w.writeDst x.1 (.reg (.v i)) n x.2.a
        | none => w) wp
      (s.setWarp c slot (w'.nextPc (p.moving faults) o.form.len)).conclude c slot (siteOf wp 35 o 0 3) p.exec faults none
        false (wp.aluAc r o p.exec 1) o.brk

/-- LEA (06:R122). -/
def leaOn (t a b : Nat) (imm : Int) : Nat := wrap ((a : Int) + sext b 32 * (2 ^ t : Nat) + imm) 64

def execLea (o : Ops) (s : State) : Host.Outcome State Fault Refusal :=
  s.pure 36 o fun v => leaOn o.t v.a v.b o.w2

/-! ### Division and remainder (06:R106) -/

/-- DIV. -/
def divOn (mode : RMode) (t a b : Nat) : FRes :=
  match t with
  | 0 => ⟨if b = 0 then 0xFFFFFFFF else wrap (tdiv (sext a 32) (sext b 32)) 32, 0, false⟩
  | 1 => ⟨if b = 0 then 0xFFFFFFFF else a / b, 0, false⟩
  | 2 => Fmt.f32.div mode a b
  | _ => Fmt.f64.div mode a b

/-- REM. -/
def remOn (t a b : Nat) : FRes :=
  let w := if 2 ≤ t then 64 else 32
  ⟨if b = 0 then a
   else if t % 2 = 0 then wrap (sext a w - tdiv (sext a w) (sext b w) * sext b w) w
   else a - a / b * b, 0, false⟩

/-- DIV and REM mark their destinations empty; each result lands by itself, in thread order (06:R106). -/
def State.divides (s : State) (op : Nat) (o : Ops) (f : Vals → FRes) : Host.Outcome State Fault Refusal :=
  s.issue op o false fun c slot wp r p s =>
    let rs := p.vals.map fun x => (x.1, f x.2)
    let w' := rs.foldl (fun w x => w.raise x.2.fl) wp
    let n := match Ops.dst o r with | some (_, n) => n | none => 0
    let (w', s) := s.deliverLater c slot w' op (Ops.dst o r) true (rs.map fun x => (x.1, toWords x.2.v n))
    (s.setWarp c slot (w'.nextPc (p.moving p.faults) o.form.len)).conclude c slot (siteOf wp op o 0 3) p.exec p.faults none
      false (wp.aluAc r o p.exec 1) o.brk

def execDiv (o : Ops) (s : State) : Host.Outcome State Fault Refusal :=
  s.divides 22 o fun v => divOn (RMode.ofRM o.rm) o.t v.a v.b
def execRem (o : Ops) (s : State) : Host.Outcome State Fault Refusal :=
  s.divides 23 o fun v => remOn o.t v.a v.b

end Sys2Proof.Machine
end

