-- ==== Sys2Proof/Machine/Crypto.lean ====
section
/-! DEFINITION. The digests and the signature check of bring-up (24:R359, R362): SHA3-384 and the SHAKE functions (FIPS 202),
and the verification of ML-DSA-65 (FIPS 204). The spec names the functions; their definitions are the standards'
(PRESUMED, log entry 15). -/

namespace Sys2Proof.Machine

/-! ### Keccak -/

/-- Rotate a lane left. -/
def rotLane (x n : Nat) : Nat := (x * 2 ^ n + x / 2 ^ (64 - n)) % 2 ^ 64

def laneAt (a : List Nat) (x y : Nat) : Nat := a.getD (x % 5 + 5 * (y % 5)) 0

/-- The 25 lanes, given by column and row. -/
def lanesOf (f : Nat → Nat → Nat) : List Nat := (List.range 25).map fun i => f (i % 5) (i / 5)

def keccakShifts : List Nat :=
  [0, 1, 62, 28, 27, 36, 44, 6, 55, 20, 3, 10, 43, 25, 39, 41, 45, 15, 21, 8, 18, 2, 61, 56, 14]

def keccakRounds : List Nat :=
  [0x0000000000000001, 0x0000000000008082, 0x800000000000808A, 0x8000000080008000, 0x000000000000808B,
   0x0000000080000001, 0x8000000080008081, 0x8000000000008009, 0x000000000000008A, 0x0000000000000088,
   0x0000000080008009, 0x000000008000000A, 0x000000008000808B, 0x800000000000008B, 0x8000000000008089,
   0x8000000000008003, 0x8000000000008002, 0x8000000000000080, 0x000000000000800A, 0x800000008000000A,
   0x8000000080008081, 0x8000000000008080, 0x0000000080000001, 0x8000000080008008]

/-- One round: theta, rho and pi, chi, iota. -/
def keccakRound (a : List Nat) (rc : Nat) : List Nat :=
  let c := (List.range 5).map fun x => (List.range 5).foldl (fun n y => n ^^^ laneAt a x y) 0
  let d := fun (x : Nat) => c.getD ((x + 4) % 5) 0 ^^^ rotLane (c.getD ((x + 1) % 5) 0) 1
  let t := lanesOf fun x y => laneAt a x y ^^^ d x
  let b := lanesOf fun x y => rotLane (laneAt t (x + 3 * y) x) (keccakShifts.getD ((x + 3 * y) % 5 + 5 * x) 0)
  lanesOf fun x y => laneAt b x y ^^^ ((2 ^ 64 - 1 - laneAt b (x + 1) y) &&& laneAt b (x + 2) y) ^^^
    (if x = 0 ∧ y = 0 then rc else 0)

/-- The permutation Keccak-f[1600]. -/
def keccakF (a : List Nat) : List Nat := keccakRounds.foldl keccakRound a

/-- Bytes as lanes, little-endian, of a block. -/
def blockLanes (bs : List Byte) : List Nat := (List.range 25).map fun i => ofBytes ((bs.drop (8 * i)).take 8)

/-- Absorb `n` blocks of `rate` bytes. -/
def absorb (rate : Nat) : Nat → List Byte → List Nat → List Nat
  | 0, _, a => a
  | n + 1, bs, a => absorb rate n (bs.drop rate) (keccakF ((a.zip (blockLanes (bs.take rate))).map fun x => x.1 ^^^ x.2))

/-- Squeeze `n` blocks. -/
def squeeze (rate : Nat) : Nat → List Nat → List Byte
  | 0, _ => []
  | n + 1, a => (a.flatMap fun x => toBytes x 8).take rate ++ squeeze rate n (keccakF a)

/-- The sponge: the message with its suffix and padding, and `len` bytes out. -/
def keccak (rate suffix : Nat) (m : List Byte) (len : Nat) : List Byte :=
  let k := rate - 1 - m.length % rate
  let pad := if k = 0 then [BitVec.ofNat 8 (suffix + 128)]
    else BitVec.ofNat 8 suffix :: List.replicate (k - 1) 0 ++ [BitVec.ofNat 8 128]
  let p := m ++ pad
  (squeeze rate ((len + rate - 1) / rate) (absorb rate (p.length / rate) p (List.replicate 25 0))).take len

/-- SHA3-384: 48 bytes. -/
def sha3 (m : List Byte) : List Byte := keccak 104 0x06 m 48

def shake128 (m : List Byte) (len : Nat) : List Byte := keccak 168 0x1F m len
def shake256 (m : List Byte) (len : Nat) : List Byte := keccak 136 0x1F m len

/-! ### ML-DSA-65 -/

/-- The modulus q, and twice γ2. -/
def dsaQ : Nat := 8380417
def dsaG : Nat := 523776

/-- The point at which coefficient `i` of a transformed polynomial is the value. -/
def dsaPoint (i : Nat) : Nat := 2 * bitrev i 8 + 1

/-- A power of the 512th root of unity. -/
def dsaRoot (n : Nat) : Nat := 1753 ^ (n % 512) % dsaQ

/-- The number-theoretic transform of 256 coefficients, and its inverse. -/
def dsaNtt (p : List Nat) : List Nat :=
  (List.range 256).map fun i =>
    (((List.range 256).zip p).foldl (fun n x => n + x.2 * dsaRoot (dsaPoint i * x.1)) 0) % dsaQ

def dsaUnNtt (p : List Nat) : List Nat :=
  (List.range 256).map fun j =>
    (8347681 * ((List.range 256).zip p).foldl (fun n x => n + x.2 * dsaRoot (512 * 256 - dsaPoint x.1 * j)) 0) % dsaQ

/-- Coefficients of `w` bits each. -/
def dsaUnpack (w n : Nat) (bs : List Byte) : List Nat := (List.range n).map fun i => bits (ofBytes bs) (w * i) w

/-- A transformed polynomial sampled from a seed by rejection. -/
def dsaUniform : Nat → List Byte → List Nat
  | 0, _ => []
  | n + 1, bs =>
    let z := ofBytes (bs.take 3) % 2 ^ 23
    if z < dsaQ then z :: dsaUniform n (bs.drop 3) else dsaUniform n (bs.drop 3)

def dsaMatrix (rho : List Byte) (r c : Nat) : List Nat :=
  (dsaUniform 896 (shake128 (rho ++ [BitVec.ofNat 8 c, BitVec.ofNat 8 r]) 2688)).take 256

/-- The challenge: 49 coefficients of 1 or −1 (q − 1) placed by the stream. -/
def dsaPlace (signs : Nat) : Nat → Nat → List Byte → List Nat → List Nat
  | 0, _, _, c => c
  | _, _, [], c => c
  | n + 1, i, b :: bs, c =>
    if 256 ≤ i then c
    else if b.toNat > i then dsaPlace signs n i bs c
    else
      let c := setAt c i (c.getD b.toNat 0)
      dsaPlace signs n (i + 1) bs (setAt c b.toNat (if signs.testBit (i - 207) then dsaQ - 1 else 1))

def dsaChallenge (seed : List Byte) : List Nat :=
  let s := shake256 seed 1088
  dsaPlace (ofBytes (s.take 8)) 1080 207 (s.drop 8) (List.replicate 256 0)

/-- The hint vector: the positions of each polynomial's ones; none if the encoding is wrong. -/
def dsaHints (y : List Byte) : Option (List (List Nat)) :=
  let at_ := fun (i : Nat) => (y.getD i 0).toNat
  let ends := (List.range 6).map fun i => at_ (55 + i)
  let starts := 0 :: ends.take 5
  let rising := (starts.zip ends).all fun x => decide (x.1 ≤ x.2) && decide (x.2 ≤ 55) &&
    (rangeFrom (x.1 + 1) (x.2 - x.1 - 1)).all fun i => decide (at_ (i - 1) < at_ i)
  let rest := (rangeFrom (at_ 60) (55 - at_ 60)).all fun i => decide (at_ i = 0)
  if rising && rest then some ((starts.zip ends).map fun x => (rangeFrom x.1 (x.2 - x.1)).map at_) else none

/-- The high part of a coefficient, adjusted by its hint. -/
def dsaHigh (r : Nat) (hint : Bool) : Nat :=
  let m := r % dsaG
  let r0 : Int := if m * 2 ≤ dsaG then m else (m : Int) - dsaG
  let top := decide ((r : Int) - r0 = dsaQ - 1)
  let r1 : Int := if top then 0 else ((r : Int) - r0) / dsaG
  let r0 := if top then r0 - 1 else r0
  ((if !hint then r1 else if r0 > 0 then r1 + 1 else r1 - 1) % 16).toNat

/-- Does a signature of 3,309 bytes verify for a message under a key of 1,952 bytes (the context string is empty)? -/
def mlDsa65 (key msg sig : List Byte) : Bool :=
  let rho := key.take 32
  let t1 := (List.range 6).map fun i => dsaUnpack 10 256 ((key.drop (32 + 320 * i)).take 320)
  let seed := sig.take 48
  let z := (List.range 5).map fun i =>
    (dsaUnpack 20 256 ((sig.drop (48 + 640 * i)).take 640)).map fun (v : Nat) => (2 ^ 19 : Int) - v
  match dsaHints (sig.drop 3248) with
  | none => false
  | some hs =>
    let mu := shake256 (shake256 key 64 ++ [0, 0] ++ msg) 64
    let c := dsaNtt (dsaChallenge seed)
    let zh := z.map fun p => dsaNtt (p.map fun (v : Int) => (v % (dsaQ : Int)).toNat)
    let w1 := ((List.range 6).zip (t1.zip hs)).map fun (i, t, h) =>
      let th := dsaNtt (t.map (· * 2 ^ 13))
      let rows := ((List.range 5).zip zh).map fun (j, p) => ((dsaMatrix rho i j).zip p).map fun (x : Nat × Nat) => x.1 * x.2
      let sum := rows.foldl (fun (acc p : List Nat) => (acc.zip p).map fun (x : Nat × Nat) => x.1 + x.2) (List.replicate 256 0)
      let w := dsaUnNtt ((sum.zip (c.zip th)).map fun (a, b, d) => (a + dsaQ - b * d % dsaQ) % dsaQ)
      ((List.range 256).zip w).map fun (k, r) => dsaHigh r (h.contains k)
    let packed := w1.flatMap fun p => toBytes (p.foldr (fun v n => v + 16 * n) 0) 128
    (z.all fun p => p.all fun v => decide (v.natAbs < 2 ^ 19 - 196)) && decide (shake256 (mu ++ packed) 48 = seed)

end Sys2Proof.Machine
end

