-- ==== Sys2Proof/Decode.lean ====
section
/-! DEFINITION. The decoder of lane instructions, total on any words, in the order of 03 Table 13; the decoder of Xlm
instructions (10:R185); and the encoder, from the same tables. -/

namespace Sys2Proof

open Machine

/-- What decoding gives: an instruction, or the trap of check 3 or 4 with the bits a fault record reports. -/
inductive Decoded
  | instr (i : Instr)
  | trap (code op x len : Nat) (brk : Bool)
deriving DecidableEq, Repr

/-- The raw fields of an instruction (03 Tables 2 and 3); those of absent words are 0. -/
structure Raw where
  form : Form
  brk : Bool
  op : Nat
  t : Nat
  d : Nat
  a : Nat
  b : Nat
  c : Nat
  gp : Nat
  ge : Bool
  gn : Bool
  fa : Bool
  fb : Bool
  fc : Bool
  rm : Nat
  ov : Nat
  sc : Nat
  x : Nat
  kw : Bool
  w2 : Nat
  lit : Nat
deriving DecidableEq, Repr

/-- The form by L (03 Table 1). -/
def formOf (l : Nat) : Form := match l with
  | 0 => .base
  | 1 => .ext
  | 2 => .baseLit
  | _ => .extLit

/-- L of a form. -/
def Form.code : Form → Nat
  | .base => 0
  | .ext => 1
  | .baseLit => 2
  | .extLit => 3

/-- Cut the words of an instruction into fields. -/
def Raw.ofWords (ws : List Word) : Raw :=
  let w0 := wordAt ws 0
  let form := formOf (bits w0 0 2)
  let w1 := if form.hasExt then wordAt ws 1 else 0
  let w2 := if form.hasExt then wordAt ws 2 else 0
  let li := if form.hasExt then 3 else 1
  let lit := if form.hasLit then wordAt ws li + 2 ^ 32 * wordAt ws (li + 1) else 0
  { form := form, brk := bit w0 2, op := bits w0 3 6, t := bits w0 9 2, d := bits w0 11 7, a := bits w0 18 7,
    b := bits w0 25 7, c := bits w1 0 8, gp := bits w1 8 3, ge := bit w1 11, gn := bit w1 12, fa := bit w1 13,
    fb := bit w1 14, fc := bit w1 15, rm := bits w1 16 3, ov := bits w1 19 2, sc := bits w1 21 3, x := bits w1 24 7,
    kw := bit w1 31, w2 := w2, lit := lit }

/-- An S7 specifier (03 Table 5). -/
def s7 (n : Nat) : Reg := if n < 96 then .v n else .g (n - 96)

/-- The S7 value of a register. -/
def Reg.code : Reg → Nat
  | .v i => i
  | .g i => 96 + i

/-- An S8 value as a source (03 Table 6): none for the reserved values. -/
def s8src (n : Nat) : Option Src :=
  if n < 160 then some (.reg (s7 n))
  else if n < 168 then some (.pred (n - 160))
  else if n < 200 then some (.inline ((n : Int) - 184))
  else if n = 200 then some .zero
  else if n = 201 then some .tid
  else if n = 202 then some .widx
  else if n = 203 then some .gidx
  else if n = 204 then some .dtlo
  else none

/-- The S8 value of a source. -/
def Src.code : Src → Nat
  | .reg r => r.code
  | .pred p => 160 + p
  | .inline v => (v + 184).toNat
  | .zero => 200
  | .tid => 201
  | .widx => 202
  | .gidx => 203
  | .dtlo => 204
  | .lit _ => 0
  | .window _ _ => 0

/-- An S8 value as a destination (03:R43). -/
def s8dst (n : Nat) : Option Dst :=
  if n < 160 then some (.reg (s7 n))
  else if n < 168 then some (.pred (n - 160))
  else if n = 200 then some .discard
  else none

/-- The S8 value of a destination. -/
def Dst.code : Dst → Nat
  | .reg r => r.code
  | .pred p => 160 + p
  | .discard => 200

/-- Is the register a legal name of an operand of `n` words (03:R44)? -/
def Reg.names (r : Reg) (n : Nat) : Bool :=
  match r with
  | .v i => i % n == 0 && decide (i < 96)
  | .g i => i % n == 0 && decide (i < 64)

/-- Is the source per thread (03:R45)? -/
def Src.perThread : Src → Bool
  | .reg (.v _) => true
  | .pred _ => true
  | .tid => true
  | _ => false

/-- The constructor of a major, sub-opcode and T (03 Tables 7 and 8): none where the tables list none. -/
def build (op x t : Nat) (o : Ops) : Option Instr :=
  match op with
  | 1 => some (.add o) | 2 => some (.sub o) | 3 => some (.mul o) | 4 => some (.mulhn o) | 5 => some (.fma o)
  | 6 => some (.min o) | 7 => some (.max o) | 8 => some (.and o) | 9 => some (.or o) | 10 => some (.xor o)
  | 11 => some (.andn o) | 12 => some (.shl o) | 13 => some (.shr o) | 14 => some (.rot o) | 15 => some (.bits o)
  | 16 => some (.bfx o) | 17 => some (.bfi o) | 18 => some (.add64 o) | 19 => some (.sub64 o)
  | 20 => some (.mul64 o) | 21 => some (.fma64 o) | 22 => some (.div o) | 23 => some (.rem o) | 24 => some (.cmp o)
  | 25 => some (.cmp64 o) | 26 => some (.sel o)
  | 27 => some (if t = 2 then .movFirst o else if t = 3 then .movFrom o else .mov o)
  | 28 => some (.cvt o) | 29 => some (.fun_ o) | 30 => some (.shfl o) | 31 => some (.redux o) | 32 => some (.scan o)
  | 33 => some (.vote o) | 34 => some (.getx o) | 35 => some (.putx o) | 36 => some (.lea o) | 37 => some (.plog o)
  | 38 => some (if t = 1 then .braAlways o else if t = 2 then .braInd o else .bra o)
  | 39 => some (.brau o) | 40 => some (.call o) | 41 => some (.calli o) | 42 => some (.ret o) | 43 => some (.frame o)
  | 44 => some (.meet o) | 45 => some (if t = 1 then .exitCastle o else .exit o) | 46 => some (.trap o)
  | 48 => some (.ld o) | 49 => some (.st o)
  | 50 => some (if bit x 0 then .stp o else .ldp o)
  | 51 => some (if x = 32 then .srowset o else if x = 33 then .srowget o else if bit x 0 then .sts o else .lds o)
  | 52 => some (if bit x 5 then .atom o else .red o)
  | 53 => (match x with
    | 0 => some (.fence o) | 1 => some (.bar o) | 2 => some (.bara o) | 3 => some (.barw o) | 4 => some (.pbar o)
    | 5 => some (.waitv o) | 6 => some (.ntfy1 o) | 7 => some (.ntfya o) | 8 => some (.sleep o) | 9 => some (.waitfe o)
    | _ => none)
  | 54 => (match x with
    | 0 => some (.txb o) | 1 => some (.txc o) | 2 => some (.txa o) | 3 => some (.txq o) | _ => none)
  | 55 => (match x with
    | 0 => some (.lnset o) | 1 => some (.lncoef o) | 2 => some (.lnloop o) | 3 => some (.lnnext o)
    | 4 => some (.lnget o) | _ => none)
  | 56 => (match x with
    | 0 => some (.mma o) | 1 => some (.mxld o) | 2 => some (.mxst o) | 3 => some (.mxz o) | 4 => some (.mxcvt o)
    | 5 => some (.mxwait o) | 6 => some (.mxslot o) | 8 => some (.mxew o) | _ => none)
  | 57 => (match x with
    | 0 => some (.tdset o) | 1 => some (.tdget o) | 2 => some (.tdinv o) | 3 => some (.tdcopy o) | _ => none)
  | 58 => (match x with
    | 0 => some (.cpy o) | 1 => some (.cpyw o) | 2 => some (.cpyq o) | 3 => some (.zfill o) | 4 => some (.l2wb o)
    | 5 => some (.l2inv o) | 6 => some (.wsopen o) | 7 => some (.wslock o) | 8 => some (.wsref o) | 9 => some (.coll o)
    | 10 => some (.pref o) | _ => none)
  | 59 => (match x with
    | 0 => some (.ldv o) | 1 => some (.stv o) | 2 => some (.recon o) | 3 => some (.vcnt o) | _ => none)
  | 60 => (match x with
    | 0 => some (.enq o) | 1 => some (.post o) | 2 => some (.tspawn o) | 3 => some (.phase o) | 4 => some (.parrive o)
    | 5 => some (.pwait o) | 6 => some (.intr o) | 8 => some (.qstat o) | _ => none)
  | 61 => (match x with
    | 0 => some (.ctxnew o) | 1 => some (.ctxgrant o) | 2 => some (.ctxrevoke o) | 3 => some (.ctxmap o)
    | 4 => some (.ctxunmap o) | 5 => some (.ctxrun o) | 6 => some (.ctxstop o) | 7 => some (.ctxq o)
    | 8 => some (.ctxqattach o) | _ => none)
  | 62 => (match x with
    | 0 => some (if o.w2 % 4 = 0 then .tretRetry o else if o.w2 % 4 = 1 then .tretSkip o
                 else if o.w2 % 4 = 2 then .tretFixretry o else .tretKill o)
    | 1 => some (.sysr o) | 2 => some (.sysw o) | 3 => some (.imask o) | 4 => some (.lspost o) | 5 => some (.lswait o)
    | 7 => some (.elect o) | 8 => some (.iret o) | _ => none)
  | _ => none

/-- Does the destination stand in C (03:R43)? -/
def Raw.viaC (f : Raw) (r : Roles) : Bool :=
  f.fc && r.viaC && r.d.dstWords.isSome && (match r.c with | .zero => true | _ => false)

/-- Check 3 on one field of word 0. -/
def Role.check3 (r : Role) (n : Nat) : Bool :=
  match r with
  | .zero => n == 0
  | .hidden => n == 0
  | .num ok3 _ => ok3 n
  | _ => true

/-- Check 3 (03 Table 13): every reserved field, value and code. -/
def Raw.check3 (f : Raw) (r : Roles) : Bool :=
  (f.ge || (f.gp == 0 && !f.gn)) && r.rm f.rm && r.ov f.ov && r.sc3 f.sc &&
  Role.check3 r.a f.a && (if f.form.hasLit then r.lit && f.b == 0 else Role.check3 r.b f.b) &&
  (if f.viaC r then f.d == 0 else Role.check3 r.d f.d && Role.check3 r.c f.c) &&
  (if f.kw then
     r.kw && (match r.w2 with | .unused => bits f.w2 22 10 == 0 | .imm => true | .field _ _ => false)
   else match r.w2 with | .unused => f.w2 == 0 | .imm => true | .field ok3 _ => ok3 f.w2)

/-- The window slot that replaces operand `k`, if any. -/
def Raw.window (f : Raw) (k : Nat) : Option Src :=
  if f.kw && bits f.w2 20 2 == k then some (.window (bits f.w2 17 3) (bits f.w2 0 17)) else none

/-- One source operand: the value in its field, its trap-if-empty bit, a window or a literal. Check 4 on it. -/
def decodeSrc (r : Role) (slot : Bool) (win : Option Src) (lit : Option DWord) (base : Option Src) (field : Nat) (fe : Bool) :
    Option Opd :=
  match r with
  | .zero => if win.isNone && !fe then some .none else none
  | .hidden => if win.isNone then some (.src .zero fe) else none
  | .num _ ok4 => if win.isNone && !fe && ok4 field then some (.num field) else none
  | .src n | .usrc n =>
    let uni := match r with | .usrc _ => true | _ => false
    match win with
    | some (.window k off) =>
      if slot && lit.isNone && field == 0 && !fe && (n == 1 || (n == 2 && off % 2 == 0)) then some (.src (.window k off) false)
      else none
    | some _ => none
    | none =>
      match lit with
      | some v => if fe then none else some (.src (.lit v) false)
      | none =>
        match base with
        | some (.reg g) =>
          if g.names n && (!uni || !(Src.reg g).perThread) then some (.src (.reg g) fe) else none
        | some v => if fe || (uni && v.perThread) then none else some (.src v false)
        | none => none
  | _ => none

/-- One destination operand (03:R43 to R45). -/
def decodeDst (r : Role) (n : Nat) (d : Option Dst) : Option Opd :=
  match d with
  | none => none
  | some d =>
    let ok := match d, r with
      | .reg g, .udst _ => g.names n && (match g with | .g _ => true | .v _ => false)
      | .reg g, .vdst _ => g.names n && (match g with | .v _ => true | .g _ => false)
      | .reg g, _ => g.names n
      | .pred _, .udst _ => false
      | .discard, .udst _ => false
      | _, _ => true
    if ok then some (.dst d) else none

/-- Is the operand a uniform register written? -/
def Opd.writesG : Opd → Bool
  | .dst (.reg (.g _)) => true
  | _ => false

/-- Is the operand a per-thread source? -/
def Opd.perThread : Opd → Bool
  | .src s _ => s.perThread
  | _ => false

/-- A literal of one word must be the extension of its low 32 bits (03:R42). -/
def litFits (signed : Bool) (n v : Nat) : Bool :=
  if n ≥ 2 then true
  else if signed then wrap (sext v 32) 64 == v
  else decide (v < 2 ^ 32)

/-- The value of word 2: an immediate, the imm10 of a window, or the field's bits. -/
def Raw.imm (f : Raw) (r : Roles) : Int :=
  if f.kw then sext (bits f.w2 22 10) 10
  else match r.w2 with
    | .unused => 0
    | .imm => sext f.w2 32
    | .field _ _ => f.w2

/-- The operands of the instruction, or none where check 4 fails. -/
def Raw.operands (f : Raw) (r : Roles) : Option Ops :=
  let via := f.viaC r
  let lit : Option DWord := if f.form.hasLit then some (BitVec.ofNat 64 f.lit) else none
  let d : Option Opd :=
    if via then some .none
    else match r.d.dstWords with
      | some n => decodeDst r.d n (some (.reg (s7 f.d)))
      | none => match r.d with
        | .num _ ok4 => if ok4 f.d then some (.num f.d) else none
        | _ => some .none
  let a := decodeSrc r.a (r.slots 0) (f.window 0) none (some (.reg (s7 f.a))) f.a f.fa
  let b := decodeSrc r.b (r.slots 1) (f.window 1) lit (some (.reg (s7 f.b))) f.b f.fb
  let c : Option Opd :=
    if via then (if (f.window 2).isSome then none else decodeDst r.d (r.d.dstWords.getD 1) (s8dst f.c))
    else match r.c with
      | .udst n => if f.fc || (f.window 2).isSome then none else decodeDst r.c n (s8dst f.c)
      | _ => decodeSrc r.c (r.slots 2) (f.window 2) none (s8src f.c) f.c f.fc
  match d, a, b, c with
  | some d, some a, some b, some c =>
    let wg := d.writesG || c.writesG
    let wd := d.writesG || (via && c.writesG)
    let ok :=
      !(f.kw && bits f.w2 20 2 == 3) && r.sc4 f.sc && !(r.extOnly && !f.form.hasExt) && !(r.noGuard && f.ge) &&
      !(f.ge && wg) && (r.mixed || !(wd && (a.perThread || b.perThread || c.perThread))) &&
      (!f.form.hasLit || litFits (litSigned f.op f.x f.t) ((r.b.srcWords).getD 2) f.lit) &&
      (match r.w2 with | .field _ ok4 => ok4 f.w2 | _ => true)
    if ok then
      some { form := f.form, brk := f.brk, guard := if f.ge then .on f.gp f.gn else .always, t := f.t, x := f.x,
             d := d, a := a, b := b, c := c, rm := f.rm, ov := f.ov, sc := f.sc, w2 := f.imm r }
    else none
  | _, _, _, _ => none

/-- Decode an instruction from its words, in the order of 03 Table 13. Words beyond the list read 0. -/
def decode (ws : List Word) : Decoded :=
  let f := Raw.ofWords ws
  let len := f.form.len
  if f.op = 0 then
    let li := if f.form.hasExt then 3 else 1
    .instr (.nop f.form (ws.getD 0 0) (if f.form.hasExt then ws.getD 1 0 else 0) (if f.form.hasExt then ws.getD 2 0 else 0)
      (if f.form.hasLit then BitVec.ofNat 64 (wordAt ws li + 2 ^ 32 * wordAt ws (li + 1)) else 0))
  else if f.op = 47 || f.op = 63 || (decide (f.op ≥ 48) && !f.form.hasExt) || (decide (f.op < 47) && f.x ≠ 0) then
    .trap 1 f.op f.x len f.brk
  else
    match roles f.op f.x f.t f.form.hasExt f.a f.b f.w2 with
    | none => .trap 1 f.op f.x len f.brk
    | some r =>
      if !f.check3 r then .trap 1 f.op f.x len f.brk
      else
        match f.operands r with
        | none => .trap 2 f.op f.x len f.brk
        | some o =>
          match build f.op f.x f.t o with
          | none => .trap 1 f.op f.x len f.brk
          | some i => .instr i

/-! ### Xlm (10:R185, R186) -/

/-- Decode an Xlm word; none for an encoding not listed, or with an unused register field that is not zero. -/
def decodeXlm (w : Nat) : Option Instr :=
  let rd := bits w 7 5
  let f3 := bits w 12 3
  let rs1 := bits w 15 5
  let rs2 := bits w 20 5
  let f7 := bits w 25 7
  if bits w 0 7 ≠ 0x0B then none
  else match f3, f7 with
  | 0, 0 => if rs2 = 0 then some (.lmTake rd rs1) else none
  | 0, 1 => if rs1 = 0 ∧ rs2 = 0 then some (.lmMeta rd) else none
  | 1, 0 => if rs2 = 0 then some (.lmDone rd rs1) else none
  | 2, 0 => if rd = 0 then some (.lmBase rs1 rs2) else none
  | 3, 0 => if rd = 0 ∧ rs2 = 0 then some (.lmSaddr rs1) else none
  | 4, 0 => if rd = 0 then some (.lmG2s rs1 rs2) else none
  | 4, 1 => if rd = 0 then some (.lmS2g rs1 rs2) else none
  | 5, 0 => if rd = 0 then some (.lmFlagEmpty rs1 rs2) else none
  | 5, 1 => if rd = 0 then some (.lmFlagFull rs1 rs2) else none
  | 6, 0 => if rd = 0 ∧ rs2 = 0 then some (.lmWaitfEmpty rs1) else none
  | 6, 1 => if rd = 0 ∧ rs2 = 0 then some (.lmWaitfFull rs1) else none
  | 7, 0 => if rs1 = 0 ∧ rs2 = 0 then some (.lmTime rd) else none
  | 7, 1 => if rs1 = 0 ∧ rs2 = 0 then some (.lmTimeh rd) else none
  | _, _ => none

/-! ### The table's words -/

/-- `n` 32-bit words of a number, the first in its low bits. -/
def wordsOf (w : Nat) : Nat → List Word
  | 0 => []
  | n + 1 => BitVec.ofNat 32 (w % 2 ^ 32) :: wordsOf (w / 2 ^ 32) n

/-- The instruction the decoders read from an instruction word of the opcode table: Xlm words carry opcode 0x0B in
their low 7 bits; every other word is a lane instruction's word 0. -/
def decodeTableWord (nbits w : Nat) : Option Instr :=
  let v := w % 2 ^ nbits
  if v % 128 = 0x0B then decodeXlm v
  else
    match decode (wordsOf v 5) with
    | .instr i => some i
    | .trap _ _ _ _ _ => none

/-! ### The encoder -/

/-- Major and sub-opcode of a lane instruction with its operands; none for NOP, Xlm and events. -/
def Instr.lane? : Instr → Option (Nat × Ops)
  | .add o => some (1, o) | .sub o => some (2, o) | .mul o => some (3, o) | .mulhn o => some (4, o)
  | .fma o => some (5, o) | .min o => some (6, o) | .max o => some (7, o) | .and o => some (8, o) | .or o => some (9, o)
  | .xor o => some (10, o) | .andn o => some (11, o) | .shl o => some (12, o) | .shr o => some (13, o)
  | .rot o => some (14, o) | .bits o => some (15, o) | .bfx o => some (16, o) | .bfi o => some (17, o)
  | .add64 o => some (18, o) | .sub64 o => some (19, o) | .mul64 o => some (20, o) | .fma64 o => some (21, o)
  | .div o => some (22, o) | .rem o => some (23, o) | .cmp o => some (24, o) | .cmp64 o => some (25, o)
  | .sel o => some (26, o) | .mov o => some (27, o) | .movFirst o => some (27, o) | .movFrom o => some (27, o)
  | .cvt o => some (28, o) | .fun_ o => some (29, o) | .shfl o => some (30, o) | .redux o => some (31, o)
  | .scan o => some (32, o) | .vote o => some (33, o) | .getx o => some (34, o) | .putx o => some (35, o)
  | .lea o => some (36, o) | .plog o => some (37, o)
  | .bra o => some (38, o) | .braAlways o => some (38, o) | .braInd o => some (38, o) | .brau o => some (39, o)
  | .call o => some (40, o) | .calli o => some (41, o) | .ret o => some (42, o) | .frame o => some (43, o)
  | .meet o => some (44, o) | .exit o => some (45, o) | .exitCastle o => some (45, o) | .trap o => some (46, o)
  | .ld o => some (48, o) | .st o => some (49, o) | .ldp o => some (50, o) | .stp o => some (50, o)
  | .lds o => some (51, o) | .sts o => some (51, o) | .srowset o => some (51, o) | .srowget o => some (51, o)
  | .atom o => some (52, o) | .red o => some (52, o)
  | .fence o => some (53, o) | .bar o => some (53, o) | .bara o => some (53, o) | .barw o => some (53, o)
  | .pbar o => some (53, o) | .waitv o => some (53, o) | .ntfy1 o => some (53, o) | .ntfya o => some (53, o)
  | .sleep o => some (53, o) | .waitfe o => some (53, o)
  | .txb o => some (54, o) | .txc o => some (54, o) | .txa o => some (54, o) | .txq o => some (54, o)
  | .lnset o => some (55, o) | .lncoef o => some (55, o) | .lnloop o => some (55, o) | .lnnext o => some (55, o)
  | .lnget o => some (55, o)
  | .mma o => some (56, o) | .mxld o => some (56, o) | .mxst o => some (56, o) | .mxz o => some (56, o)
  | .mxcvt o => some (56, o) | .mxwait o => some (56, o) | .mxslot o => some (56, o) | .mxew o => some (56, o)
  | .tdset o => some (57, o) | .tdget o => some (57, o) | .tdinv o => some (57, o) | .tdcopy o => some (57, o)
  | .cpy o => some (58, o) | .cpyw o => some (58, o) | .cpyq o => some (58, o) | .zfill o => some (58, o)
  | .l2wb o => some (58, o) | .l2inv o => some (58, o) | .wsopen o => some (58, o) | .wslock o => some (58, o)
  | .wsref o => some (58, o) | .coll o => some (58, o) | .pref o => some (58, o)
  | .ldv o => some (59, o) | .stv o => some (59, o) | .recon o => some (59, o) | .vcnt o => some (59, o)
  | .enq o => some (60, o) | .post o => some (60, o) | .tspawn o => some (60, o) | .phase o => some (60, o)
  | .parrive o => some (60, o) | .pwait o => some (60, o) | .intr o => some (60, o) | .qstat o => some (60, o)
  | .ctxnew o => some (61, o) | .ctxgrant o => some (61, o) | .ctxrevoke o => some (61, o) | .ctxmap o => some (61, o)
  | .ctxunmap o => some (61, o) | .ctxrun o => some (61, o) | .ctxstop o => some (61, o) | .ctxq o => some (61, o)
  | .ctxqattach o => some (61, o)
  | .tretRetry o => some (62, o) | .tretSkip o => some (62, o) | .tretFixretry o => some (62, o)
  | .tretKill o => some (62, o) | .sysr o => some (62, o) | .sysw o => some (62, o) | .imask o => some (62, o)
  | .lspost o => some (62, o) | .lswait o => some (62, o) | .elect o => some (62, o) | .iret o => some (62, o)
  | _ => none

/-- The 7-bit field of an operand of word 0. -/
def Opd.field : Opd → Nat
  | .none => 0
  | .src s _ => (match s with | .reg r => r.code | _ => 0)
  | .dst d => d.code
  | .num n => n

/-- The 8-bit field of C. -/
def Opd.field8 : Opd → Nat
  | .none => 0
  | .src s _ => s.code
  | .dst d => d.code
  | .num n => n

/-- The trap-if-empty bit of a source. -/
def Opd.trap : Opd → Bool
  | .src _ e => e
  | _ => false

/-- The window an operand names. -/
def Opd.window? : Opd → Option (Nat × Nat)
  | .src (.window k off) _ => some (k, off)
  | _ => Option.none

/-- The literal an operand names. -/
def Opd.lit? : Opd → Option DWord
  | .src (.lit v) _ => some v
  | _ => Option.none

/-- The window operand of an instruction, with its slot. -/
def Ops.window? (o : Ops) : Option (Nat × Nat × Nat) :=
  match o.a.window? with
  | some (k, off) => some (0, k, off)
  | none => match o.b.window? with
    | some (k, off) => some (1, k, off)
    | none => match o.c.window? with
      | some (k, off) => some (2, k, off)
      | none => none

/-- 1 for true. -/
def b2n (b : Bool) : Nat := if b then 1 else 0

/-- Does C hold the destination? -/
def Ops.dstInC (o : Ops) : Bool := (match o.d, o.c with | .none, .dst _ => true | _, _ => false)

/-- Word 0 (03 Table 2). -/
def Ops.word0 (op : Nat) (o : Ops) : Nat :=
  o.form.code + b2n o.brk * 2 ^ 2 + op * 2 ^ 3 + o.t * 2 ^ 9 + o.d.field * 2 ^ 11 + o.a.field * 2 ^ 18 + o.b.field * 2 ^ 25

/-- Word 1 (03 Table 3). -/
def Ops.word1 (o : Ops) : Nat :=
  let (gp, ge, gn) := match o.guard with | .always => (0, false, false) | .on p n => (p, true, n)
  o.c.field8 + gp * 2 ^ 8 + b2n ge * 2 ^ 11 + b2n gn * 2 ^ 12 + b2n o.a.trap * 2 ^ 13 + b2n o.b.trap * 2 ^ 14 +
    b2n (o.c.trap || o.dstInC) * 2 ^ 15 + o.rm * 2 ^ 16 + o.ov * 2 ^ 19 + o.sc * 2 ^ 21 + o.x * 2 ^ 24 +
    b2n o.window?.isSome * 2 ^ 31

/-- Word 2 (03:R40, Table 4b). -/
def Ops.word2 (o : Ops) : Nat :=
  match o.window? with
  | some (slot, k, off) => off + k * 2 ^ 17 + slot * 2 ^ 20 + wrap o.w2 10 * 2 ^ 22
  | none => wrap o.w2 32

/-- The literal words. -/
def Ops.litWords (o : Ops) : List Word :=
  match o.b.lit? with
  | some v => [BitVec.ofNat 32 (v.toNat % 2 ^ 32), BitVec.ofNat 32 (v.toNat / 2 ^ 32)]
  | none => [0, 0]

/-- The words of a lane instruction with major `op`. -/
def Ops.encode (op : Nat) (o : Ops) : List Word :=
  let w0 := BitVec.ofNat 32 (o.word0 op)
  let ext := [BitVec.ofNat 32 o.word1, BitVec.ofNat 32 o.word2]
  match o.form with
  | .base => [w0]
  | .ext => w0 :: ext
  | .baseLit => w0 :: o.litWords
  | .extLit => w0 :: (ext ++ o.litWords)

/-- The Xlm word of its fields (10 Table 8). -/
def xlmWord (f3 f7 rd rs1 rs2 : Nat) : List Word :=
  [BitVec.ofNat 32 (0x0B + rd * 2 ^ 7 + f3 * 2 ^ 12 + rs1 * 2 ^ 15 + rs2 * 2 ^ 20 + f7 * 2 ^ 25)]

/-- The words of an instruction; events have none. -/
def encode (i : Instr) : List Word :=
  match i with
  | .nop form w0 w1 w2 lit =>
    let l := [BitVec.ofNat 32 (lit.toNat % 2 ^ 32), BitVec.ofNat 32 (lit.toNat / 2 ^ 32)]
    (match form with
     | .base => [w0]
     | .ext => [w0, w1, w2]
     | .baseLit => w0 :: l
     | .extLit => [w0, w1, w2] ++ l)
  | .lmTake rd rs1 => xlmWord 0 0 rd rs1 0
  | .lmMeta rd => xlmWord 0 1 rd 0 0
  | .lmDone rd rs1 => xlmWord 1 0 rd rs1 0
  | .lmBase rs1 rs2 => xlmWord 2 0 0 rs1 rs2
  | .lmSaddr rs1 => xlmWord 3 0 0 rs1 0
  | .lmG2s rs1 rs2 => xlmWord 4 0 0 rs1 rs2
  | .lmS2g rs1 rs2 => xlmWord 4 1 0 rs1 rs2
  | .lmFlagEmpty rs1 rs2 => xlmWord 5 0 0 rs1 rs2
  | .lmFlagFull rs1 rs2 => xlmWord 5 1 0 rs1 rs2
  | .lmWaitfEmpty rs1 => xlmWord 6 0 0 rs1 0
  | .lmWaitfFull rs1 => xlmWord 6 1 0 rs1 0
  | .lmTime rd => xlmWord 7 0 rd 0 0
  | .lmTimeh rd => xlmWord 7 1 rd 0 0
  | _ => match i.lane? with
    | some (op, o) => o.encode op
    | none => []

end Sys2Proof
end

