-- ==== Sys2Proof/Machine/Fetch.lean ====
section
/-! DEFINITION. Fetching the words of a lane instruction (03:R33, R34, R52, R53). -/

namespace Sys2Proof.Machine

/-- What a fetch gives: the words, a page to wait for, or a fault with its subcode and the first byte of the page. -/
inductive Fetched
  | ok (ws : List Word)
  | page (va : Nat)
  | flt (sub page : Nat)
deriving DecidableEq, Repr

/-- FETCH (11 Table 3). -/
def fFetch : Nat := 3

/-- The form of an instruction from its word 0 (03 Table 1). -/
def formOf (w0 : Nat) : Form :=
  match bits w0 0 2 with
  | 0 => .base
  | 1 => .ext
  | 2 => .baseLit
  | _ => .extLit

/-- Fetch `n` words from an address. A page that is not mapped counts as one of 4 KiB (log entry 30). One whose frame is a
hole, or whose stripe set has V = 0, is waited for as well, until the slice kernel reports it (03:R52). -/
def State.fetchWords (core ctx : Nat) : Nat → State → Nat → Fetched × State
  | 0, s, _ => (.ok [], s)
  | n + 1, s, va =>
    match s.lookup core ctx va with
    | none => (.page (alignDown va 4096), s)
    | some e =>
      let s := s.walked core ctx va e
      if !e.x then (.flt 2 e.va, s)
      else
        match s.finalPa (e.trans va) with
        | none => (.page e.va, s)
        | some pa =>
          if regionOf pa = .hole then (.page e.va, s)
          else
            let (bs, bad, s) := s.cachedRead core ctx pa 4 true
            if bad then (.flt 3 e.va, s)
            else
              match State.fetchWords core ctx n s (va + 4) with
              | (.ok ws, s) => (.ok (BitVec.ofNat 32 (ofBytes bs) :: ws), s)
              | r => r

/-- Fetch the instruction at an address: word 0, then as many as its form has. -/
def State.fetch (s : State) (core ctx pc : Nat) : Fetched × State :=
  match State.fetchWords core ctx 1 s pc with
  | (.ok (w :: _), s) =>
    (match State.fetchWords core ctx ((formOf w.toNat).len / 4 - 1) s (pc + 4) with
     | (.ok ws, s) => (.ok (w :: ws), s)
     | r => r)
  | r => r

end Sys2Proof.Machine
end

