-- ==== Sys2Proof/Machine/RvDecode.lean ====
section
/-! DEFINITION. The decoder of the ordinary instructions of the loader and storer cores: RV32I, M and the compressed
forms, as the RISC-V unprivileged specification that 09:R159 names gives them (log entry 14, PRESUMED); custom-0 words go to
`decodeXlm`. -/

namespace Sys2Proof.Machine

/-- Immediates of the 32-bit formats. -/
def rvImmI (w : Nat) : Int := sext (bits w 20 12) 12
def rvImmS (w : Nat) : Int := sext (bits w 7 5 + bits w 25 7 * 2 ^ 5) 12
def rvImmB (w : Nat) : Int :=
  sext (bits w 8 4 * 2 + bits w 25 6 * 2 ^ 5 + bits w 7 1 * 2 ^ 11 + bits w 31 1 * 2 ^ 12) 13
def rvImmU (w : Nat) : Int := sext (bits w 12 20 * 2 ^ 12) 32
def rvImmJ (w : Nat) : Int :=
  sext (bits w 21 10 * 2 + bits w 20 1 * 2 ^ 11 + bits w 12 8 * 2 ^ 12 + bits w 31 1 * 2 ^ 20) 21

/-- OP (0x33) by funct7 and funct3. -/
def rvOp (f7 f3 : Nat) : Option RvOp :=
  match f7, f3 with
  | 0, 0 => some .add | 32, 0 => some .sub | 0, 1 => some .sll | 0, 2 => some .slt | 0, 3 => some .sltu
  | 0, 4 => some .xor | 0, 5 => some .srl | 32, 5 => some .sra | 0, 6 => some .or | 0, 7 => some .and
  | 1, 0 => some .mul | 1, 1 => some .mulh | 1, 2 => some .mulhsu | 1, 3 => some .mulhu
  | 1, 4 => some .div | 1, 5 => some .divu | 1, 6 => some .rem | 1, 7 => some .remu
  | _, _ => none

/-- OP-IMM (0x13) by funct7 and funct3. -/
def rvOpImm (f7 f3 : Nat) : Option RvOp :=
  match f3 with
  | 0 => some .addi | 2 => some .slti | 3 => some .sltiu | 4 => some .xori | 6 => some .ori | 7 => some .andi
  | 1 => if f7 = 0 then some .slli else none
  | _ => if f7 = 0 then some .srli else if f7 = 32 then some .srai else none

def rvLoad (f3 : Nat) : Option RvOp :=
  match f3 with
  | 0 => some .lb | 1 => some .lh | 2 => some .lw | 4 => some .lbu | 5 => some .lhu | _ => none

def rvStore (f3 : Nat) : Option RvOp :=
  match f3 with
  | 0 => some .sb | 1 => some .sh | 2 => some .sw | _ => none

def rvBranch (f3 : Nat) : Option RvOp :=
  match f3 with
  | 0 => some .beq | 1 => some .bne | 4 => some .blt | 5 => some .bge | 6 => some .bltu | 7 => some .bgeu | _ => none

/-- A 32-bit word; none for an illegal one. -/
def rvDecode32 (w : Nat) : Option RvInstr :=
  let rd := bits w 7 5
  let f3 := bits w 12 3
  let rs1 := bits w 15 5
  let rs2 := bits w 20 5
  let f7 := bits w 25 7
  match bits w 0 7 with
  | 0x37 => some ⟨.lui, rd, 0, 0, rvImmU w, 4⟩
  | 0x17 => some ⟨.auipc, rd, 0, 0, rvImmU w, 4⟩
  | 0x6F => some ⟨.jal, rd, 0, 0, rvImmJ w, 4⟩
  | 0x67 => if f3 = 0 then some ⟨.jalr, rd, rs1, 0, rvImmI w, 4⟩ else none
  | 0x63 => (rvBranch f3).map fun op => ⟨op, 0, rs1, rs2, rvImmB w, 4⟩
  | 0x03 => (rvLoad f3).map fun op => ⟨op, rd, rs1, 0, rvImmI w, 4⟩
  | 0x23 => (rvStore f3).map fun op => ⟨op, 0, rs1, rs2, rvImmS w, 4⟩
  | 0x13 => (rvOpImm f7 f3).map fun op => ⟨op, rd, rs1, 0, if f3 = 1 ∨ f3 = 5 then Int.ofNat rs2 else rvImmI w, 4⟩
  | 0x33 => (rvOp f7 f3).map fun op => ⟨op, rd, rs1, rs2, 0, 4⟩
  | 0x0F => if f3 = 0 then some ⟨.fence, 0, 0, 0, 0, 4⟩ else none
  | 0x73 => if w = 0x73 then some ⟨.ecall, 0, 0, 0, 0, 4⟩ else if w = 0x100073 then some ⟨.ebreak, 0, 0, 0, 0, 4⟩ else none
  | _ => none

/-- The jump offset of C.J and C.JAL. -/
def rvcJ (h : Nat) : Int :=
  sext (bits h 3 3 * 2 + bits h 11 1 * 2 ^ 4 + bits h 2 1 * 2 ^ 5 + bits h 7 1 * 2 ^ 6 + bits h 6 1 * 2 ^ 7 +
    bits h 9 2 * 2 ^ 8 + bits h 8 1 * 2 ^ 10 + bits h 12 1 * 2 ^ 11) 12

/-- The branch offset of C.BEQZ and C.BNEZ. -/
def rvcB (h : Nat) : Int :=
  sext (bits h 3 2 * 2 + bits h 10 2 * 2 ^ 3 + bits h 2 1 * 2 ^ 5 + bits h 5 2 * 2 ^ 6 + bits h 12 1 * 2 ^ 8) 9

/-- Quadrant 0. -/
def rvc0 (h : Nat) : Option RvInstr :=
  let rdp := 8 + bits h 2 3
  let rsp := 8 + bits h 7 3
  let off : Int := Int.ofNat (bits h 6 1 * 2 ^ 2 + bits h 10 3 * 2 ^ 3 + bits h 5 1 * 2 ^ 6)
  match bits h 13 3 with
  | 0 =>
    let imm := bits h 6 1 * 2 ^ 2 + bits h 5 1 * 2 ^ 3 + bits h 11 2 * 2 ^ 4 + bits h 7 4 * 2 ^ 6
    if imm = 0 then none else some ⟨.addi, rdp, 2, 0, Int.ofNat imm, 2⟩
  | 2 => some ⟨.lw, rdp, rsp, 0, off, 2⟩
  | 6 => some ⟨.sw, 0, rsp, rdp, off, 2⟩
  | _ => none

/-- Quadrant 1. -/
def rvc1 (h : Nat) : Option RvInstr :=
  let rd := bits h 7 5
  let rdp := 8 + bits h 7 3
  let rsp := 8 + bits h 2 3
  let imm6 := bits h 2 5 + bits h 12 1 * 2 ^ 5
  let imm := sext imm6 6
  match bits h 13 3 with
  | 0 => some ⟨.addi, rd, rd, 0, imm, 2⟩
  | 1 => some ⟨.jal, 1, 0, 0, rvcJ h, 2⟩
  | 2 => some ⟨.addi, rd, 0, 0, imm, 2⟩
  | 3 =>
    if imm6 = 0 then none
    else if rd = 2 then
      some ⟨.addi, 2, 2, 0, sext (bits h 6 1 * 2 ^ 4 + bits h 2 1 * 2 ^ 5 + bits h 5 1 * 2 ^ 6 + bits h 3 2 * 2 ^ 7 + bits h 12 1 * 2 ^ 9) 10, 2⟩
    else some ⟨.lui, rd, 0, 0, imm * 4096, 2⟩
  | 4 =>
    (match bits h 10 2 with
     | 0 => if bits h 12 1 = 1 then none else some ⟨.srli, rdp, rdp, 0, Int.ofNat imm6, 2⟩
     | 1 => if bits h 12 1 = 1 then none else some ⟨.srai, rdp, rdp, 0, Int.ofNat imm6, 2⟩
     | 2 => some ⟨.andi, rdp, rdp, 0, imm, 2⟩
     | _ =>
       if bits h 12 1 = 1 then none
       else some ⟨(match bits h 5 2 with | 0 => .sub | 1 => .xor | 2 => .or | _ => .and), rdp, rdp, rsp, 0, 2⟩)
  | 5 => some ⟨.jal, 0, 0, 0, rvcJ h, 2⟩
  | 6 => some ⟨.beq, 0, rdp, 0, rvcB h, 2⟩
  | _ => some ⟨.bne, 0, rdp, 0, rvcB h, 2⟩

/-- Quadrant 2. -/
def rvc2 (h : Nat) : Option RvInstr :=
  let rd := bits h 7 5
  let rs2 := bits h 2 5
  match bits h 13 3 with
  | 0 => if bits h 12 1 = 1 then none else some ⟨.slli, rd, rd, 0, Int.ofNat rs2, 2⟩
  | 2 => if rd = 0 then none else some ⟨.lw, rd, 2, 0, Int.ofNat (bits h 4 3 * 2 ^ 2 + bits h 12 1 * 2 ^ 5 + bits h 2 2 * 2 ^ 6), 2⟩
  | 4 =>
    if bits h 12 1 = 0 then
      (if rs2 ≠ 0 then some ⟨.add, rd, 0, rs2, 0, 2⟩ else if rd = 0 then none else some ⟨.jalr, 0, rd, 0, 0, 2⟩)
    else if rs2 ≠ 0 then some ⟨.add, rd, rd, rs2, 0, 2⟩
    else if rd = 0 then some ⟨.ebreak, 0, 0, 0, 0, 2⟩
    else some ⟨.jalr, 1, rd, 0, 0, 2⟩
  | 6 => some ⟨.sw, 0, 2, rs2, Int.ofNat (bits h 9 4 * 2 ^ 2 + bits h 7 2 * 2 ^ 6), 2⟩
  | _ => none

/-- What stands at a scalar core's pc: an ordinary instruction, an Xlm instruction, or an illegal encoding. -/
inductive RvFetch
  | rv (i : RvInstr)
  | xlm (i : Instr)
  | illegal
deriving DecidableEq, Repr

def RvFetch.ofRv : Option RvInstr → RvFetch
  | some i => .rv i
  | none => .illegal

/-- Decode the bytes at a scalar core's pc. -/
def rvDecode (bs : List Byte) : RvFetch :=
  let w := ofBytes (bs.take 4)
  match bits w 0 2 with
  | 0 => .ofRv (rvc0 (bits w 0 16))
  | 1 => .ofRv (rvc1 (bits w 0 16))
  | 2 => .ofRv (rvc2 (bits w 0 16))
  | _ =>
    if bits w 0 7 = 0x0B then (match decodeXlm w with | some i => .xlm i | none => .illegal)
    else .ofRv (rvDecode32 w)

end Sys2Proof.Machine
end

