-- ==== Sys2Proof/Machine/Control.lean ====
section
/-! DEFINITION. Branches, calls, frames, meeting points, exit, traps, sleep, waiting on full rows and election
(chapter 07). -/

namespace Sys2Proof.Machine

/-! ### Fault codes of this chapter (11 Table 3) -/

def fFrameTooLarge : Nat := 15
def fMeetTableFull : Nat := 18
def fLinkMismatch : Nat := 22
def fBadTarget : Nat := 23
def fCastleMismatch : Nat := 24
def fUserTrap : Nat := 25

/-! ### Targets and moves (07:R124, R125) -/

/-- The word offset: word 2, or the 14 bits of `hi` and Bs (07:R124). -/
def relOffset (o : Ops) (hi : Opd) : Int :=
  if o.form.hasExt then sext (wrap o.w2 32) 32 else sext (rawField hi * 128 + rawField o.b) 14

/-- PC + 4 × o, modulo 2^64. -/
def relTarget (pc : DWord) (o : Ops) (hi : Opd) : Nat := wrap ((pc.toNat : Int) + 4 * relOffset o hi) 64

/-- Is the target valid: bits 0+2 and 57+7 zero? -/
def goodTarget (x : Nat) : Bool := x % 4 == 0 && decide (x < 2 ^ 57)

/-- Where a thread goes, or the fault it takes. -/
inductive Move
  | to (pc : Nat)
  | next
  | flt (code sub addr : Nat)
deriving DecidableEq, Repr

/-- A move to a target that is checked first. -/
def Move.checked (target : Nat) (take : Bool) : Move :=
  if !goodTarget target then .flt fBadTarget 0 target else if take then .to target else .next

/-- The end of a control instruction: the threads that moved get their PCs, the others advance unless they faulted. -/
def State.endMoves (s : State) (c slot : Nat) (site : Site) (p : Prep) (ms : List (Nat × Move)) (forks : Bool) (brk : Bool) :
    State :=
  let faults := p.faults ++ ms.filterMap fun x => match x.2 with
    | .flt code sub addr => some ⟨x.1, code, sub, addr⟩
    | _ => none
  let gone := (ms.filter fun x => match x.2 with | .to _ => true | _ => false).map (·.1)
  match s.warp? c slot with
  | none => s
  | some wp =>
    let w' := wp.nextPc ((p.moving faults).filter fun t => !gone.contains t) site.len
    let w' := ms.foldl (fun (w : Warp) x => match x.2 with
      | .to pc => w.modThread x.1 fun th => { th with pc := BitVec.ofNat 64 pc }
      | _ => w) w'
    (s.setWarp c slot w').conclude c slot site p.exec faults none forks p.exec.length brk

/-- The shared form of the branches: each participant forms its move. -/
def State.branches (s : State) (op : Nat) (o : Ops) (forks : Bool) (f : Thread → Vals → Move) :
    Host.Outcome State Fault Refusal :=
  s.issue op o false fun c slot wp _ p s =>
    let ms := p.vals.filterMap fun x => (wp.thread? x.1).map fun th => (x.1, f th x.2)
    s.endMoves c slot (siteOf wp op o 0 3) p ms forks o.brk

/-- BRA T0: on a predicate (07:R126). -/
def execBra (o : Ops) (s : State) : Host.Outcome State Fault Refusal :=
  s.branches 38 o true fun th _ =>
    Move.checked (relTarget th.pc o o.a) (th.pred (bits (rawField o.d) 0 3) != bit (rawField o.d) 3)

/-- BRA T1: always. Every thread that branches reaches one target; a guard may leave others behind, and the warp forks
then, as at any BRA whose threads disagree (05:R83; log entry 40). -/
def execBraAlways (o : Ops) (s : State) : Host.Outcome State Fault Refusal :=
  s.branches 38 o true fun th _ => Move.checked (relTarget th.pc o o.a) true

/-- BRA T2: to the pair in A, per thread. -/
def execBraInd (o : Ops) (s : State) : Host.Outcome State Fault Refusal :=
  s.branches 38 o true fun _ v => Move.checked v.a true

/-- The condition of BRAU, by T (07:R127). -/
def brauTakes (t a : Nat) : Bool :=
  match t with
  | 0 => a != 0
  | 1 => a == 0
  | 2 => true
  | _ => bit a 31

/-- BRAU never forks (07:R125, 05:R84). -/
def execBrau (o : Ops) (s : State) : Host.Outcome State Fault Refusal :=
  s.branches 39 o false fun th v => Move.checked (relTarget th.pc o o.d) (brauTakes o.t v.a)

/-! ### Calls, returns and frame size (07:R128 to R131) -/

/-- What a CALL finds in one thread before it acts. -/
inductive CallCheck
  | ok
  | flt (code sub addr : Nat)
  | page (va : Nat)
deriving DecidableEq, Repr

/-- The spill part of the checks for a frame that ends at `hi` (05:R89, R90). -/
def State.spillCheck (s : State) (c : Nat) (wp : Warp) (t : Nat) (th : Thread) (hi : Nat) : CallCheck :=
  match wp.stackLimit th hi with
  | some j => .flt fFrameSpill 1 (wp.privAddr t (wp.spillWord j))
  | none =>
    match s.spillMissing wp c t th hi with
    | some va => (match s.lookup c wp.ctx va with
        | some _ => .flt fFrameSpill 2 va
        | none => .page va)
    | none => .ok

/-- The frame a CALL with overlap `k` makes: its first row and its size. -/
def Thread.callFrame (th : Thread) (k : Nat) : Nat × Nat := (th.fp + th.s - k, max k 1)

/-- The checks of CALL and CALLI in their order (07:R128). -/
def State.callCheck (s : State) (c : Nat) (wp : Warp) (t : Nat) (th : Thread) (k target : Nat) : CallCheck :=
  if !goodTarget target then .flt fBadTarget 0 target
  else if k > th.s then .flt 14 0 0
  else if th.link.length ≥ linkMax then .flt fFrameSpill 3 0
  else let (nfp, ns) := th.callFrame k; s.spillCheck c wp t th (nfp + ns)

/-- What a thread was before its CALL, CALLI or FRAME of `len` bytes. -/
def Thread.undo (th : Thread) (len op : Nat) : Undo := ⟨th.pc, th.fp, th.s, th.depth, th.link, th.linkRes, len, op⟩

/-- The effect of CALL in one thread (07:R128, R129). -/
def State.callThread (s : State) (c slot t k target len op : Nat) : State :=
  match s.warp? c slot with
  | none => s
  | some wp =>
    match wp.thread? t with
    | none => s
    | some th =>
      let (nfp, ns) := th.callFrame k
      let th' := th.push (.call (th.pc + BitVec.ofNat 64 len) th.s k)
      let th' := { th' with fp := nfp, s := ns, depth := th.depth + 1, pc := BitVec.ofNat 64 target }
      (s.setWarp c slot (wp.setThread t th')).growFrame c slot t (nfp + k) (nfp + ns) [] (some (th.undo len op))

/-- The threads for whose spill a page is absent: each waits before the instruction while the others go on (05:R89). -/
def pageWaits (cs : List (Nat × CallCheck)) : List (Nat × Nat) :=
  cs.filterMap fun x => match x.2 with
    | .page va => some (x.1, va)
    | _ => none

/-- Let them wait. -/
def Warp.waitPages (w : Warp) (ws : List (Nat × Nat)) (len op : Nat) : Warp :=
  ws.foldl (fun (w : Warp) x => w.modThread x.1 fun th => { th with twait := .page x.2 len op }) w

/-- The threads of an instruction but those that wait before it. -/
def Prep.without (p : Prep) (ws : List (Nat × Nat)) : Prep :=
  { p with exec := p.exec.filter fun t => !ws.any fun x => decide (x.1 = t) }

/-- Such a wait breaks the run (07:R141). -/
def State.breakFor (s : State) (c slot : Nat) (ws : List (Nat × Nat)) : State := if ws.isEmpty then s else s.endRun c slot

/-- The faults among the checks. -/
def checkFaults (cs : List (Nat × CallCheck)) : List (Nat × Move) :=
  cs.filterMap fun x => match x.2 with
    | .flt code sub addr => some (x.1, .flt code sub addr)
    | _ => none

/-- The threads whose checks passed. -/
def checkOks (cs : List (Nat × CallCheck)) : List Nat :=
  cs.filterMap fun x => match x.2 with
    | .ok => some x.1
    | _ => none

/-- The shared form of CALL and CALLI. -/
def State.calls (s : State) (op : Nat) (o : Ops) (forks : Bool) (target : Thread → Vals → Nat) :
    Host.Outcome State Fault Refusal :=
  s.issue op o false fun c slot wp _ p s =>
    let k := rawField o.d
    let cs := p.vals.filterMap fun x => (wp.thread? x.1).map fun th =>
      (x.1, s.callCheck c wp x.1 th k (target th x.2))
    let ws := pageWaits cs
    let go := p.vals.filter fun x => (checkOks cs).contains x.1
    let s := go.foldl (fun (s : State) x => match wp.thread? x.1 with
      | some th => s.callThread c slot x.1 k (target th x.2) o.form.len op
      | none => s) (s.setWarp c slot (wp.waitPages ws o.form.len op))
    let ms := checkFaults cs ++ go.filterMap fun x => (wp.thread? x.1).map fun th => (x.1, .to (target th x.2))
    (s.endMoves c slot (siteOf wp op o 0 3) (p.without ws) ms forks o.brk).breakFor c slot ws

def execCall (o : Ops) (s : State) : Host.Outcome State Fault Refusal :=
  s.calls 40 o false fun th _ => relTarget th.pc o o.a

def execCalli (o : Ops) (s : State) : Host.Outcome State Fault Refusal :=
  s.calls 41 o true fun _ v => v.a

/-- RET in one thread (07:R130). -/
def Thread.retMove (th : Thread) : Move :=
  match th.link with
  | .call ret _ _ :: _ => .to ret.toNat
  | _ => .flt fLinkMismatch 0 0

/-- The frame RET restores. -/
def Thread.retFrame (th : Thread) : Thread :=
  match th.link with
  | .call _ sz k :: _ => th.popFrame sz k
  | _ => th

def execRet (o : Ops) (s : State) : Host.Outcome State Fault Refusal :=
  s.issue 42 o false fun c slot wp _ p s =>
    let ms := p.vals.filterMap fun x => (wp.thread? x.1).map fun th => (x.1, th.retMove)
    let w' := p.vals.foldl (fun (w : Warp) x => w.modThread x.1 Thread.retFrame) wp
    (s.setWarp c slot w').endMoves c slot (siteOf wp 42 o 0 3) p ms true o.brk

/-- FRAME's checks in one thread (07:R131). -/
def State.frameCheck (s : State) (c : Nat) (wp : Warp) (t : Nat) (th : Thread) (n : Nat) : CallCheck :=
  if n > wp.win then .flt fFrameTooLarge 0 0
  else if n ≤ th.s then .ok
  else s.spillCheck c wp t th (th.fp + n)

/-- FRAME's effect in one thread. -/
def State.frameThread (s : State) (c slot t n len : Nat) : State :=
  match s.warp? c slot with
  | none => s
  | some wp =>
    match wp.thread? t with
    | none => s
    | some th =>
      let s' := s.setWarp c slot (wp.setThread t { th with s := n })
      if n ≤ th.s then s' else s'.growFrame c slot t (th.fp + th.s) (th.fp + n) [] (some (th.undo len 43))

def execFrame (o : Ops) (s : State) : Host.Outcome State Fault Refusal :=
  s.issue 43 o false fun c slot wp _ p s =>
    let n := rawField o.d
    let cs := p.vals.filterMap fun x => (wp.thread? x.1).map fun th => (x.1, s.frameCheck c wp x.1 th n)
    let ws := pageWaits cs
    let s := (checkOks cs).foldl (fun s t => s.frameThread c slot t n o.form.len) (s.setWarp c slot (wp.waitPages ws o.form.len 43))
    (s.endMoves c slot (siteOf wp 43 o 0 3) (p.without ws) (checkFaults cs) false o.brk).breakFor c slot ws

/-! ### Meeting points (07:R132) -/

/-- The threads of a MEET in ascending order: the points it may still name, with the faults so far. -/
def meetChecks (target : Nat) : List (Nat × Thread) → List (DWord × Nat) → List (Nat × Move)
  | [], _ => []
  | (t, th) :: rest, used =>
    let pt := (BitVec.ofNat 64 target, th.depth)
    if !goodTarget target || target = 0 then (t, .flt fBadTarget 0 target) :: meetChecks target rest used
    else if !used.contains pt && decide (used.length ≥ 32) then
      (t, .flt fMeetTableFull 0 target) :: meetChecks target rest used
    else if th.link.length ≥ linkMax then (t, .flt fFrameSpill 3 0) :: meetChecks target rest used
    else (t, .next) :: meetChecks target rest (if used.contains pt then used else pt :: used)

/-- MEET in one thread: the old point goes to the link stack. -/
def Thread.meet (th : Thread) (target : Nat) : Thread :=
  { th.push (.meet th.meetA th.meetD) with meetA := BitVec.ofNat 64 target, meetD := th.depth }

def execMeet (o : Ops) (s : State) : Host.Outcome State Fault Refusal :=
  s.issue 44 o false fun c slot wp _ p s =>
    let target := relTarget (wp.issuePc.getD 0) o o.a
    let ths := p.vals.filterMap fun x => (wp.thread? x.1).map fun th => (x.1, th)
    let ms := meetChecks target ths (wp.meets.map fun e => (e.addr, e.depth))
    let w' := ms.foldl (fun (w : Warp) x => match x.2 with
      | .next => w.modThread x.1 fun th => th.meet target
      | _ => w) wp
    (s.setWarp c slot w').endMoves c slot (siteOf wp 44 o 0 3) p ms false o.brk

/-! ### Exit and traps (07:R133 to R135) -/

/-- Threads of a wave end only after their accesses are globally performed, since the end of a task signals its counter
(18:R282, 20:R305): the accesses waited for. -/
def State.exitWaits (s : State) (c slot : Nat) (wp : Warp) (ts : List Nat) : List Nat :=
  match s.launches.get? wp.launch with
  | none => []
  | some l => if l.wave.isEmpty then [] else ts.flatMap fun t => s.accessesOf c slot wp.uid t

/-- Exit the threads `ts`. -/
def State.exits (s : State) (c slot : Nat) (ts : List Nat) : State := ts.foldl (fun s t => s.exitThread c slot t) s

def execExit (o : Ops) (s : State) : Host.Outcome State Fault Refusal :=
  s.issue 45 o false fun c slot wp _ p s =>
    let ts := p.vals.map (·.1)
    let ws := s.exitWaits c slot wp ts
    if !ws.isEmpty then s.yieldBefore c slot (.ordered [] [] ws) 45
    else (s.exits c slot ts).endMoves c slot (siteOf wp 45 o 0 3) p [] false o.brk

/-- The castling exit records its card address in the phalanx; a thread that names another takes CASTLE_MISMATCH
(07:R134). -/
def castleChecks : List (Nat × Nat) → Nat → List (Nat × Move) × Nat
  | [], old => ([], old)
  | (t, a) :: rest, old =>
    if old = 0 || old = a then let (ms, x) := castleChecks rest a; ((t, .next) :: ms, x)
    else let (ms, x) := castleChecks rest old; ((t, .flt fCastleMismatch 0 a) :: ms, x)

def execExitCastle (o : Ops) (s : State) : Host.Outcome State Fault Refusal :=
  s.issue 45 o false fun c slot wp _ p s =>
    let ts := p.vals.map (·.1)
    let ws := s.exitWaits c slot wp ts
    if !ws.isEmpty then s.yieldBefore c slot (.ordered [] [] ws) 45
    else
      match s.group? c wp.gslot with
      | none => s
      | some g =>
        match s.phalanx? c g.phx with
        | none => s
        | some ph =>
          let (ms, card) := castleChecks (p.vals.map fun x => (x.1, x.2.a)) ph.castle.toNat
          let s := s.setPhalanx c g.phx (some { ph with castle := BitVec.ofNat 64 card })
          let go := ms.filterMap fun x => match x.2 with | .next => some x.1 | _ => none
          (s.exits c slot go).endMoves c slot (siteOf wp 45 o 0 3) p ms false o.brk

def execTrap (o : Ops) (s : State) : Host.Outcome State Fault Refusal :=
  s.branches 46 o false fun _ _ => .flt fUserTrap (rawField o.d) 0

/-! ### Sleep, full rows and election (07:R136 to R138) -/

/-- The duration of a SLEEP: word 2, or the largest A of the copies participants hold. -/
def sleepTime (o : Ops) (vs : List Vals) : Nat :=
  match o.a with
  | .src _ _ => vs.foldl (fun d v => max d v.a) 0
  | _ => wrap o.w2 32

def execSleep (o : Ops) (s : State) : Host.Outcome State Fault Refusal :=
  s.issue 53 o false fun c slot wp _ p s =>
    let until_ := s.time + BitVec.ofNat 64 (sleepTime o (p.vals.map (·.2)))
    let s := if p.vals.isEmpty then s else s.setWarp c slot { wp with wait := .sleep until_, waitOp := 53 + 8 * 64 }
    s.endMoves c slot (siteOf wp 53 o 0 3) p [] false o.brk

/-- The rows A to A + n − 1 of a thread that are empty (07:R137). -/
def Thread.emptyRows (th : Thread) (a n : Nat) : List Nat := (rangeFrom (th.fp + a) n).filter fun j => !(th.cell j).full

def execWaitfe (o : Ops) (s : State) : Host.Outcome State Fault Refusal :=
  s.issue 53 o false fun c slot wp _ p s =>
    let a := rawField o.a
    let n := wrap o.w2 32
    let ths := p.vals.filterMap fun x => (wp.thread? x.1).map fun th => (x.1, th)
    let ms := ths.filterMap fun x => if a + n > x.2.s then some (x.1, Move.flt 14 0 0) else none
    let needs := ths.flatMap fun x => if a + n > x.2.s then [] else (x.2.emptyRows a n).map fun j => (x.1, j)
    if !needs.isEmpty then s.yieldBefore c slot (.regs needs) (53 + 9 * 64)
    else s.endMoves c slot (siteOf wp 53 o 0 3) p ms false o.brk

/-- ELECT's result in a participant: the elected index in a uniform register, else 1 or 0 (07:R138). -/
def electValue (d : Dst) (elected t : Nat) : Nat :=
  match d with
  | .reg (.g _) => elected
  | .reg (.v _) => if t = elected then 1 else 0
  | .pred _ => if t = elected then 1 else 0
  | .discard => 0

def execElect (o : Ops) (s : State) : Host.Outcome State Fault Refusal :=
  s.issue 62 o false fun c slot wp r p s =>
    let e := match p.vals with | x :: _ => x.1 | [] => 0
    let w' := match Ops.dst o r with
      | some (d, n) => p.vals.foldl (fun (w : Warp) x => w.writeDst x.1 d n (electValue d e x.1)) wp
      | none => wp
    (s.setWarp c slot w').endMoves c slot (siteOf wp 62 o 0 3) p [] false o.brk

end Sys2Proof.Machine
end

