-- ==== Sys2Proof/Machine/Perform.lean ====
section
/-! DEFINITION. How the accesses of threads are performed at their homes and in their cores (18:R279 to R288; 16:R242 to
R248; log entry 8): the operations at the home, gambits, the stages of an access, the port of a slice, and the translation
of an access that waits. -/

namespace Sys2Proof.Machine

/-! ### Accesses at the home -/

/-- A store's line is allocated in the L1, and read first unless its instruction writes all of it; not with bypass-L1
(09:R151, R152). -/
def State.allocLine (s : State) (a : Access) (pa : Nat) : State :=
  match regionOf pa with
  | .ram =>
    let hit := (s.core a.core).l1.has (pa / 128)
    if a.hint % 4 = 2 && !hit then s
    else
      let s := s.touchL1 a.core pa a.ctx false (if a.hint % 4 = 3 then 0 else a.hint)
      if hit || a.wline then s else s.touchL2 pa a.ctx false
  | _ => s

/-- A store is locally performed (18:R279). -/
def State.localize (s : State) (id : Nat) (a : Access) : State :=
  let (n, s) := (a.pas.foldl (fun (s : State) pa => s.allocLine a pa) s).takeId
  { s with acc := s.acc.set id { a with loc := some n } }

/-- 10 Table 4: the new value of `w` bits. -/
def atomicOn (op w old b c : Nat) : Nat :=
  let f32 := fun (r : FRes) => r.v
  let pair := fun (f : Fmt) => (f.add .rne (bits old 0 16) (bits b 0 16)).v + (f.add .rne (bits old 16 16) (bits b 16 16)).v * 2 ^ 16
  match op with
  | 0 => wrap ((old + b : Nat) : Int) w
  | 1 => f32 (Fmt.f32.add .rne old b)
  | 2 => if sext b w < sext old w then b else old
  | 3 => if sext old w < sext b w then b else old
  | 4 => if b < old then b else old
  | 5 => if old < b then b else old
  | 6 => old &&& b
  | 7 => old ||| b
  | 8 => old ^^^ b
  | 9 => b
  | 10 => if old = c then b else old
  | 11 => if b ≤ old then 0 else old + 1
  | 12 => if old = 0 || b < old then b else old - 1
  | 13 => pair .f16
  | _ => pair .bf16

/-- The merged value of RECON (17 Table 5). -/
def mergeOn (code v : Nat) (xs : List Sibling) : Nat :=
  let vals := xs.map (·.val.toNat)
  let fold := fun (f : Nat → Nat → Nat) => match vals with | [] => v | x :: rest => rest.foldl f x
  match code with
  | 0 => fold fun a b => if sext a 64 < sext b 64 then b else a
  | 1 => fold fun a b => if sext b 64 < sext a 64 then b else a
  | 2 => fold (· ||| ·)
  | 3 => fold (· &&& ·)
  | 4 => wrap ((vals.sum : Nat) : Int) 64
  | 5 => (match xs with
      | [] => v
      | x :: rest => (rest.foldl (fun (m : Sibling) y =>
          if y.actor < m.actor || (decide (y.actor = m.actor) && decide (y.seq < m.seq)) then y else m) x).val.toNat)
  | 6 => (match xs with
      | [] => v
      | x :: rest => (rest.foldl (fun (m : Sibling) y => if m.seq < y.seq then y else m) x).val.toNat)
  | _ => v

/-- Sleepers at one home (10:R178). -/
def State.sleepersAt (s : State) (pa : Nat) : Nat :=
  (s.sleepers.filter fun x => decide (channelOf x.pa = channelOf pa)).length

/-- Wake sleepers: their outcome is 0. -/
def State.wake (s : State) (xs : List Sleeper) : State :=
  xs.foldl (fun s x =>
    match s.acc.get? x.access with
    | none => s
    | some a => { s.give a.result (toWords 0 1) with
        acc := s.acc.del x.access, sleepers := s.sleepers.filter (fun y => decide (y.access ≠ x.access)) }) s

/-- A slice takes a zero tag for a line, which keeps its pins; of 16 in the set, one that is not pinned makes room, and
with none the zeros go to the channel alone (16:R239, R241). -/
def L2Slice.zeroTag (l : L2Slice) (pa ctx : Nat) : L2Slice :=
  let pins := match l.lines.get? (pa / 128) with | some t => t.pins | none => 0
  let l := l.dropLine (pa / 128)
  let zeros := l.inSet pa true
  let l := match zeros.find? fun e => decide (e.2.pins = 0) with
    | some e => if zeros.length ≥ 16 then { l with lines := l.lines.del e.1 } else l
    | none => l
  match (List.range 16).find? fun w => !(l.inSet pa true).any fun e => decide (e.2.way = w) with
  | some w => { l with lines := l.lines.set (pa / 128) ⟨true, true, l.entryOf ctx, pins, w⟩ }
  | none => l

/-- A zero line at its home (16:R241, 17:R267); elsewhere 128 zero bytes are written. The flag says that they were lost. -/
def State.zeroLine (s : State) (pa ctx : Nat) : State × Bool :=
  match regionOf pa with
  | .ram =>
    let s := s.recallLine (pa / 128)
    let (s, lost) := (s.clearPoison pa).physWrite pa (List.replicate 128 0)
    (s.setL2 (channelOf pa) ((s.l2slice (channelOf pa)).zeroTag pa ctx), lost)
  | _ => s.physWrite pa (List.replicate 128 0)

/-- A dirty copy of a line is recalled (17:R267). -/
def State.recallDirty (s : State) (line : Nat) : State :=
  match s.ownerOf line with
  | some a => (match s.copyOf a line with | some .m => s.dropCopy a line | some .o => s.dropCopy a line | _ => s)
  | none => s

/-- A line is written back, dirty copies being recalled first, and with `inv` leaves its slice and every L1 unless it is
pinned (17:R267). -/
def State.backLine (s : State) (pa : Nat) (inv : Bool) : State :=
  let line := pa / 128
  let s := if inv then s.recallLine line else s.recallDirty line
  let ch := channelOf pa
  let l := s.l2slice ch
  match l.lines.get? line with
  | none => s
  | some t =>
    if inv && decide (t.pins = 0) then s.setL2 ch (l.dropLine line)
    else s.setL2 ch { l with lines := l.lines.set line { t with dirty := false } }

/-- Late faults of an atomic at its home: SIBLING_CONFLICT (10:R174). -/
def fSiblingConflict : Nat := 29
def fSiblingFull : Nat := 65
def fDataPoison : Nat := 5

/-- The first part that reads poison, with the bytes of all. -/
def State.readParts (s : State) (core : Option Nat) : List Nat → Nat → List Byte × Option Nat × State
  | [], _ => ([], none, s)
  | pa :: pas, n =>
    let (bs, bad, s) := s.physRead core pa n
    let (rest, bad', s) := State.readParts s core pas n
    (bs ++ rest, (if bad then some pa else bad'), s)

/-- A load binds its value (18:R279). In L1 it is served there; else it reaches the home. A wide acquire waits for its
core's own stores to these bytes (18:R285). Poison is a late DATA_POISON (16:R240); a gambit is doomed with FAULT and
its destination receives 0 (10:R181). -/
def State.bind (s : State) (id : Nat) (a : Access) (sx : Bool) : State :=
  let lines := linesOf a.ranges
  let inL1 := lines.all fun l => (s.core a.core).l1.has l
  let s := if inL1 then s else s.publishFor (some a.core) lines
  let s := if a.acq && decide (3 ≤ a.scope) then s.bringHome a.core a.ranges none else s
  let s := a.pas.foldl (fun (s : State) pa => s.accessLine a pa false) s
  let (bs, bad, s) := s.readParts (some a.core) a.pas a.size
  match bad with
  | some pa =>
    let va := match (a.pas.zip a.vas).find? (fun x => decide (x.1 = pa)) with | some x => x.2 | none => a.va
    s.lateFault id a fDataPoison 0 va
  | none =>
    let words := if a.parts = 1 then loadWords a.size sx (ofBytes bs) else toWords (ofBytes bs) a.parts
    { (s.give a.result words) with acc := s.acc.del id }

/-- Replace the word's one sibling (17:R274), or write the bytes. -/
def State.storeWord (s : State) (a : Access) (pa n v : Nat) : State × Bool :=
  if a.ver then
    let w := pa / 8 * 8
    let merged := ofBytes ((s.mem.write pa (toBytes v n)).read w 8)
    let r := s.verRec w
    (s.setVer w r (r.replace merged a.actor), false)
  else s.physWrite pa (toBytes v n)

/-- The name of an atomic as the H-die and a peer know it, with its operand and compare value, is sent to where the data
are; the old value is that device's (log entry 12). The flag says that it fails. -/
def State.farAtomic (s : State) (op n pa b c : Nat) : Nat × Bool × State :=
  match regionOf pa with
  | .host =>
    let (v, s) := (s.send (.hostAtomic (bits pa 0 47) n op (toBytes b n) (toBytes c n))).takeFree (8 * n)
    let (e, s) := s.takeFree 1
    (v, e == 1, s)
  | .peer p =>
    if s.peerAlive p then
      let (v, s) := (s.send (.peerAtomic p (bits pa 0 40) n op (toBytes b n) (toBytes c n))).takeFree (8 * n)
      (v, false, s)
    else (0, true, s)
  | _ => (0, true, s)

/-- An operation of family 52, 53, 58 or 59 is performed at its home: one step (16:R242). Every access to data of an expander
that has stopped responding completes as poisoned (23:R345). -/
def State.homeOp (s : State) (id : Nat) (a : Access) : State :=
  let pa := a.pas.headD 0
  let done := fun (s : State) (ws : List Word) => { (s.give a.result ws) with acc := s.acc.del id }
  let s0 := s
  if s.expanderLost pa && (a.kind.loads || a.kind.stores) then s.lateFault id a fDataPoison 0 a.va
  else
  let s := a.pas.foldl (fun (s : State) p => match a.kind with
    | .zfill _ => s
    | .wback _ _ => s
    | _ => (if a.kind.stores then s.recallLine (p / 128) else s.recallDirty (p / 128)).accessL2 a p a.kind.stores) s
  match a.kind with
  | .load _ => s
  | .store =>
    let data := toBytes a.b.toNat a.size
    let (s, full) := State.verBytes a.actor 3 s pa data
    if full then s0.lateFault id a fSiblingFull 0 a.va else done s []
  | .atomic op wide =>
    let n := if wide then 8 else 4
    let r := s.verRec (pa / 8 * 8)
    if a.ver && decide (r.siblings.length > 1) then s.lateFault id a fSiblingConflict 0 a.va
    else if regionOf pa ≠ .ram then
      let (old, bad, s) := s.farAtomic op n pa (a.b.toNat % 2 ^ (8 * n)) (a.c.toNat % 2 ^ (8 * n))
      if bad then s.lateFault id a fDataPoison 0 a.va else done s (toWords old (n / 4))
    else
      let (bs, bad, s) := s.physRead none pa n
      if bad then s.lateFault id a fDataPoison 0 a.va
      else
        let old := ofBytes bs
        let (s, lost) := s.storeWord a pa n (atomicOn op (8 * n) old (a.b.toNat % 2 ^ (8 * n)) (a.c.toNat % 2 ^ (8 * n)))
        if lost then s.lateFault id a fDataPoison 0 a.va else done s (toWords old (n / 4))
  | .waitv timeout =>
    let (bs, bad, s) := s.physRead none pa 4
    if bad then s.lateFault id a fDataPoison 0 a.va
    else if ofBytes bs ≠ a.b.toNat % 2 ^ 32 then done s (toWords 1 1)
    else if timeout = 0 then done s (toWords 2 1)
    else if s.sleepersAt pa ≥ 4096 then done s (toWords 3 1)
    else
      let x : Sleeper := ⟨pa, id, s.time + BitVec.ofNat 64 timeout⟩
      let (n, s) := { s with sleepers := s.sleepers ++ [x] }.takeId
      { s with acc := s.acc.set id { a with loc := some n } }
  | .ntfy all =>
    let xs := s.sleepers.filter fun x => decide (x.pa = pa)
    let xs := if all then xs else xs.take 1
    done (s.wake xs) (toWords xs.length 1)
  | .zfill _ =>
    let (s, lost) := (a.pas.zip a.vas).foldl (fun (acc : State × Option Nat) x =>
      (let (s, lost) := acc.1.zeroLine x.1 a.ctx
       (s, if lost && acc.2.isNone then some x.2 else acc.2))) (s, (none : Option Nat))
    (match lost with
     | some va => s.lateFault id a fDataPoison 0 va
     | none => done s [])
  | .wback _ inv => done (a.pas.foldl (fun s p => s.backLine p inv) s) []
  | .ldv rank =>
    let (bs, bad, s) := s.physRead none pa 8
    if bad then s.lateFault id a fDataPoison 0 a.va
    else if a.ver then
      let r := s.verRec pa
      let xs := r.ranked
      let x := match xs[min rank (xs.length - 1)]? with | some x => x.val.toNat | none => 0
      done s (toWords x 2 ++ toWords r.token 1 ++ toWords xs.length 1)
    else done s (toWords (ofBytes bs) 2 ++ toWords 0 1 ++ toWords 1 1)
  | .stv token =>
    if a.ver then
      (match s.verStore pa token (a.b.toNat % 2 ^ 64) a.actor with
       | none => s.lateFault id a fSiblingFull 0 a.va
       | some s => done (s.logDone a.core a.entry a.thread) [])
    else
      let (s, lost) := s.physWrite pa (toBytes a.b.toNat 8)
      if lost then s.lateFault id a fDataPoison 0 a.va else done (s.logDone a.core a.entry a.thread) []
  | .recon code =>
    if a.ver then
      let (_, bad, s) := s.physRead none pa 8
      if bad then s.lateFault id a fDataPoison 0 a.va
      else
        let r := s.verRec pa
        done (s.setVer pa r (r.replace (mergeOn code a.c.toNat r.siblings) a.actor)) []
    else done s []
  | .vcnt => done s (toWords (if a.ver then (s.verRec pa).siblings.length else 1) 1)
  | .lds => s
  | .sts => s

/-! ### The scratchpad (09:R149, 10:R167, 24:R366) -/

/-- Is some byte of the range in a poisoned piece of 8 bytes? -/
def Core.scratchBad (k : Core) (a n : Nat) : Bool := k.scratchPoison.any fun r => overlap (8 * r) 8 a n

/-- Bytes are written, poisoned or not: a piece written whole is no more poisoned than they are. -/
def Core.putScratch (k : Core) (a : Nat) (bs : List Byte) (bad : Bool) : Core :=
  let rest := k.scratchPoison.filter fun r => !(decide (a ≤ 8 * r) && decide (8 * r + 8 ≤ a + bs.length))
  let new := if bad then (rangeFrom (a / 8) ((a + bs.length - 1) / 8 + 1 - a / 8)).filter fun r => !rest.contains r else []
  { k with scratch := k.scratch.write a bs, scratchPoison := new ++ rest }

/-- LDS reads for a thread from its logged sources: the words. -/
def Core.ldsWords (k : Core) (base n : Nat) (sa : Nat) : List Word := toWords (k.scratch.readNat (128 * base + sa) n) (n / 4)

/-- Where a byte of a core's scratchpad stands among the bytes that accesses name: no physical address. -/
def scratchPa (core a : Nat) : Nat := 2 ^ 60 + core * 2 ^ 18 + a

/-- Is it an access of the scratchpad? -/
def AccKind.inScratch : AccKind → Bool
  | .lds => true
  | .sts => true
  | _ => false

/-- An access of LDS or STS that has no flag mode is performed (18:R287). -/
def State.scratchOp (s : State) (id : Nat) (a : Access) : State :=
  let at_ := a.pas.headD 0 - scratchPa a.core 0
  let k := s.core a.core
  match a.kind with
  | .lds =>
    if k.scratchBad at_ a.size then s.lateFault id a fDataPoison 0 a.va
    else { (s.give a.result (k.ldsWords 0 a.size at_)) with acc := s.acc.del id }
  | _ => { s.setCore a.core (k.putScratch at_ (toBytes a.b.toNat a.size) false) with acc := s.acc.del id }

/-- The accesses of threads to rows of their core's scratchpad that are not performed. -/
def State.scratchPending (s : State) (c slot uid : Nat) (ts rows : List Nat) : List Nat :=
  (s.acc.filter fun e => e.2.kind.inScratch && decide (e.2.core = c) && decide (e.2.slot = slot) && decide (e.2.uid = uid) &&
    ts.contains e.2.thread && rows.contains ((e.2.pas.headD 0 - scratchPa c 0) / 128)).map (·.1)

/-! ### Gambits (10:R180, R181) -/

/-- The aligned words of ranges. -/
def wordsIn (rs : List (Nat × Nat)) : List Nat :=
  (rs.flatMap fun r => rangeFrom (r.1 / 8) ((r.1 + r.2 - 1) / 8 + 1 - r.1 / 8)).eraseDups

/-- The thread's own buffered bytes over what it read. -/
def Gambit.overlay (g : Gambit) (pa : Nat) (bs : List Byte) : List Byte :=
  ((List.range bs.length).zip bs).map fun (i, b) =>
    match g.writes.get? ((pa + i) / 8) with
    | some (mask, v) => if mask.getLsbD ((pa + i) % 8) then BitVec.ofNat 8 (v.toNat / 256 ^ ((pa + i) % 8)) else b
    | Option.none => b

/-- Add a read word with its value; another value of the same word, or a 33rd word, dooms. -/
def Gambit.addRead (g : Gambit) (w : Nat) (v : DWord) : Gambit :=
  match g.reads.get? w with
  | some old => if old = v then g else g.doom 3
  | Option.none => if g.reads.length ≥ 32 then g.doom 5 else { g with reads := g.reads.set w v }

/-- Write one byte into the write set; a 17th word dooms. -/
def Gambit.addByte (g : Gambit) (a : Nat) (b : Byte) : Gambit :=
  let w := a / 8
  let i := a % 8
  match g.writes.get? w with
  | some (mask, v) =>
    { g with writes := g.writes.set w (BitVec.ofNat 8 (setBits mask.toNat i 1 1), BitVec.ofNat 64 (setBits v.toNat (8 * i) 8 b.toNat)) }
  | Option.none =>
    if g.writes.length ≥ 16 then g.doom 6
    else { g with writes := g.writes.set w (BitVec.ofNat 8 (2 ^ i), BitVec.ofNat 64 (b.toNat * 2 ^ (8 * i))) }

/-- The gambit's sets hold words reached at these addresses. -/
def Gambit.reached (g : Gambit) (vas : List Nat) : Gambit :=
  if g.code = 0 then { g with vas := (g.vas ++ vas).eraseDups } else g

/-- Change the gambit of an access's thread. -/
def State.modGambit (s : State) (a : Access) (f : Gambit → Gambit) : State :=
  match s.warp? a.core a.slot with
  | none => s
  | some wp =>
    if wp.uid = a.uid then s.setWarp a.core a.slot (wp.modThread a.thread fun th => { th with gambit := f th.gambit }) else s

/-- The gambit of an access's thread. -/
def State.gambitOf (s : State) (a : Access) : Gambit :=
  match (s.warp? a.core a.slot).bind (·.thread? a.thread) with
  | some th => th.gambit
  | none => Gambit.none

/-- A tracked access that would raise a fault other than of translation dooms its gambit; its destination receives 0
(10:R181). -/
def State.doomAccess (s : State) (id : Nat) (a : Access) : State :=
  { ((s.modGambit a fun g => g.doom 8).give a.result (List.replicate a.lands.length 0)) with acc := s.acc.del id }

/-- A tracked access (10:R180): a load joins the read set, unless the gambit is doomed, and returns the thread's own
bytes; a store goes to the write set, or is discarded by a doomed gambit. -/
def State.trackedAccess (s : State) (id : Nat) (a : Access) : State :=
  match a.kind with
  | .load sx =>
    let s := s.publishFor (some a.core) (linesOf a.ranges)
    let s := if a.acq && decide (3 ≤ a.scope) then s.bringHome a.core a.ranges none else s
    let s := a.pas.foldl (fun (s : State) pa => s.accessLine a pa false) s
    let (bs, bad, s) := s.readParts (some a.core) a.pas a.size
    if bad.isSome then s.doomAccess id a
    else
      let pa := a.pas.headD 0
      let g := s.gambitOf a
      let ws := (wordsIn a.ranges).map fun w => (w, BitVec.ofNat 64 (ofBytes (s.coreRead a.core (8 * w) 8)))
      let s := s.modGambit a fun g => if g.code = 0 then ws.foldl (fun g x => g.addRead x.1 x.2) (g.reached a.vas) else g
      let own := g.overlay pa bs
      { (s.give a.result (loadWords a.size sx (ofBytes own))) with acc := s.acc.del id }
  | _ =>
    let cells := a.cells
    let s := s.modGambit a fun g => cells.foldl (fun g x => if g.code = 0 then g.addByte x.1 x.2 else g) (g.reached a.vas)
    { s with acc := s.acc.del id }

/-! ### One stage of an access -/

/-- What an access brings to its homes from its own core first: earlier stores to its bytes, and for a synchronizing
access the stores of its release and of older ones. -/
def State.beforeHome (s : State) (id : Nat) (a : Access) : List Nat :=
  s.neededOf a.core a.ranges ((s.core a.core).tagOf id)

/-- The local stores before `a` in the order of local performance that must be globally performed with it. -/
def State.beforeStore (s : State) (id : Nat) (a : Access) : List Nat :=
  needed (s.core a.core) ((s.localDesc a.core).filter fun e => decide (e.2.loc.getD 0 < a.loc.getD 0)) a.ranges
    ((s.core a.core).tagOf id)

/-- The words that binding a load writes at their homes: forced publishes, and for a wide acquire the core's own stores to
the bytes (18:R284, R285). -/
def State.boundRanges (s : State) (a : Access) : List (Nat × Nat) :=
  s.publishRanges (some a.core) (linesOf a.ranges) ++
  (if a.acq && decide (3 ≤ a.scope) then s.rangesOf (s.neededOf a.core a.ranges none) else [])

/-- Is it an access to the host window by a context that an unlocking TDI stops: what the host would answer after the unlock
is dropped (23:R344)? -/
def State.hostShut (s : State) (a : Access) : Bool :=
  (a.pas.any fun pa => decide (regionOf pa = .host)) && s.unlocking a.ctx

/-- Does a load, a store or an atomic reach private words that are not its thread's own: words that only their thread sees
(05:R94)? -/
def State.foreign (s : State) (a : Access) : Bool :=
  (match a.kind with | .load _ => true | .store => true | .atomic _ _ => true | _ => false) &&
  s.warps.any fun w => decide (w.2.ctx = a.ctx) && a.vas.any fun va =>
    let pb := w.2.pbase.toNat
    overlap va a.size pb (128 * w.2.p) &&
      !(decide (w.1 = 256 * a.core + a.slot) && decide (pb ≤ va) && decide ((va - pb) / 4 % 32 = a.thread) &&
        decide ((va - pb) % 4 + a.size ≤ 4))

/-- Such an access neither reads nor changes them: what it returns is a free value (log entry 7). -/
def State.foreignOp (s : State) (id : Nat) (a : Access) : State :=
  let (v, s) := s.takeFree 128
  { (s.give a.result (toWords v 4)) with acc := s.acc.del id }

/-- The next stage of access `id`: nothing while it may not be performed, or while it or a store it brings along meets a
word that a commit holds. -/
def State.perform (s : State) (id : Nat) : State :=
  match s.acc.get? id with
  | none => s
  | some a =>
    if !s.gate id a || s.sleepers.any (fun x => decide (x.access = id)) then s
    else if a.kind.inScratch then (s.scratchOp id a).pruneReleases a.core
    else if s.hostShut a then { (s.deadResult a.result) with acc := s.acc.del id }
    else if s.foreign a then s.foreignOp id a
    else if a.gambit then
      if s.reserved (a.ranges ++ s.boundRanges a) then s else (s.trackedAccess id a).pruneReleases a.core
    else if a.atHome then
      let ids := s.beforeHome id a
      let written := if a.kind.stores then a.ranges else []
      if s.reserved (a.ranges ++ s.settleRanges (some a.core) written ++ s.rangesOf ids ++
          s.publishRanges (some a.core) (linesOf a.ranges)) then s
      else
        let s := ((s.globalAll a.core ids).publishFor (some a.core) (linesOf a.ranges)).settleSeen (some a.core) written
        (s.homeOp id a).pruneReleases a.core
    else
      match a.kind with
      | .load sx =>
        if s.reserved (a.ranges ++ s.boundRanges a) then s
        else (s.bind id a sx).pruneReleases a.core
      | _ =>
        match a.loc with
        | none => s.localize id a
        | some _ =>
          let ids := s.beforeStore id a
          if s.reserved (s.rangesOf (ids ++ [id])) then s
          else s.globalAll a.core (ids ++ [id])

/-! ### The port of a slice (16:R256) -/

/-- The slice at whose port the access waits for its next stage: none for a stage that no port serves. -/
def State.portOf (s : State) (a : Access) : Option Nat :=
  match a.pas with
  | [] => none
  | pa :: _ =>
    if a.gambit || regionOf pa ≠ .ram then none
    else if a.atHome then some (channelOf pa)
    else
      if (linesOf a.ranges).all fun l => (s.core a.core).l1.has l then none
      else
        match a.kind with
        | .load _ => some (channelOf pa)
        | _ => if a.loc.isSome || !(decide (a.hint % 4 = 2) || a.wline) then some (channelOf pa) else none

/-- What a request of the access costs: a fill of a line, or what its instruction moves at the home. -/
def Access.cost (a : Access) : Nat :=
  if a.atHome || a.hint % 4 = 2 then (a.charge.map fun n => if n = 0 then 0 else portCost n).sum else 2

/-- The accesses that wait at a port, the oldest first. -/
def State.waitingAt (s : State) (slice : Nat) : List (Nat × Access) :=
  s.acc.filter fun e => s.gate e.1 e.2 && !s.sleepers.any (fun x => decide (x.access = e.1)) && s.portOf e.2 == some slice &&
    !s.reserved e.2.ranges

/-- Does a request that its context's tokens cover wait at the port? -/
def State.coveredWaits (s : State) (slice : Nat) : Bool :=
  let l := (s.l2slice slice).tick s.acNow
  (s.waitingAt slice).any fun e => l.covers e.2.ctx e.2.cost

/-- Would the port grant `cost` tokens to a request of the context now: it has them, or no request that is covered waits
and a grant may be borrowed (16:R256)? -/
def State.portGrants (s : State) (slice ctx cost : Nat) : Bool :=
  let l := (s.l2slice slice).tick s.acNow
  l.covers ctx cost || (l.mayBorrow && !s.coveredWaits slice)

/-- Would the port of its home grant a line to a request of the context? -/
def State.portOpen (s : State) (pa ctx : Nat) : Bool :=
  match regionOf pa with
  | .ram => s.portGrants (channelOf pa) ctx 2
  | _ => true

/-- The request that the port grants: the oldest whose context has the tokens, else the oldest as a borrowed grant. -/
def State.portPick (s : State) (slice : Nat) : Option Nat :=
  let l := (s.l2slice slice).tick s.acNow
  let ws := s.waitingAt slice
  match ws.find? fun e => l.covers e.2.ctx e.2.cost with
  | some e => some e.1
  | none => if l.mayBorrow then ws.head?.map (·.1) else none

/-! ### Translation of a waiting access (11:R194, 16:R258) -/

/-- TRANSLATION. -/
def fTranslation : Nat := 4

/-- What translating the parts gives: physical addresses with the VER attribute and stripe, a fault at a part, a page to
wait for, or a blocked write. -/
inductive Xlat
  | ok (pas : List Nat) (ver : Bool) (stripe : Nat)
  | flt (code sub va : Nat)
  | miss (va : Nat)
  | blocked
deriving DecidableEq, Repr

/-- Translate one address through `look`. A hole of the physical map, or a stripe set with V = 0, is subcode 1
(16:R237, 23:R356). -/
def State.xlatOne (s : State) (kind : AccKind) (look : Nat → Option TlbEntry) (va ctx : Nat) : Xlat :=
  match look va with
  | none => .miss va
  | some e =>
    let (r, w) := kind.needs
    if r && !e.r then .flt fTranslation 2 va
    else if w && !e.w then .flt fTranslation 3 va
    else if w && s.blocked ctx va then .blocked
    else
      match kind, e.ver with
      | .zfill _, true => .flt 66 0 va
      | _, _ =>
        match s.finalPa (e.trans va) with
        | none => .flt fTranslation 1 va
        | some pa => if regionOf pa = .hole then .flt fTranslation 1 va else .ok [pa] e.ver e.stripe

/-- Translate all parts; the first that is not translated decides. -/
def State.xlatAll (s : State) (kind : AccKind) (look : Nat → Option TlbEntry) (ctx : Nat) : List Nat → Xlat
  | [] => .ok [] false 0
  | va :: vas =>
    match s.xlatOne kind look va ctx with
    | .ok pas ver st =>
      (match State.xlatAll s kind look ctx vas with
       | .ok rest ver' st' => .ok (pas ++ rest) (ver || ver') (max st st')
       | x => x)
    | x => x

/-- Does such an access, of an instruction with that X, take ADDRESS_RANGE in the host window (23:R341)? An atomic with X
bit 5 clear is a RED. -/
def AccKind.hostBarred (kind : AccKind) (x : Nat) (tracked : Bool) : Bool :=
  tracked ||
  (match kind with
   | .atomic f _ => !(bit x 5) || !(f == 0 || f == 9 || f == 10)
   | .ldv _ => true
   | .stv _ => true
   | .recon _ => true
   | .vcnt => true
   | .load _ => false
   | .store => false
   | .waitv _ => false
   | .ntfy _ => false
   | .zfill _ => false
   | .wback _ _ => false
   | .lds => false
   | .sts => false)

/-- Does a translation reach the host window? -/
def Xlat.inHost : Xlat → Bool
  | .ok pas _ _ => pas.any fun pa => decide (regionOf pa = .host)
  | .flt _ _ _ => false
  | .miss _ => false
  | .blocked => false

/-- ADDRESS_RANGE. -/
def fAddressRange : Nat := 6

/-- A waiting access that has been translated: its thread holds the entry no more, but for an STV (17:R273). The access
names the entry as long as its instruction holds it (11:R190). -/
def State.translated (s : State) (id : Nat) (a : Access) (pas : List Nat) (ver : Bool) (st : Nat) : State :=
  let b := { a with pas := pas, ver := ver, stripe := st, wblk := false }
  match a.kind with
  | .stv _ => { s with acc := s.acc.set id b }
  | _ => { s with acc := s.acc.set id b }.logDone a.core a.entry a.thread

/-- A walk has found V = 0: the context's home slice has an event of KIND 1 (21 Table 11), whose payload is not stated. -/
def State.missEvent (s : State) (ctx : Nat) : State :=
  let (v, s) := s.takeFree 56
  s.postEvent (ctx % 64) 1 v

/-- A page that is not present is asked of the host, or not: who supplies it is not stated, so a free value decides. The
request carries the context's GEN (20:R299; log entry 107). -/
def State.askPage (s : State) (ctx va : Nat) : State :=
  let s := s.missEvent ctx
  let (b, s) := s.takeFree 1
  let gen := match s.ctx? ctx with | some c => c.gen | none => 0
  if b = 1 then s.send (.pageRequest ctx gen (alignDown va 4096)) else s

/-- The walk of a waiting access (16:R258): it is translated, faults late, or goes on waiting. -/
def State.walkAccess (s : State) (id : Nat) : State :=
  match s.acc.get? id with
  | none => s
  | some a =>
    if !a.pas.isEmpty then s
    else
      let s := a.vas.foldl (fun s va => match s.walk a.ctx va with
        | some e => s.walked a.core a.ctx va e
        | none => s) s
      let x := s.xlatAll a.kind (s.walk a.ctx) a.ctx a.vas
      match x with
      | .ok pas ver st =>
        if x.inHost && a.kind.hostBarred a.site.x a.gambit then
          (if a.gambit then (s.logDone a.core a.entry a.thread).doomAccess id a else s.lateFault id a fAddressRange 0 a.va)
        else s.translated id a pas ver st
      | .flt code sub va =>
        s.lateFault id a code sub va
      | .miss va => s.askPage a.ctx va
      | .blocked => { s with acc := s.acc.set id { a with wblk := true } }

end Sys2Proof.Machine
end

