-- ==== Sys2Proof/Machine/Memory.lean ====
section
/-! DEFINITION. The memory instructions of families 48, 49, 50, 52, 58 (ZFILL, L2WB, L2INV) and 59: their accesses formed
from the logged sources, their issue with the operand log, and their replay (10:R161 to R174; 11:R194 to R199;
17:R267, R271 to R276). -/

namespace Sys2Proof.Machine

/-! ### Forming an access (10:R162 to R166, 17:R267, R271) -/

/-- An access as its instruction forms it. -/
structure AccForm where
  kind : AccKind
  va : Nat
  size : Nat
  parts : Nat := 1
  stride : Nat := 0
  b : Nat := 0
  c : Nat := 0
  acq : Bool := false
  rel : Bool := false
  scope : Nat := 0
  hint : Nat := 0
deriving DecidableEq, Repr

/-- An access, or the fault that keeps it from being formed. -/
inductive FormRes
  | ok (f : AccForm)
  | flt (code addr : Nat)
deriving DecidableEq, Repr

def fMisaligned : Nat := 7
def fMisalignedAtomic : Nat := 8
def fPrivateLimit : Nat := 9

/-- Range, then alignment (10:R162, 11:R189). -/
def FormRes.checked (mis : Nat) (f : AccForm) : FormRes :=
  if f.va ≥ 2 ^ 57 then .flt fAddressRange f.va
  else if f.va % f.size ≠ 0 then .flt mis f.va
  else .ok f

/-- The loop-nest address ln(cj) (09:R157). -/
def LoopNest.address (l : LoopNest) (j : Nat) : Nat :=
  match l.coef[j]? with
  | none => 0
  | some k =>
    wrap ((k.base.toNat : Int) +
      ((k.strides.zip l.n).map fun x => sext x.1.toNat 32 * sext x.2.toNat 32).sum) 64

/-- LD and ST address by mode from the logged A and B (03:R50, 11:R197). -/
def ldstAddress (mode n a b : Nat) (imm : Int) : Nat :=
  wrap ((a : Int) + (if mode = 1 then sext b 32 * n else 0) + imm) 64

/-- The logged sources A, B and C of an instruction (11:R197). -/
def logSources (op : Nat) (o : Ops) (wp : Warp) (v : Vals) : Nat × Nat × Nat :=
  if (op = 48 || op = 49) && bits o.x 3 2 = 2 then (wp.ln.address (rawField o.b), 0, v.c) else (v.a, v.b, v.c)

/-- The access of one thread, from its logged sources. -/
def memForm (op : Nat) (o : Ops) (wp : Warp) (t a b c : Nat) : FormRes :=
  let acq := o.t % 2 == 1
  let rel := o.t / 2 == 1
  let ea := wrap ((a : Int) + o.w2) 64
  match op with
  | 48 =>
    let n := 2 ^ bits o.x 0 3
    .checked fMisaligned { kind := .load (bit o.x 5), va := ldstAddress (bits o.x 3 2) n a b o.w2, size := n,
                           acq := acq, scope := o.sc, hint := o.rm }
  | 49 =>
    let n := 2 ^ bits o.x 0 3
    .checked fMisaligned { kind := .store, va := ldstAddress (bits o.x 3 2) n a b o.w2, size := n, b := c,
                           rel := rel, scope := o.sc, hint := o.rm }
  | 50 =>
    let k : Nat := 2 ^ bits o.x 1 2
    let idx : Int := (a : Int) + o.w2
    let va := wrap ((wp.pbase.toNat : Int) + (idx * 32 + t) * 4) 64
    if idx < 0 || (wp.plim : Int) < idx + k then .flt fPrivateLimit va
    else if va ≥ 2 ^ 57 then .flt fAddressRange va
    else .ok { kind := if bit o.x 0 then .store else .load false, va := va, size := 4, parts := k, stride := 128,
               b := if bit o.x 0 then c else 0, hint := o.rm }
  | 52 =>
    let n := if bit o.x 4 then 8 else 4
    .checked fMisalignedAtomic { kind := .atomic (bits o.x 0 4) (bit o.x 4), va := ea, size := n, b := b, c := c,
                                 acq := acq, rel := rel, scope := o.sc, hint := o.rm }
  | 58 =>
    let n := wrap o.w2 32
    let f : AccForm := { kind := if o.x = 3 then .zfill n else .wback n (o.x == 5), va := a, size := 128, parts := n, stride := 128 }
    .checked fMisaligned f
  | 59 =>
    (match o.x with
     | 0 => .checked fMisaligned { kind := .ldv c, va := ea, size := 8, acq := acq, scope := o.sc }
     | 1 => .checked fMisaligned { kind := .stv b, va := ea, size := 8, b := c, rel := rel, scope := o.sc }
     | 2 => .checked fMisaligned { kind := .recon (rawField o.b), va := ea, size := 8, c := c, acq := acq, rel := rel, scope := o.sc }
     | _ => .checked fMisaligned { kind := .vcnt, va := ea, size := 8, acq := acq, scope := o.sc })
  | _ => .flt fAddressRange 0

/-- SIZE and DIR of the fault record (11:R190). -/
def memSite (op : Nat) (o : Ops) : Nat × Nat :=
  match op with
  | 48 => (2 ^ bits o.x 0 3, 0)
  | 49 => (2 ^ bits o.x 0 3, 1)
  | 50 => (4 * 2 ^ bits o.x 1 2, if bit o.x 0 then 1 else 0)
  | 51 => if o.x < 32 then (4 * 2 ^ bits o.x 1 2, if bit o.x 0 then 1 else 0) else (0, 3)
  | 52 => (if bit o.x 4 then 8 else 4, 2)
  | 59 => (8, match o.x with | 0 => 0 | 1 => 1 | 2 => 2 | _ => 0)
  | _ => (0, 3)

/-! ### The operand log (09:R158, 11:R198) -/

/-- Is no entry available to an instruction of this privilege: a warp holds 16 at most, 15 of them plain? Entries of handlers
beyond the eight reserved ones are taken from the other 248. -/
def Core.logFull (k : Core) (slot uid : Nat) (priv : Bool) : Bool :=
  let plain := (k.oplog.filter fun e => !e.2.priv).length
  let mine := k.oplog.filter fun e => decide (e.2.slot = slot) && decide (e.2.uid = uid)
  let minePlain := (mine.filter fun e => !e.2.priv).length
  if priv then decide (k.oplog.length ≥ 256) || decide (mine.length ≥ 16)
  else decide (plain + (k.oplog.length - plain - 8) ≥ 248) || decide (minePlain ≥ 15) || decide (mine.length ≥ 16)

/-- Is the instruction issued at handler privilege? -/
def Warp.privileged (w : Warp) (ts : List Nat) : Bool :=
  ts.any fun t => match w.thread? t with | some th => th.trap.isSome | none => false

/-- A free entry: which one is not stated (log entry 7). -/
def State.pickEntry (s : State) (c : Nat) : Nat × State :=
  let (n, s) := s.takeFree 8
  let log := (s.core c).oplog
  match log.free n (256 - n) with
  | some e => (e, s)
  | none => ((log.free 0 256).getD 0, s)

/-- The wait that an earlier access of the thread in the operand log imposes (11:R195): those to be translated, and the
STVs whose verdict is awaited. `strong`: the instruction is a release, a fence, an atomic or a commit. -/
def State.logConflicts (s : State) (c slot uid t : Nat) (strong : Bool) (lines : List Nat) : List Nat × List Nat :=
  let mine := s.acc.filter fun e => decide (e.2.core = c) && decide (e.2.slot = slot) && decide (e.2.uid = uid) &&
    decide (e.2.thread = t)
  let weak := fun (a : Access) => match a.kind with | .load _ => !a.acq | .ldv _ => !a.acq | .vcnt => !a.acq | _ => false
  let clash := fun (a : Access) => !weak a || strong || a.vas.any fun va => lines.any fun l =>
    decide (va / 128 ≤ l) && decide (l ≤ (va + a.size - 1) / 128)
  let unx := mine.filter fun e => e.2.pas.isEmpty && clash e.2
  let stv := mine.filter fun e => !e.2.pas.isEmpty && (match e.2.kind with | .stv _ => true | _ => false)
  (unx.map (·.1), stv.map (·.1))

/-- The logged sources of threads that faulted before their sources were read: free values (log entry 7). -/
def State.freeLogs : State → List Flt → List LogThread × State
  | s, [] => ([], s)
  | s, f :: fs =>
    let (a, s) := s.takeFree 64
    let (b, s) := s.takeFree 64
    let (c, s) := s.takeFree 128
    let (rest, s) := State.freeLogs s fs
    (⟨f.thread, BitVec.ofNat 64 a, BitVec.ofNat 64 b, BitVec.ofNat 128 c, .faulted, none⟩ :: rest, s)

/-! ### Starting an access -/

def State.modWarp (s : State) (c slot : Nat) (f : Warp → Warp) : State :=
  match s.warp? c slot with
  | none => s
  | some wp => s.setWarp c slot (f wp)

/-- What `n` more narrow releases of a core have to wait for: the stores of those that they widen, where a commit holds one
of their words (09:R153, 10:R183). -/
def State.tagWaits (s : State) (core n : Nat) : List Nat :=
  let held := (s.core core).releases.filter fun r => r.tag5.isSome
  match (held.take (held.length + n - 32)).getLast? with
  | none => []
  | some r =>
    let ids := s.neededOf core [] (some r.tag)
    if s.reserved (s.rangesOf ids) then ids else []

/-- A 33rd outstanding narrow release first widens the oldest: its stores become globally performed and its tag is free
(09:R153). An instruction waits before it while a commit holds one of their words (`State.tagWaits`). -/
def State.widenOldest (s : State) (core : Nat) : State :=
  match (s.core core).releases.filter fun r => r.tag5.isSome with
  | [] => s
  | r :: rs =>
    if rs.length < 31 then s
    else
      let ids := s.neededOf core [] (some r.tag)
      let s := if s.reserved (s.rangesOf ids) then s else s.globalAll core ids
      let k := s.core core
      s.setCore core { k with releases := k.releases.map fun x => if x.tag = r.tag then { x with tag5 := none } else x }

/-- A release of a core (18:R282): the thread's earlier stores and the synchronizing stores so far. One of narrow scope
takes a free tag of 5 bits, which the lines of its stores in the L1 receive (09:R153). -/
def State.newRelease (s : State) (core : Nat) (narrow : Bool) (set_ sync : List Nat) : Nat × State :=
  let s := if narrow then s.widenOldest core else s
  let k := s.core core
  let tag5 := if narrow then (List.range 32).find? fun t => !k.releases.any fun r => decide (r.tag5 = some t) else none
  let bytes := set_.flatMap fun id => match s.acc.get? id with | some a => a.ranges | none => []
  let k := if tag5.isSome then k.tagLines (linesOf bytes) tag5 else k
  let r : Release := ⟨k.nextTag, tag5, set_, sync⟩
  (k.nextTag, s.setCore core { k with releases := k.releases ++ [r], nextTag := k.nextTag + 1 })

/-- The stores of a core's outstanding releases that are locally performed: what its threads may have acquired at narrow
scope, and a wide release, a fork edge or a commit brings along (18:R280, R283; log entry 103). -/
def State.released (s : State) (core : Nat) : List Nat :=
  s.neededOf core [] (some (s.core core).nextTag)

/-- Bring them to their homes; none while a commit holds one of their words. -/
def State.widen (s : State) (core : Nat) : Option State :=
  let ids := s.released core
  if ids.isEmpty then some s
  else if s.reserved (s.rangesOf ids) then none
  else some (s.globalAll core ids)

/-- A thread's fences no longer mark its stores (18:R282: up to its next release). -/
def Warp.endFenceTags (w : Warp) (t : Nat) : Warp :=
  { w with fences := w.fences.map fun f => if f.thread = t then { f with tag := none } else f }

/-- The access joins the accesses in flight, with what must come before it (18:R282). -/
def State.addAccess (s : State) (a : Access) : Nat × State :=
  let earlier := s.acc.filter fun e => a.sameThread e.2
  let ids := earlier.map (·.1)
  let acqs := (earlier.filter fun e => e.2.acq).map (·.1)
  let storeLike := a.kind.stores || (match a.kind with | .ntfy _ => true | _ => false)
  let fences : List FenceRec := match s.warp? a.core a.slot with
    | some wp => wp.fences.filter fun f => decide (f.thread = a.thread) && ((a.kind.loads && f.onLoads) || (storeLike && f.onStores))
    | none => []
  let afterL := a.afterL ++ fences.flatMap (·.afterL) ++ (if a.rel && decide (a.scope < 3) then ids else [])
  let afterG := a.afterG ++ acqs ++ fences.flatMap (·.afterG) ++ (if a.rel && decide (3 ≤ a.scope) then ids else [])
  let (id, s) := s.takeId
  let s := { s with acc := s.acc.set id { a with
    afterL := afterL.filter fun i => !s.doneL i, afterG := afterG.filter fun i => !s.doneG i } }
  if a.rel then
    let stores := (earlier.filter fun e => decide (e.2.kind = .store)).map (·.1)
    let (_, s) := s.newRelease a.core (decide (a.scope < 3)) stores [id]
    (id, s.modWarp a.core a.slot fun w => w.endFenceTags a.thread)
  else if storeLike then
    let tags := fences.filterMap (·.tag)
    let k := s.core a.core
    let rs := k.releases.map fun r => if tags.contains r.tag then { r with sync := r.sync ++ [id] } else r
    (id, s.setCore a.core { k with releases := rs })
  else (id, s)

/-- What starting an access gives: it was translated or waits, or its thread faults. -/
inductive StartRes
  | done (id : Nat)
  | waits (id : Nat)
  | flt (code sub va : Nat)
deriving DecidableEq, Repr

/-- An instruction's access by one thread: `prev` is the translated access of the thread before it, `same` are those of
lower threads that touch its bytes, `charge` what it moves at its home (10:R163, R173). -/
structure StartInfo where
  core : Nat
  slot : Nat
  site : Site
  entry : Option Nat
  prev : List Nat
  same : List Nat
  wline : Bool
  charge : List Nat
  tracked : Bool
deriving DecidableEq, Repr

/-- Start the access of a thread: translate it in the TLBs, or let it wait for a walk (11:R194). Subcode 1 is always
late. -/
def State.startAccess (s : State) (wp : Warp) (t : Nat) (i : StartInfo) (f : AccForm) (lands : List Land)
    (result : Option Nat) : StartRes × State :=
  let a : Access :=
    { core := i.core, slot := i.slot, uid := wp.uid, thread := t, actor := actorOf i.core i.slot t, ctx := wp.ctx,
      kind := f.kind, va := f.va, pas := [], size := f.size, parts := f.parts, stride := f.stride, ver := false, stripe := 0,
      b := BitVec.ofNat 128 f.b, c := BitVec.ofNat 64 f.c, acq := f.acq, rel := f.rel, scope := f.scope,
      gambit := i.tracked, lands := lands, entry := i.entry, result := result, afterL := i.prev ++ i.same, afterG := [],
      loc := none, wblk := false, wline := i.wline, charge := i.charge, hint := f.hint, site := i.site, launch := wp.launch }
  match s.xlatAll f.kind (s.tlbLook i.core wp.ctx) wp.ctx a.vas with
  | .ok pas ver st =>
    let b := { a with pas := pas, ver := ver, stripe := st }
    (match f.kind with
     | .stv _ => let (id, s) := s.addAccess b; (.waits id, s)
     | _ => let (id, s) := s.addAccess b; (.done id, s))
  | .flt code sub va =>
    if code = fTranslation && sub = 1 then
      let (id, s) := s.addAccess { a with afterL := i.same }
      (.waits id, s)
    else (.flt code sub va, s)
  | .miss _ =>
    let (id, s) := s.addAccess { a with afterL := i.same }
    (.waits id, s)
  | .blocked =>
    let (id, s) := s.addAccess { a with afterL := i.same, wblk := true }
    (.waits id, s)

/-- A result record of an access, its destination empty (05:R80). -/
def State.newResult (s : State) (c slot t : Nat) (wp : Warp) (d : Dst) (n batch : Nat) (empty : Bool) : Nat × List Land × State :=
  match wp.thread? t with
  | none => (0, [], s)
  | some th =>
    let lands := landsOf th d n
    let (id, s) := s.takeId
    let s := { s with results := s.results.set id ⟨c, slot, wp.uid, t, lands, [], false, false, false, batch⟩ }
    (id, lands, if empty then s.modWarp c slot fun w => w.emptyDst t d n else s)

/-- Is LD or ST of the thread tracked by an open gambit: not in a handler that was entered with it (10:R180, R181)? -/
def Warp.tracks (w : Warp) (op t : Nat) : Bool :=
  (op = 48 || op = 49) &&
  (match w.thread? t with
   | some th => th.gambit.opened && th.gambit.away.isNone
   | none => false)

/-- Does the warp wait until every result of the instruction has landed: VCNT, L2WB, L2INV (17:R267, R276)? -/
def waitsAll (op x : Nat) : Bool := (op = 59 && x = 3) || (op = 58 && (x = 4 || x = 5))

/-- Is the destination marked empty: of LD, LDP, LDV and ATOM (05:R80)? -/
def producer (op x : Nat) : Bool := op = 48 || op = 50 || op = 52 || (op = 59 && x = 0)

/-- The lines an access touches. -/
def FormRes.lines : FormRes → List Nat
  | .ok f => (List.range f.parts).map fun (i : Nat) => (f.va + i * f.stride) / 128
  | .flt _ _ => []

/-- The virtual ranges of a form's stores. -/
def FormRes.stored : FormRes → List (Nat × Nat)
  | .ok f => if f.kind = .store then (List.range f.parts).map fun (i : Nat) => (f.va + i * f.stride, f.size) else []
  | .flt _ _ => []

/-- Do the stores of an instruction write the whole line of an address (09:R151)? -/
def wholeLine (fs : List FormRes) (va : Nat) : Bool :=
  let ws := fs.flatMap FormRes.stored
  decide (128 ≤ (ws.map (·.2)).sum) &&
    (List.range 128).all fun i => ws.any fun w => decide (w.1 ≤ va / 128 * 128 + i) && decide (va / 128 * 128 + i < w.1 + w.2)

/-- What a thread's access moves at the home of each part's line: for all accesses of its instruction to the line, of which
the lowest thread's moves it (10:R163). -/
def lineCharge (fs : List (Nat × FormRes)) (t : Nat) (f : AccForm) : List Nat :=
  (FormRes.ok f).lines.map fun line =>
    let same := fs.filter fun x => x.2.lines.contains line
    if same.any fun x => decide (x.1 < t) then 0
    else min 128 (same.map fun x => match x.2 with | .ok g => g.size | .flt _ _ => 0).sum

/-- A running issue: faults, log threads and results so far, the translated access before this one, and the accesses
started. -/
structure Issuing where
  s : State
  faults : List Flt
  log : List LogThread
  ids : List Nat
  prev : List Nat
  mine : List Nat

/-- The accesses started that touch some bytes at these virtual addresses. -/
def Issuing.touching (acc : Issuing) (vas : List Nat) (size : Nat) : List Nat :=
  acc.mine.filter fun i => match acc.s.acc.get? i with
    | some y => rangesMeet (y.vas.map fun va => (va, y.size)) (vas.map fun va => (va, size))
    | none => false

/-- One thread of a memory instruction issues. One that faults at issue leaves its producer's destination empty (10:R162). -/
def Issuing.step (acc : Issuing) (c slot op : Nat) (o : Ops) (wp : Warp) (site : Site) (entry : Nat) (dst : Option (Dst × Nat))
    (batch : Nat) (fs : List (Nat × FormRes)) (x : Nat × (Nat × Nat × Nat) × FormRes) : Issuing :=
  let t := x.1
  let (a, b, cc) := x.2.1
  let logged := fun (st : LogStatus) (r : Option Nat) =>
    (⟨t, BitVec.ofNat 64 a, BitVec.ofNat 64 b, BitVec.ofNat 128 cc, st, r⟩ : LogThread)
  let tracked := wp.tracks op t
  let fault := fun (code sub addr : Nat) =>
    let s := match dst with
      | some (d, n) => if producer op o.x then acc.s.modWarp c slot fun w => w.emptyDst t d n else acc.s
      | none => acc.s
    { acc with s := s, faults := acc.faults ++ [⟨t, code, sub, addr⟩], log := acc.log ++ [logged .faulted none] }
  let bad := fun (code addr : Nat) =>
    if tracked then
      let s := acc.s.modWarp c slot fun w => w.modThread t fun th => { th with gambit := th.gambit.doom 8 }
      let s := match dst with
        | some (d, n) => s.modWarp c slot fun w => w.writeDst t d n 0
        | none => s
      { acc with s := s, log := acc.log ++ [logged .done none] }
    else fault code 0 addr
  match x.2.2 with
  | .flt code addr => bad code addr
  | .ok f =>
    let vas := (List.range f.parts).map fun (i : Nat) => wrap ((f.va + i * f.stride : Nat) : Int) 64
    let info : StartInfo := ⟨c, slot, site, some entry, acc.prev, acc.touching vas f.size, wholeLine (fs.map (·.2)) f.va, lineCharge fs t f, tracked⟩
    let xl := acc.s.xlatAll f.kind (acc.s.tlbLook c wp.ctx) wp.ctx vas
    if xl.inHost && f.kind.hostBarred o.x tracked then bad fAddressRange f.va
    else match xl with
    | .flt 4 2 va => fault 4 2 va
    | .flt 4 3 va => fault 4 3 va
    | .flt 66 sub va => fault 66 sub va
    | _ =>
      let (rid, lands, s) := match dst with
        | some (d, n) => (let (r, l, s) := acc.s.newResult c slot t wp d n batch (producer op o.x); (some r, l, s))
        | none =>
          if waitsAll op o.x then (let (r, l, s) := acc.s.newResult c slot t wp .discard 1 batch false; (some r, l, s))
          else (none, [], acc.s)
      let ids := match rid with | some r => acc.ids ++ [r] | none => acc.ids
      match s.startAccess wp t info f lands rid with
      | (.done id, s) => { s := s, faults := acc.faults, log := acc.log ++ [logged .done rid], ids := ids, prev := [id], mine := acc.mine ++ [id] }
      | (.waits id, s) =>
        let prev := match s.acc.get? id with | some y => if y.pas.isEmpty then acc.prev else [id] | none => acc.prev
        { s := s, faults := acc.faults, log := acc.log ++ [logged .waiting rid], ids := ids, prev := prev, mine := acc.mine ++ [id] }
      | (.flt code sub va, s) =>
        { s := s, faults := acc.faults ++ [⟨t, code, sub, va⟩], log := acc.log ++ [logged .faulted none], ids := acc.ids, prev := acc.prev, mine := acc.mine }

/-- Put an entry into the log, unless it holds nobody; then no access names it. -/
def State.putEntry (s : State) (c entry : Nat) (le : LogEntry) : State :=
  if le.threads.all fun x => decide (x.status = .done) then
    { s with acc := s.acc.map fun (a : Nat × Access) =>
        if a.2.core = c && a.2.entry = some entry then (a.1, { a.2 with entry := none }) else a }
  else let k := s.core c; s.setCore c { k with oplog := k.oplog.set entry le }

/-- A constant window that may not be read takes its faults before the instruction takes an entry: HANDLE is 0 (11:R374). -/
def Prep.windowDenied (p : Prep) : Bool := p.faults.any fun f => decide (f.code = fTranslation)

/-- An instruction of the operand log whose constant window may not be read. -/
def State.denyWindow (s : State) (c slot : Nat) (site : Site) (o : Ops) (p : Prep) : State :=
  (s.modWarp c slot fun w => w.nextPc (p.moving p.faults) o.form.len).conclude c slot site p.exec p.faults none false
    p.exec.length o.brk

/-- The participants of a memory instruction with their logged sources and the accesses they form. -/
def memForms (op : Nat) (o : Ops) (wp : Warp) (p : Prep) : List (Nat × (Nat × Nat × Nat) × FormRes) :=
  p.vals.map fun x => (let l := logSources op o wp x.2; (x.1, l, memForm op o wp x.1 l.1 l.2.1 l.2.2))

/-- What keeps a memory instruction from issuing: no entry of the operand log, or a conflict with a waiting access. -/
def State.memWaits (s : State) (c slot op : Nat) (o : Ops) (wp : Warp) (p : Prep) : Option Wait :=
  let cs := (memForms op o wp p).map fun x => s.logConflicts c slot wp.uid x.1 (o.t / 2 == 1 || op == 52) x.2.2.lines
  let tags := if o.t / 2 == 1 && decide (o.sc < 3) then s.tagWaits c p.vals.length else []
  if (s.core c).logFull slot wp.uid (wp.privileged p.exec) then some .oplog
  else if (cs.any fun y => !y.1.isEmpty || !y.2.isEmpty) || !tags.isEmpty then
    some (.ordered (cs.flatMap (·.1)) [] (cs.flatMap (·.2) ++ tags))
  else none

/-- The site of a memory instruction. -/
def memSiteOf (wp : Warp) (op : Nat) (o : Ops) : Site := siteOf wp op o (memSite op o).1 (memSite op o).2

/-- A memory instruction issues: it takes an entry, and each participant's access is formed and started, in ascending
order (10:R163). -/
def State.memIssue (s : State) (i : Instr) (c slot op : Nat) (o : Ops) (wp : Warp) (r : Roles) (p : Prep) : State :=
  let wop := op + o.x * 64
  let site := memSiteOf wp op o
  let xs := memForms op o wp p
  let (entry, s) := s.pickEntry c
  let (batch, s) := s.takeId
  let dst := Ops.dst o r
  let fs := xs.map fun x => (x.1, x.2.2)
  let (free, s) := s.freeLogs p.faults
  let start : Issuing := ⟨s, p.faults, free, [], [], []⟩
  let e := xs.foldl (fun acc x => acc.step c slot op o wp site entry dst batch fs x) start
  let s := e.s.putEntry c entry ⟨slot, wp.uid, wp.privileged p.exec, i, site.pc, e.log⟩
  let hold := waitsAll op o.x || (match dst with | some (d, _) => Dst.awaited d | none => false)
  let s := s.modWarp c slot fun w =>
    let w := w.nextPc (p.moving e.faults) o.form.len
    if hold && !e.ids.isEmpty then { w with wait := .results e.ids, waitOp := wop } else w
  s.conclude c slot site p.exec e.faults (some entry) false p.exec.length o.brk

/-- The issue of a memory instruction of families 48, 49, 50, 52, 58 and 59 that makes translated accesses. -/
def State.memory (s : State) (i : Instr) : Host.Outcome State Fault Refusal :=
  match i.lane? with
  | none => .next s
  | some (op, o) =>
    s.issueWith op o false (decide (op ≥ 52)) id fun c slot wp r p s =>
      if p.windowDenied then s.denyWindow c slot (memSiteOf wp op o) o p
      else
      match s.memWaits c slot op o wp p with
      | some w => s.yieldBefore c slot w (op + o.x * 64)
      | none => s.memIssue i c slot op o wp r p

def execLd (o : Ops) (s : State) : Host.Outcome State Fault Refusal := s.memory (.ld o)
def execSt (o : Ops) (s : State) : Host.Outcome State Fault Refusal := s.memory (.st o)
def execLdp (o : Ops) (s : State) : Host.Outcome State Fault Refusal := s.memory (.ldp o)
def execStp (o : Ops) (s : State) : Host.Outcome State Fault Refusal := s.memory (.stp o)
def execAtom (o : Ops) (s : State) : Host.Outcome State Fault Refusal := s.memory (.atom o)
def execRed (o : Ops) (s : State) : Host.Outcome State Fault Refusal := s.memory (.red o)
def execZfill (o : Ops) (s : State) : Host.Outcome State Fault Refusal := s.memory (.zfill o)
def execL2wb (o : Ops) (s : State) : Host.Outcome State Fault Refusal := s.memory (.l2wb o)
def execL2inv (o : Ops) (s : State) : Host.Outcome State Fault Refusal := s.memory (.l2inv o)
def execLdv (o : Ops) (s : State) : Host.Outcome State Fault Refusal := s.memory (.ldv o)
def execStv (o : Ops) (s : State) : Host.Outcome State Fault Refusal := s.memory (.stv o)
def execRecon (o : Ops) (s : State) : Host.Outcome State Fault Refusal := s.memory (.recon o)
def execVcnt (o : Ops) (s : State) : Host.Outcome State Fault Refusal := s.memory (.vcnt o)

/-! ### Scratchpad (10:R167 to R169) -/

def fScratchRange : Nat := 10
def fScratchFlag : Nat := 11

/-- The group of a warp. -/
def State.groupOf (s : State) (c : Nat) (wp : Warp) : Group :=
  (s.group? c wp.gslot).getD ⟨0, 0, 0, 0, 0, 0, [], 0, 0, [], [], 0, 0, 0, 0⟩

/-- Alignment, then range, of `n` bytes at `sa` in a group's rows: the fault, if any (10:R167). -/
def scratchCheck (rows n : Nat) (sa : Int) : Option (Nat × Nat) :=
  if sa % n ≠ 0 then some (fMisaligned, wrap sa 64)
  else if sa < 0 || (128 * rows : Nat) < sa + n then some (fScratchRange, wrap sa 64)
  else none

/-- Is the flag of a physical row full? -/
def Core.full (k : Core) (row : Nat) : Bool := k.flags.contains row

/-- Set the flags of physical rows: one change each (09:R150). -/
def Core.setFlags (k : Core) (rows : List Nat) (full : Bool) : Core :=
  let rest := k.flags.filter fun r => !rows.contains r
  { k with flags := if full then rest ++ rows else rest }

/-- What must come before a scratchpad access of a thread (18:R282): accesses to be locally, and to be globally
performed. Acquires, fences and, for a release, everything earlier. -/
def State.scratchOrder (s : State) (c slot : Nat) (wp : Warp) (t : Nat) (isStore rel : Bool) : List Nat × List Nat :=
  let mine := s.acc.filter fun e => decide (e.2.core = c) && decide (e.2.slot = slot) && decide (e.2.uid = wp.uid) &&
    decide (e.2.thread = t)
  let fs := wp.fences.filter fun f => decide (f.thread = t) && (if isStore then f.onStores else f.onLoads)
  let l := fs.flatMap (·.afterL) ++ (if rel then mine.map (·.1) else [])
  let g := fs.flatMap (·.afterG) ++ (mine.filter fun e => e.2.acq).map (·.1)
  (l.filter fun i => !s.doneL i, g.filter fun i => !s.doneG i)

/-- The byte address of LDS and STS. -/
def scratchAddr (a : Nat) (o : Ops) : Int := (a : Int) + o.w2

/-- The release set of a barrier arrival or a scratchpad release enters the core's releases (18:R282). -/
def State.releaseThreads (s : State) (c slot uid : Nat) (ts : List Nat) : State :=
  ts.foldl (fun s t =>
    let stores := (s.acc.filter fun e => decide (e.2.core = c) && decide (e.2.slot = slot) && decide (e.2.uid = uid) &&
      decide (e.2.thread = t) && decide (e.2.kind = .store)).map (·.1)
    let s := s.modWarp c slot fun w => w.endFenceTags t
    if stores.isEmpty then s else (s.newRelease c true stores []).2) s

/-- A participant of LDS or STS: its thread, values and byte address. -/
abbrev ScratchArg := Nat × Vals × Int

/-- The participants of LDS and STS. -/
def scratchArgs (o : Ops) (p : Prep) : List ScratchArg := p.vals.map fun x => (x.1, x.2, scratchAddr x.2.a o)

/-- Those whose address is aligned and in range. -/
def Group.inRows (g : Group) (n : Nat) (xs : List ScratchArg) : List ScratchArg :=
  xs.filter fun x => (scratchCheck g.scratchCount n x.2.2).isNone

/-- The physical row of a participant. -/
def Group.rowOf (g : Group) (x : ScratchArg) : Nat := g.scratchBase + x.2.2.toNat / 128

/-- The flag value that a mode waits for: STS mode 2 empty rows, LDS modes 1 and 2 full ones (10:R168). -/
def scratchWant (isStore : Bool) (mode : Nat) : Option Bool :=
  if isStore then (if mode = 2 then some false else none) else (if mode = 1 || mode = 2 then some true else none)

/-- Is LDS or STS performed later, as any relaxed access may be (18:R287): without a flag mode and without ordering? -/
def scratchLater (o : Ops) : Bool := bits o.x 3 2 == 0 && o.t == 0

/-- What keeps LDS or STS from executing: the wait conditions are tested over all touched rows first (10:R168). One with a
flag mode or an ordering executes at issue, after what the warp has still to do in its rows (09:R150). -/
def State.scratchWaits (s : State) (c slot : Nat) (o : Ops) (wp : Warp) (p : Prep) (n : Nat) : Option Wait :=
  let isStore := bit o.x 0
  let g := s.groupOf c wp
  let k := s.core c
  let ok := g.inRows n (scratchArgs o p)
  let touched := (ok.map g.rowOf).eraseDups
  let notYet := match scratchWant isStore (bits o.x 3 2) with | some v => touched.any fun j => k.full j != v | none => false
  let cs := ok.map fun x => s.logConflicts c slot wp.uid x.1 (o.t / 2 == 1) []
  let od := if scratchLater o then [] else ok.map fun x => s.scratchOrder c slot wp x.1 isStore (o.t / 2 == 1)
  let before := if scratchLater o then [] else s.scratchPending c slot wp.uid (List.range 32) touched
  let tags := if isStore && o.t / 2 == 1 then s.tagWaits c ok.length else []
  if k.logFull slot wp.uid (wp.privileged p.exec) then some .oplog
  else if cs.any (fun y => !y.1.isEmpty || !y.2.isEmpty) || od.any (fun y => !y.1.isEmpty || !y.2.isEmpty) ||
      !before.isEmpty || !tags.isEmpty then
    some (.ordered (cs.flatMap (·.1)) (od.flatMap (·.1) ++ before) (cs.flatMap (·.2) ++ od.flatMap (·.2) ++ tags))
  else if notYet then some (.rows (touched.map fun j => (j, k.full j)))
  else none

/-- The scratchpad after the stores of the participants, in ascending order. -/
def Core.storeRows (k : Core) (base n : Nat) (xs : List ScratchArg) : Core :=
  xs.foldl (fun k x => k.putScratch (128 * base + x.2.2.toNat) (toBytes x.2.1.c n) false) k

/-- A participant's access that is performed later joins those in flight, after those of lower threads to its bytes
(10:R163). `acc`: the state, the results and the accesses so far. -/
def scratchStart (c slot : Nat) (wp : Warp) (site : Site) (dst : Option (Dst × Nat)) (batch base n : Nat) (isStore : Bool)
    (acc : State × List Nat × List (Nat × Nat)) (x : ScratchArg) : State × List Nat × List (Nat × Nat) :=
  let (s, ids, mine) := acc
  let (rid, lands, s) := match dst with
    | some (d, k) => (let (r, l, s) := s.newResult c slot x.1 wp d k batch true; (some r, l, s))
    | none => (none, [], s)
  let pa := scratchPa c (128 * base + x.2.2.toNat)
  let a : Access :=
    { core := c, slot := slot, uid := wp.uid, thread := x.1, actor := actorOf c slot x.1, ctx := wp.ctx,
      kind := if isStore then .sts else .lds, va := x.2.2.toNat, pas := [pa], size := n, parts := 1, stride := 0, ver := false,
      stripe := 0, b := BitVec.ofNat 128 (if isStore then x.2.1.c else 0), c := 0, acq := false, rel := false, scope := 0,
      gambit := false, lands := lands, entry := none, result := rid,
      afterL := (mine.filter fun m => overlap m.2 n pa n).map (·.1), afterG := [], loc := none, wblk := false, wline := false,
      charge := [], hint := 0, site := site, launch := wp.launch }
  let (id, s) := s.addAccess a
  (s, match rid with | some r => ids ++ [r] | none => ids, mine ++ [(id, pa)])

/-- The accesses of LDS or STS that are performed later; the warp waits for a result that no row awaits. -/
def State.scratchStarts (s : State) (c slot op : Nat) (o : Ops) (wp : Warp) (r : Roles) (n base : Nat) (site : Site)
    (ok : List ScratchArg) : State :=
  let dst := if bit o.x 0 then none else Ops.dst o r
  let (batch, s) := s.takeId
  let (s, ids, _) := ok.foldl (scratchStart c slot wp site dst batch base n (bit o.x 0)) (s, [], [])
  let hold := match dst with | some (d, _) => Dst.awaited d | none => false
  if hold && !ids.isEmpty then s.modWarp c slot fun w => { w with wait := .results ids, waitOp := op + o.x * 64 } else s

/-- The flags after LDS or STS by its mode: they change once, after the last participant (10:R168). -/
def Core.modeFlags (k : Core) (isStore : Bool) (mode : Nat) (rows : List Nat) : Core :=
  if isStore then (if mode = 1 || mode = 2 then k.setFlags rows true else k)
  else (if mode = 2 then k.setFlags rows false else k)

/-- LDS or STS is performed at issue. -/
def State.scratchNow (s : State) (c slot op : Nat) (o : Ops) (wp : Warp) (r : Roles) (n : Nat) (g : Group)
    (ok : List ScratchArg) : State :=
  let isStore := bit o.x 0
  let rows := (ok.map g.rowOf).eraseDups
  if isStore then s.setCore c (((s.core c).storeRows g.scratchBase n ok).modeFlags true (bits o.x 3 2) rows)
  else
    let words := ok.map fun x => (x.1, (s.core c).ldsWords g.scratchBase n x.2.2.toNat)
    let (wp', s) := s.deliverLater c slot ((s.warp? c slot).getD wp) (op + o.x * 64) (Ops.dst o r) false words
    (s.setCore c ((s.core c).modeFlags false (bits o.x 3 2) rows)).setWarp c slot wp'

/-- LDS or STS executes (10:R167, R168). -/
def State.scratchIssue (s : State) (i : Instr) (c slot op : Nat) (o : Ops) (wp : Warp) (r : Roles) (p : Prep) (n : Nat)
    (site : Site) : State :=
  let isStore := bit o.x 0
  let mode := bits o.x 3 2
  let g := s.groupOf c wp
  let k := s.core c
  let xs := scratchArgs o p
  let bad := xs.filterMap fun x => (scratchCheck g.scratchCount n x.2.2).map fun f => (⟨x.1, f.1, 0, f.2⟩ : Flt)
  let ok := g.inRows n xs
  let chk := if mode = 3 then ok.filter fun x => k.full (g.rowOf x) == isStore else []
  let bad := bad ++ chk.map fun x => ⟨x.1, fScratchFlag, 0, x.2.2.toNat⟩
  let ok := ok.filter fun x => !chk.any fun y => decide (y.1 = x.1)
  let bad := bad ++ if isStore then [] else
    (ok.filter fun x => k.scratchBad (128 * g.scratchBase + x.2.2.toNat) n).map fun x => ⟨x.1, 5, 0, x.2.2.toNat⟩
  let faults := p.faults ++ bad
  let ok := ok.filter fun x => !faults.any fun f => decide (f.thread = x.1)
  let (entry, s) := s.pickEntry c
  let s := if isStore && o.t / 2 == 1 then s.releaseThreads c slot wp.uid (ok.map (·.1)) else s
  let s := if scratchLater o then s.scratchStarts c slot op o wp r n g.scratchBase site ok
    else s.scratchNow c slot op o wp r n g ok
  let (free, s) := s.freeLogs p.faults
  let log : List LogThread := free ++ bad.map fun f =>
    match p.vals.find? fun x => decide (x.1 = f.thread) with
    | some x => ⟨f.thread, BitVec.ofNat 64 x.2.a, BitVec.ofNat 64 x.2.b, BitVec.ofNat 128 x.2.c, .faulted, none⟩
    | none => ⟨f.thread, 0, 0, 0, .faulted, none⟩
  let s := s.putEntry c entry ⟨slot, wp.uid, wp.privileged p.exec, i, site.pc, log⟩
  let s := s.modWarp c slot fun w => w.nextPc (p.moving faults) o.form.len
  s.conclude c slot site p.exec faults (some entry) false p.exec.length o.brk

/-- LDS and STS. -/
def State.scratchpad (s : State) (i : Instr) : Host.Outcome State Fault Refusal :=
  match i.lane? with
  | none => .next s
  | some (op, o) =>
    s.issue op o false fun c slot wp r p s =>
      if p.windowDenied then s.denyWindow c slot (memSiteOf wp op o) o p
      else
      match s.scratchWaits c slot o wp p (memSite op o).1 with
      | some w => s.yieldBefore c slot w (op + o.x * 64)
      | none => s.scratchIssue i c slot op o wp r p (memSite op o).1 (memSiteOf wp op o)

def execLds (o : Ops) (s : State) : Host.Outcome State Fault Refusal := s.scratchpad (.lds o)
def execSts (o : Ops) (s : State) : Host.Outcome State Fault Refusal := s.scratchpad (.sts o)

/-- The union of the rows that SROWSET's participants name, as physical rows. -/
def rowUnion (base n : Nat) (xs : List Nat) : List Nat := (xs.flatMap fun a => rangeFrom (base + a) n).eraseDups

/-- SROWSET: the union of the ranges is set as one change (10:R169). -/
def execSrowset (o : Ops) (s : State) : Host.Outcome State Fault Refusal :=
  s.issue 51 o false fun c slot wp _ p s =>
    let wop := 51 + o.x * 64
    let site := siteOf wp 51 o 0 3
    let n := bits (wrap o.w2 32) 0 12
    let full := bit (wrap o.w2 32) 12
    let priv := wp.privileged p.exec
    let g := s.groupOf c wp
    let bad := p.vals.filter fun x => decide (x.2.a + n > g.scratchCount)
    let ok := p.vals.filter fun x => decide (x.2.a + n ≤ g.scratchCount)
    let cs := ok.map fun x => s.logConflicts c slot wp.uid x.1 (o.t / 2 == 1) []
    let od := ok.map fun x => s.scratchOrder c slot wp x.1 true (o.t / 2 == 1)
    let before := s.scratchPending c slot wp.uid (List.range 32) (rowUnion g.scratchBase n (ok.map (·.2.a)))
    let tags := if o.t / 2 == 1 then s.tagWaits c ok.length else []
    if p.windowDenied then s.denyWindow c slot site o p
    else if (s.core c).logFull slot wp.uid priv then s.yieldBefore c slot .oplog wop
    else if cs.any (fun y => !y.1.isEmpty || !y.2.isEmpty) || od.any (fun y => !y.1.isEmpty || !y.2.isEmpty) ||
        !before.isEmpty || !tags.isEmpty then
      s.yieldBefore c slot (.ordered (cs.flatMap (·.1)) (od.flatMap (·.1) ++ before)
        (cs.flatMap (·.2) ++ od.flatMap (·.2) ++ tags)) wop
    else
      let (entry, s) := s.pickEntry c
      let s := if o.t / 2 == 1 then s.releaseThreads c slot wp.uid (ok.map (·.1)) else s
      let k := s.core c
      let s := s.setCore c (if ok.isEmpty then k else k.setFlags (rowUnion g.scratchBase n (ok.map (·.2.a))) full)
      let faults := p.faults ++ bad.map fun x => ⟨x.1, fScratchRange, 0, 128 * x.2.a⟩
      let (free, s) := s.freeLogs p.faults
      let log : List LogThread := free ++ bad.map fun x => ⟨x.1, BitVec.ofNat 64 x.2.a, 0, 0, .faulted, none⟩
      let s := s.putEntry c entry ⟨slot, wp.uid, priv, .srowset o, site.pc, log⟩
      let s := s.modWarp c slot fun w => w.nextPc (p.moving faults) o.form.len
      s.conclude c slot site p.exec faults (some entry) false p.exec.length o.brk

/-- The mask of SROWGET (10:R169). -/
def rowMask (k : Core) (base n a : Nat) : Nat :=
  (List.range 32).foldl (fun m i => if decide (a + i < n) && k.full (base + a + i) then m + 2 ^ i else m) 0

/-- SROWGET: T = 1 orders it as an acquire; its value is bound at issue (10:R169). -/
def execSrowget (o : Ops) (s : State) : Host.Outcome State Fault Refusal :=
  s.issue 51 o false fun c slot wp r p s =>
    let wop := 51 + o.x * 64
    let site := siteOf wp 51 o 0 3
    let priv := wp.privileged p.exec
    let g := s.groupOf c wp
    let k := s.core c
    let bad := p.vals.filter fun x => decide (x.2.a ≥ g.scratchCount)
    let ok := p.vals.filter fun x => decide (x.2.a < g.scratchCount)
    let cs := ok.map fun x => s.logConflicts c slot wp.uid x.1 false []
    let od := ok.map fun x => s.scratchOrder c slot wp x.1 false false
    if p.windowDenied then s.denyWindow c slot site o p
    else if k.logFull slot wp.uid priv then s.yieldBefore c slot .oplog wop
    else if cs.any (fun y => !y.1.isEmpty || !y.2.isEmpty) || od.any fun y => !y.1.isEmpty || !y.2.isEmpty then
      s.yieldBefore c slot (.ordered (cs.flatMap (·.1)) (od.flatMap (·.1)) (cs.flatMap (·.2) ++ od.flatMap (·.2))) wop
    else
      let (entry, s) := s.pickEntry c
      let faults := p.faults ++ bad.map fun x => ⟨x.1, fScratchRange, 0, 128 * x.2.a⟩
      let (free, s) := s.freeLogs p.faults
      let log : List LogThread := free ++ bad.map fun x => ⟨x.1, BitVec.ofNat 64 x.2.a, 0, 0, .faulted, none⟩
      let s := s.putEntry c entry ⟨slot, wp.uid, priv, .srowget o, site.pc, log⟩
      let rs := ok.map fun x => (x.1, rowMask k g.scratchBase g.scratchCount x.2.a, (0 : XFlags))
      let s := s.modWarp c slot fun w => (w.writeAll (Ops.dst o r) rs).nextPc (p.moving faults) o.form.len
      s.conclude c slot site p.exec faults (some entry) false p.exec.length o.brk

end Sys2Proof.Machine
end

