-- ==== Sys2Proof/Machine/Sync.lean ====
section
/-! DEFINITION. Fences, barriers and waiting on a word (10:R175 to R179; 13:R203, 14:R235; 18:R282). -/

namespace Sys2Proof.Machine

/-! ### FENCE (10:R175, 18:R282) -/

/-- Fences that still hold something back, or still mark stores for a release. -/
def State.liveFences (s : State) (fs : List FenceRec) : List FenceRec :=
  fs.filter fun f => f.tag.isSome || f.afterL.any (fun i => !s.doneL i) || f.afterG.any fun i => !s.doneG i

/-- The record of a FENCE, from the accesses before it: `loads` are those that load. -/
def fenceRec (t sc thread : Nat) (ids loads : List Nat) (tag : Option Nat) : FenceRec :=
  if t = 1 then ⟨thread, true, true, [], loads, none⟩
  else ⟨thread, t == 3, true, if sc < 3 then ids else [], if sc < 3 then (if t = 3 then loads else []) else ids, tag⟩

/-- FENCE in one thread. A release fence makes a release whose synchronizing stores are still to come; an acquire
fence also orders the thread's later stores after its earlier loads. -/
def State.fenceThread (s : State) (c slot uid : Nat) (o : Ops) (thread : Nat) : State :=
  let mine := s.acc.filter fun e => decide (e.2.core = c) && decide (e.2.slot = slot) && decide (e.2.uid = uid) &&
    decide (e.2.thread = thread)
  let ids := mine.map (·.1)
  let loads := (mine.filter fun e => e.2.kind.loads).map (·.1)
  let stores := (mine.filter fun e => decide (e.2.kind = .store)).map (·.1)
  let (tag, s) := if 2 ≤ o.t then
      (let (n, s) := s.newRelease c (decide (o.sc < 3)) stores []
       (some n, s))
    else (none, s)
  let s := if 2 ≤ o.t then s.modWarp c slot fun w => w.endFenceTags thread else s
  s.modWarp c slot fun w => { w with fences := s.liveFences (w.fences ++ [fenceRec o.t o.sc thread ids loads tag]) }

/-- The accesses before an instruction that R195 makes it wait for, of all its threads. -/
def State.strongWaits (s : State) (c slot uid : Nat) (ts : List Nat) : List Nat × List Nat :=
  let cs := ts.map fun t => s.logConflicts c slot uid t true []
  (cs.flatMap (·.1), cs.flatMap (·.2))

def execFence (o : Ops) (s : State) : Host.Outcome State Fault Refusal :=
  s.issueTx 53 o false fun c slot wp _ p s =>
    let ts := p.vals.map (·.1)
    let w := s.strongWaits c slot wp.uid ts
    let tags := if 2 ≤ o.t && decide (o.sc < 3) then s.tagWaits c ts.length else []
    if !w.1.isEmpty || !w.2.isEmpty || !tags.isEmpty then s.yieldBefore c slot (.ordered w.1 [] (w.2 ++ tags)) 53
    else
      let s := ts.foldl (fun s t => s.fenceThread c slot wp.uid o t) s
      s.endMoves c slot (siteOf wp 53 o 0 3) p [] false o.brk

/-! ### Named barriers (10:R176, R177) -/

def fBarRange : Nat := 27
def fBarMismatch : Nat := 28

/-- What an arrival with count `cnt` does to a barrier of a group of `warps` warps: a fault, or the barrier after it and
whether it releases. -/
inductive Arrival
  | flt (code : Nat)
  | ok (b : Barrier) (releases : Bool)
deriving DecidableEq, Repr

def Barrier.arrive (b : Barrier) (cnt warps : Nat) : Arrival :=
  if cnt < 1 || warps < cnt then .flt fBarRange
  else
    let b := if b.n = 0 then ⟨cnt, 0⟩ else b
    if b.n ≠ cnt then .flt fBarMismatch
    else if b.a + 1 = b.n then .ok ⟨0, 0⟩ true
    else .ok ⟨b.n, b.a + 1⟩ false

/-- Change barrier `name` of a group. -/
def State.setBar (s : State) (c gslot name : Nat) (b : Barrier) : State :=
  match s.group? c gslot with
  | none => s
  | some g => s.setGroup c gslot { g with bars := setAt g.bars name b }

/-- A warp's wait ends: it is ready again, with a new stamp (09 Table 2). -/
def State.wakeWarp (s : State) (c slot : Nat) : State :=
  match s.warp? c slot with
  | none => s
  | some wp => s.setWarp c slot { wp with wait := .none, waitOp := 0, stamp := s.laneNow c slot + 1 }

/-- Release every warp of the group that waits on `name`. -/
def State.releaseBar (s : State) (c gslot name : Nat) : State :=
  (rangeFrom (8 * gslot) 8).foldl (fun s w =>
    match s.warp? c w with
    | none => s
    | some wp =>
      match wp.wait with
      | .barrier n _ => if n = name then s.wakeWarp c w else s
      | _ => s) s

/-- The earlier accesses of threads that are not yet locally performed. -/
def State.notLocal (s : State) (c slot uid : Nat) (ts : List Nat) : List Nat :=
  (ts.flatMap fun t => s.accessesOf c slot uid t).filter fun i => !s.doneL i

/-- The name of a barrier. -/
def barName (o : Ops) : Nat := bits (wrap o.w2 32) 0 4

/-- BAR and BARA: `waits` says whether the warp then waits. -/
def State.barArrive (s : State) (o : Ops) (waits : Bool) : Host.Outcome State Fault Refusal :=
  s.issueTx 53 o false fun c slot wp _ p s =>
    let wop := 53 + o.x * 64
    let site := siteOf wp 53 o 0 3
    match p.vals with
    | [] => s.endMoves c slot site p [] false o.brk
    | x :: _ =>
      let ts := p.vals.map (·.1)
      let g := s.groupOf c wp
      match (g.bars.getD (barName o) ⟨0, 0⟩).arrive x.2.c g.warps with
      | .flt code => s.endMoves c slot site p (ts.map fun t => (t, .flt code 0 0)) false o.brk
      | .ok b rel =>
        let before := s.notLocal c slot wp.uid ts
        let tags := s.tagWaits c ts.length
        if !before.isEmpty || !tags.isEmpty then s.yieldBefore c slot (.ordered [] before tags) wop
        else
          let s := (s.releaseThreads c slot wp.uid ts).setBar c wp.gslot (barName o) b
          let s := if rel then s.releaseBar c wp.gslot (barName o)
            else if waits then s.modWarp c slot fun w => { w with wait := .barrier (barName o) true, waitOp := wop }
            else s
          s.endMoves c slot site p [] false o.brk

def execBar (o : Ops) (s : State) : Host.Outcome State Fault Refusal := s.barArrive o true

def execBara (o : Ops) (s : State) : Host.Outcome State Fault Refusal := s.barArrive o false

def execBarw (o : Ops) (s : State) : Host.Outcome State Fault Refusal :=
  s.issueTx 53 o false fun c slot wp _ p s =>
    let busy := decide (((s.groupOf c wp).bars.getD (barName o) ⟨0, 0⟩).n ≠ 0)
    let s := if busy && !p.vals.isEmpty then
        s.modWarp c slot fun w =>
          { w with wait := .barrier (barName o) false, waitOp := 53 + o.x * 64, back := p.exec, backLen := o.form.len } else s
    s.endMoves c slot (siteOf wp 53 o 0 3) p [] false o.brk

/-! ### The phalanx barrier (13:R203, 14:R235) -/

/-- The earlier accesses of threads that are not yet globally performed. -/
def State.notGlobal (s : State) (c slot uid : Nat) (ts : List Nat) : List Nat :=
  ts.flatMap fun t => s.accessesOf c slot uid t

def execPbar (o : Ops) (s : State) : Host.Outcome State Fault Refusal :=
  s.issueTx 53 o false fun c slot wp _ p s =>
    let wop := 53 + o.x * 64
    let site := siteOf wp 53 o 0 3
    let ts := p.vals.map (·.1)
    let before := s.notGlobal c slot wp.uid ts
    if !before.isEmpty then s.yieldBefore c slot (.ordered [] [] before) wop
    else if ts.isEmpty then s.endMoves c slot site p [] false o.brk
    else
      match s.widen c with
      | none => s.yieldBefore c slot (.ordered [] [] (s.released c)) wop
      | some s =>
      let phx := (s.groupOf c wp).phx
      let s := match s.phalanx? c phx with
        | none => s
        | some ph => s.setPhalanx c phx (some { ph with arr := ph.arr + 1 })
      let s := s.modWarp c slot fun w => { w with wait := .pbar, waitOp := wop }
      (s.checkPbar c phx).endMoves c slot site p [] false o.brk

/-! ### Waiting on a word (10:R178, R179) -/

/-- What a participant of WAITV or NTFY finds before it acts. -/
inductive HomeCheck
  | ok (va pa : Nat) (ver : Bool)
  | flt (code sub addr : Nat)
  | page (va : Nat)
deriving DecidableEq, Repr

/-- A page that proved unresolvable is a fault at issue (11:R374). -/
def HomeCheck.settled (w : Warp) : HomeCheck → HomeCheck
  | .page va => if w.refused.contains va then .flt fTranslation 1 va else .page va
  | r => r

/-- Range, alignment, then translation, outside the operand log (10:R162, 11:R189, R374). -/
def State.homeCheck (s : State) (c ctx va : Nat) : HomeCheck :=
  if va ≥ 2 ^ 57 then .flt fAddressRange 0 va
  else if va % 4 ≠ 0 then .flt fMisalignedAtomic 0 va
  else
    match s.lookup c ctx va with
    | none => .page va
    | some e =>
      if !e.r then .flt fTranslation 2 va
      else
        match s.finalPa (e.trans va) with
        | none => .flt fTranslation 1 va
        | some pa => if regionOf pa = .hole then .flt fTranslation 1 va else .ok va pa e.ver

/-- A participant's access at the home: it joins the accesses in flight with its result, behind the access of the thread
before it (`prev`; 10:R163, R179). Its number and the result's. -/
def State.homeWait (s : State) (c slot op batch : Nat) (o : Ops) (wp : Warp) (dst : Option (Dst × Nat)) (prev : List Nat)
    (t va pa charge : Nat) (kind : AccKind) (b : Nat) : Nat × Nat × State :=
  let (d, n) := dst.getD (.discard, 1)
  let (rid, lands, s) := s.newResult c slot t wp d n batch false
  let a : Access :=
    { core := c, slot := slot, uid := wp.uid, thread := t, actor := actorOf c slot t, ctx := wp.ctx, kind := kind,
      va := va, pas := [pa], size := 4, parts := 1, stride := 0, ver := false, stripe := 0, b := BitVec.ofNat 128 b,
      c := 0, acq := o.t == 1, rel := o.t == 2, scope := o.sc, gambit := false, lands := lands, entry := none,
      result := some rid, afterL := prev, afterG := [], loc := none, wblk := false, wline := false, charge := [charge], hint := 0,
      site := siteOf wp op o 0 3, launch := wp.launch }
  let (id, s) := s.addAccess a
  (id, rid, s)

/-- What a participant's access moves at its home: the words of all participants in its line, of whom the lowest moves them
(10:R163). -/
def homeCharge (cs : List (Nat × HomeCheck)) (t va : Nat) : Nat :=
  let same := cs.filter fun x => match x.2 with | .ok v _ _ => decide (v / 128 = va / 128) | _ => false
  if same.any fun x => decide (x.1 < t) then 0 else min 128 (4 * same.length)

/-- The shared form of WAITV, NTFY1 and NTFYA: the warp waits until every outcome has landed. -/
def State.homeWaits (s : State) (o : Ops) (kind : Vals → AccKind) : Host.Outcome State Fault Refusal :=
  s.issueTx 53 o false fun c slot wp r p s =>
    let wop := 53 + o.x * 64
    let site := siteOf wp 53 o 0 3
    let strong := o.t == 2
    let cs := p.vals.map fun x => (x, (s.homeCheck c wp.ctx (wrap ((x.2.a : Int) + o.w2) 64)).settled wp)
    let ws := p.vals.map fun x => s.logConflicts c slot wp.uid x.1 strong [wrap ((x.2.a : Int) + o.w2) 64 / 128]
    let tags := if strong && decide (o.sc < 3) then s.tagWaits c p.vals.length else []
    let pages := cs.filterMap fun x => match x.2 with | .page va => some va | _ => none
    if (ws.any fun y => !y.1.isEmpty || !y.2.isEmpty) || !tags.isEmpty then
      s.yieldBefore c slot (.ordered (ws.flatMap (·.1)) [] (ws.flatMap (·.2) ++ tags)) wop
    else
      match pages.head? with
      | some va => s.yieldBefore c slot (.page va false) wop
      | none =>
        let (batch, s) := s.takeId
        let ms := cs.filterMap fun x => match x.2 with | .flt code sub addr => some (x.1.1, Move.flt code sub addr) | _ => none
        let (_, ids, s) := cs.foldl (fun (acc : List Nat × List Nat × State) x => match x.2 with
          | .ok va pa _ =>
            (let (id, rid, s) := acc.2.2.homeWait c slot 53 batch o wp (Ops.dst o r) acc.1 x.1.1 va pa (homeCharge (cs.map fun y => (y.1.1, y.2)) x.1.1 va)
               (kind x.1.2) x.1.2.b
             ([id], acc.2.1 ++ [rid], s))
          | _ => acc) (([] : List Nat), ([] : List Nat), s)
        let s := if ids.isEmpty then s else s.modWarp c slot fun w => { w with wait := .results ids, waitOp := wop }
        s.endMoves c slot site p ms false o.brk

def execWaitv (o : Ops) (s : State) : Host.Outcome State Fault Refusal := s.homeWaits o fun v => .waitv (v.c % 2 ^ 32)

def execNtfy1 (o : Ops) (s : State) : Host.Outcome State Fault Refusal := s.homeWaits o fun _ => .ntfy false

def execNtfya (o : Ops) (s : State) : Host.Outcome State Fault Refusal := s.homeWaits o fun _ => .ntfy true

end Sys2Proof.Machine
end

