-- ==== Sys2Proof/Machine/Engine.lean ====
section
/-! DEFINITION. The matrix engine and the tile fetch unit: formats, descriptors, panels, passes, moves, and the end of an
operation (13:R204 to R222; 14:R225 to R231; 16:R249 to R251). -/

namespace Sys2Proof.Machine

/-! ### Formats (13 Table 3, Table 4) -/

/-- DSB8, DSB6 and DSB4. -/
def isDsb (fmt : Nat) : Bool := fmt == 8 || fmt == 9 || fmt == 10

/-- Complex integers. -/
def isComplex (fmt : Nat) : Bool := fmt == 2 || fmt == 3

/-- Integer and complex integer formats. -/
def isInt (fmt : Nat) : Bool := decide (fmt ≤ 3)

/-- Bits of an element. -/
def fmtWidth (fmt : Nat) : Nat :=
  match fmt with
  | 0 => 8
  | 1 => 4
  | 2 => 16
  | 3 => 8
  | 4 => 16
  | 5 => 16
  | 6 => 32
  | 7 => 64
  | 8 => 8
  | 9 => 6
  | _ => 4

/-- K depth of a pass. -/
def fmtDepth (fmt : Nat) : Nat :=
  match fmt with
  | 0 => 128
  | 1 => 256
  | 2 => 64
  | 3 => 128
  | 4 => 32
  | 5 => 32
  | 6 => 16
  | 7 => 16
  | 8 => 128
  | 9 => 128
  | _ => 256

/-- Columns of the C tile, and rows of a B panel. -/
def fmtCols (fmt : Nat) : Nat := if isComplex fmt || fmt == 7 then 32 else 64

/-- F of a DSB format (04 Table 4). -/
def dsbFOf (fmt : Nat) : Nat := if fmt = 8 then 6 else if fmt = 9 then 4 else 2

/-- The depth of a pass of two formats (13:R209). -/
def passDepth (a b : Nat) : Nat := min (fmtDepth a) (fmtDepth b)

/-- Bytes of a panel of `rows` rows. -/
def panelBytes (fmt rows depth : Nat) : Nat := fmtWidth fmt * rows * depth / 8

/-! ### Parameter blocks (13:R221, Table 7) -/

/-- The fields of a block. -/
def MmaBlock.parse (x : Nat) : MmaBlock :=
  { ak := bit x 0, bk := bit x 1, fmtA := bits x 2 4, fmtB := bits x 6 4, ta := bit x 10, tb := bit x 11,
    conj := bit x 12, acc := bit x 13, ovp := bits x 14 2, pm := bits x 16 4, pn := bits x 20 4, pk := bits x 24 4,
    wmask := bits x 28 8, sset := bits x 36 3, c := bits x 48 5, a := bits x 56 12, b := bits x 68 12,
    arow := bits x 96 32, acol := bits x 128 32, brow := bits x 160 32, bcol := bits x 192 32 }

/-- Are the reserved fields zero? -/
def blockReserved (x : Nat) : Bool :=
  bits x 39 9 == 0 && bits x 53 3 == 0 && bits x 80 16 == 0 && bits x 224 288 == 0

/-- C tiles of an MMA. -/
def MmaBlock.tiles (k : MmaBlock) : Nat := (k.pm + 1) * (k.pn + 1)

/-- Bytes that a tile-register operand's panels take. -/
def MmaBlock.spanA (k : MmaBlock) : Nat := (k.pm + 1) * (k.pk + 1) * panelBytes k.fmtA 64 (passDepth k.fmtA k.fmtB)
def MmaBlock.spanB (k : MmaBlock) : Nat := (k.pn + 1) * (k.pk + 1) * panelBytes k.fmtB (fmtCols k.fmtB) (passDepth k.fmtA k.fmtB)

/-- Does a tile-register operand at register `r` with `span` bytes stay within `nt` tiles, and off the C tiles? -/
def MmaBlock.placed (k : MmaBlock) (nt r span : Nat) : Bool :=
  decide (r ≤ 31) && decide (16384 * r + span ≤ 16384 * nt) && !overlap (16384 * k.c) (16384 * k.tiles) (16384 * r) span

/-- The conditions of 14:R226 for `nt` tiles and `ids` identifiers. -/
def MmaBlock.legal (k : MmaBlock) (nt ids : Nat) : Bool :=
  decide (k.fmtA ≤ 10) && decide (k.fmtB ≤ 10) &&
  (k.fmtA == k.fmtB || (isDsb k.fmtA && isDsb k.fmtB)) &&
  (!isDsb k.fmtA || k.ak) && (!isDsb k.fmtB || k.bk) &&
  !(k.ta && k.ak) && !(k.tb && k.bk) &&
  (!k.conj || isComplex k.fmtA) && (k.ovp == 0 || !isInt k.fmtA) &&
  decide (k.c + k.tiles ≤ nt) &&
  (if k.ak then decide (k.a < ids) else k.placed nt k.a k.spanA) &&
  (if k.bk then decide (k.b < ids) else k.placed nt k.b k.spanB)

/-! ### Descriptors (13:R210 to R212) -/

/-- The fields of a descriptor. -/
def Desc.parse (x : Nat) : Desc :=
  { v := bit x 0, fmt := bits x 1 4, space := bits x 5 2, orient := bit x 7, ctx := bits x 16 16, base := bits x 32 64,
    sbase := bits x 96 64, rows := bits x 160 32, cols := bits x 192 32, ld := bits x 224 32, sld := bits x 256 32,
    oob := bits x 288 2 }

/-- The failure code of a descriptor at the start of an operation, in the order of 13:R212. -/
def Desc.failure (d : Desc) (ctx fmt col0 : Nat) : Option Nat :=
  if !d.v || decide (d.fmt > 10) || decide (d.space > 1) || decide (d.oob > 1) then some 1
  else if d.ctx ≠ ctx then some 3
  else if d.fmt ≠ fmt then some 2
  else if d.base % 128 ≠ 0 || d.ld % 128 ≠ 0 ||
      (if isDsb d.fmt then d.sbase % 128 ≠ 0 || d.sld % 4 ≠ 0 || d.orient || col0 % 32 ≠ 0 else decide (d.sbase ≠ 0)) then some 4
  else none

/-- Would an operation that reads to these extents reach an element out of range (OOB = 1)? -/
def Desc.strict (d : Desc) (rowEnd colEnd : Nat) : Bool := d.oob == 1 && (decide (rowEnd > d.rows) || decide (colEnd > d.cols))

/-- The first bit of an element (13:R211), as an address of bits. -/
def Desc.bitAddr (d : Desc) (row col : Nat) : Nat :=
  if d.orient then 8 * (d.base + col * d.ld) + row * fmtWidth d.fmt
  else 8 * (d.base + row * d.ld) + col * fmtWidth d.fmt

/-- The address of the scale word of an element. -/
def Desc.scaleAddr (d : Desc) (row col : Nat) : Nat := d.sbase + row * d.sld + 4 * (col / 32)

/-- Is the element in range? -/
def Desc.inside (d : Desc) (row col : Nat) : Bool := decide (row < d.rows) && decide (col < d.cols)

/-- A line by which an operation names what it fetches: from 2^60 on, a line of the weight store. An address does not wrap
(02:R32, 13:R211), and one of 2^57 or more is not translated. -/
def Desc.lineKey (d : Desc) (a : Nat) : Nat := if d.space = 1 then 2 ^ 60 + a / 128 else a / 128

/-- The lines that an extent of bits touches. -/
def Desc.linesOf (d : Desc) (lo n : Nat) : List Nat :=
  if n = 0 then [] else (rangeFrom (lo / 1024) ((lo + n - 1) / 1024 + 1 - lo / 1024)).map fun l => d.lineKey (128 * l)

/-- The lines of the panel of `R` rows and `K` columns at (row, col): those of in-range elements, and of the scale words
they need. -/
def Desc.panelLines (d : Desc) (row col R K : Nat) : List Nat :=
  let rows := min R (d.rows - row)
  let cols := min K (d.cols - col)
  if rows = 0 || cols = 0 then []
  else
    let data := if d.orient then
        (rangeFrom col cols).flatMap fun c => d.linesOf (d.bitAddr row c) (rows * fmtWidth d.fmt)
      else (rangeFrom row rows).flatMap fun r => d.linesOf (d.bitAddr r col) (cols * fmtWidth d.fmt)
    let scales := if isDsb d.fmt then
        (rangeFrom row rows).flatMap fun r => d.linesOf (8 * d.scaleAddr r col) (32 * ((cols + 31) / 32))
      else []
    (data ++ scales).eraseDups

/-! ### Passes (13:R207 to R209) -/

/-- Passes of an MMA. -/
def MmaBlock.passes (k : MmaBlock) : Nat := (k.pm + 1) * (k.pn + 1) * (k.pk + 1)

/-- Pass `n` as (i, j, k): k is innermost (13:R208). -/
def MmaBlock.passAt (k : MmaBlock) (n : Nat) : Nat × Nat × Nat :=
  (n / (k.pk + 1) / (k.pn + 1), n / (k.pk + 1) % (k.pn + 1), n % (k.pk + 1))

/-- Lines that pass `n` of an operation reads through its descriptors. -/
def EngOp.passLines (o : EngOp) (n : Nat) : List Nat :=
  match o.kind with
  | .mma b =>
    if n ≥ b.passes then []
    else
      let (i, j, q) := b.passAt n
      let K := passDepth b.fmtA b.fmtB
      let a := match o.descA with
        | some d => d.panelLines (b.arow + 64 * i) (b.acol + K * q) 64 K
        | none => []
      let R := fmtCols b.fmtB
      let bb := match o.descB with
        | some d => d.panelLines (b.brow + R * j) (b.bcol + K * q) R K
        | none => []
      (a ++ bb).eraseDups
  | .mxld _ ea lines => if n < lines then [(ea + 128 * n) / 128] else []
  | _ => []

/-- Steps of an operation: passes, lines, or the one step of MXCVT and MXEW. -/
def EngOp.steps (o : EngOp) : Nat :=
  match o.kind with
  | .mma b => b.passes
  | .mxld _ _ n => n
  | .mxst _ _ n => n
  | .mxz _ n => n
  | .mxcvt _ _ _ _ _ => 1
  | .mxew _ _ _ _ _ _ => 1

/-- Is it one of the three moves? -/
def EngOp.isMove (o : EngOp) : Bool :=
  match o.kind with
  | .mxld _ _ _ => true
  | .mxst _ _ _ => true
  | .mxz _ _ => true
  | .mma _ => false
  | .mxcvt _ _ _ _ _ => false
  | .mxew _ _ _ _ _ _ => false

/-- Bytes that MXCVT writes (14 Table 4). -/
def cvtBytes (code : Nat) : Nat :=
  if code = 0x01 || code = 0x23 then 2048 else if code = 0x00 || code = 0x10 || code = 0x22 then 4096 else 8192

/-- Tile registers, within the phalanx, that step `n` reads or writes. -/
def EngOp.registers (o : EngOp) (n : Nat) : List Nat :=
  let span := fun (a bytes : Nat) => if bytes = 0 then [] else rangeFrom (a / 16384) ((a + bytes - 1) / 16384 + 1 - a / 16384)
  match o.kind with
  | .mma b =>
    let (i, j, q) := b.passAt n
    let K := passDepth b.fmtA b.fmtB
    let pa := panelBytes b.fmtA 64 K
    let pb := panelBytes b.fmtB (fmtCols b.fmtB) K
    [b.c + i * (b.pn + 1) + j] ++
    (if b.ak then [] else span (16384 * b.a + (i * (b.pk + 1) + q) * pa) pa) ++
    (if b.bk then [] else span (16384 * b.b + (j * (b.pk + 1) + q) * pb) pb)
  | .mxld d _ _ => span (16384 * d + 128 * n) 128
  | .mxst d _ _ => span (16384 * d + 128 * n) 128
  | .mxz d _ => span (16384 * d + 128 * n) 128
  | .mxcvt d a code doff _ => a :: span (16384 * d + 128 * doff) (cvtBytes code)
  | .mxew d a b _ op _ => if op = 5 then [d, a] else [d, a, b]

/-! ### The end of an operation (13:R219, R220) -/

/-- Change a dependency slot of a group that is still there. -/
def State.modDep (s : State) (core gslot uid slot : Nat) (f : DepSlot → DepSlot) : State :=
  match s.group? core gslot with
  | none => s
  | some g => if g.uid = uid then s.setGroup core gslot { g with deps := modAt g.deps slot f } else s

/-- Completion lowers the count; a failure also sets ERR and, if it was clear, ECODE. -/
def DepSlot.ended (d : DepSlot) (fail : Option Nat) : DepSlot :=
  match fail with
  | none => { d with count := d.count - 1 }
  | some e => { d with count := d.count - 1, err := true, ecode := if d.err then d.ecode else e }

/-- Unpin a physical line. -/
def State.unpin (s : State) (pl : Nat) : State :=
  let ch := channelOf (128 * pl)
  let l := s.l2slice ch
  match l.lines.get? pl with
  | none => s
  | some t => s.setL2 ch { l with lines := l.lines.set pl { t with pins := t.pins - 1 } }

/-- Are fetched lines of the operation pinned: panel lines in memory are, an MXLD's and the weight store's are not? -/
def EngOp.pinned (o : EngOp) (key : Nat) : Bool :=
  decide (key < 2 ^ 60) && (match o.kind with | .mma _ => true | _ => false)

/-- Unpin and forget the fetched lines that do not satisfy `keep`. -/
def State.dropFetched (s : State) (cl id : Nat) (o : EngOp) (keep : Nat → Bool) : State :=
  let gone := o.fetched.filter fun x => !keep x.1
  let s := gone.foldl (fun s x => if o.pins.contains x.1 then s.unpin x.2 else s) s
  let c := s.cluster cl
  s.setCluster cl { c with ops := c.ops.set id { o with fetched := o.fetched.filter (fun x => keep x.1), pins := o.pins.filter keep } }

/-- The operation completes or fails: it leaves the table with its pins, and its slot is told. A pass in progress of one that
fails is dropped, and the engine is free (DESIGN CHOICE, log entry 91). -/
def State.opEnd (s : State) (cl id : Nat) (fail : Option Nat) : State :=
  match (s.cluster cl).ops.get? id with
  | none => s
  | some o =>
    let s := s.dropFetched cl id o fun _ => false
    let c := s.cluster cl
    let s := s.setCluster cl { c with ops := c.ops.del id, busy := if c.busy = some id then none else c.busy }
    s.modDep o.core o.gslot o.group o.sset fun d => d.ended fail

/-! ### Translation for engines (13:R213, 14:R229) -/

/-- What an engine's access to a page finds: a physical address, nothing yet, or a failure. -/
inductive EngX
  | ok (pa : Nat) (ver : Bool)
  | wait
  | bad
deriving DecidableEq, Repr

def State.xlatBy (s : State) (found : Option TlbEntry) (ctx va : Nat) (write : Bool) : EngX :=
  if va ≥ 2 ^ 57 then .bad
  else
    match found with
    | none => .wait
    | some e =>
      if (write && !e.w) || (!write && !e.r) then .bad
      else if write && s.blocked ctx va then .wait
      else
        match s.finalPa (e.trans va) with
        | none => .bad
        | some pa => if regionOf pa = .hole || regionOf pa = .registers then .bad else if s.portOpen pa ctx then .ok pa e.ver else .wait

/-- By an agent of a core's cluster, through its TLBs. -/
def State.engXlat (s : State) (core ctx va : Nat) (write : Bool) : EngX := s.xlatBy (s.lookup core ctx va) ctx va write

/-- By a slice core, which has no TLB: through the tables. -/
def State.sliceXlat (s : State) (ctx va : Nat) (write : Bool) : EngX := s.xlatBy (s.walk ctx va) ctx va write

/-- Is the page of an address not present, as a slice core finds? -/
def State.unmapped (s : State) (ctx va : Nat) : Bool := (s.walk ctx va).isNone

/-! ### The weight store (16:R249 to R251) -/

/-- Is the bank refreshing at device time `t` (16:R251)? -/
def wsRefreshing (die bank : Nat) (t : DWord) : Bool :=
  decide ((((t.toNat : Int) - (Config.wph die : Int)) % 62400) / 1950 = (bank : Int))

/-- The bank of an offset. -/
def wsBank (off : Nat) : Nat := off / 2 ^ 23

/-- Is the region named by the launch's card (16:R250)? -/
def State.wsNamed (s : State) (launch region : Nat) : Bool :=
  match s.launches.get? launch with
  | none => false
  | some l => decide (l.wslo ≤ region) && decide (region < l.wslo + l.wscnt)

/-! ### Tile memory -/

/-- Bytes of a phalanx's tile memory from `b` on. -/
def Cluster.tileRead (c : Cluster) (tbase b n : Nat) : List Byte := c.tiles.read (16384 * tbase + b) n

/-- Write tile bytes; a line written whole is no longer poisoned (24:R366). -/
def Cluster.tileWrite (c : Cluster) (tbase b : Nat) (bs : List Byte) : Cluster :=
  let a := 16384 * tbase + b
  { c with tiles := c.tiles.write a bs,
           tilePoison := c.tilePoison.filter fun l => !(decide (a ≤ 128 * l) && decide (128 * l + 128 ≤ a + bs.length)) }

/-- Is a byte of the range in a poisoned tile line? -/
def Cluster.tileBad (c : Cluster) (tbase b n : Nat) : Bool :=
  c.tilePoison.any fun l => overlap (128 * l) 128 (16384 * tbase + b) n

/-! ### Panels and sums -/

/-- The value of `w` bits at bit `a` of a byte reader. -/
def bitsAt (byte : Nat → Byte) (a w : Nat) : Nat :=
  bits (ofBytes ((rangeFrom (a / 8) ((a % 8 + w + 7) / 8)).map byte)) (a % 8) w

/-- An operand of a pass: the code of element (r, k), with its scale word for DSB; none where it is out of range. -/
abbrev Panel := Nat → Nat → Option (Nat × Nat)

/-- A panel in tile memory: `p` bytes from the phalanx's first tile (13:R206, R208). -/
def tilePanel (c : Cluster) (tbase base fmt R K : Nat) (trans : Bool) : Panel := fun r k =>
  some (bitsAt (fun b => c.tiles.get (16384 * tbase + b)) (8 * base + (if trans then k * R + r else r * K + k) * fmtWidth fmt)
    (fmtWidth fmt), 0)

/-- A panel of a tensor, from the lines read (13:R211). -/
def tensorPanel (d : Desc) (lines : Map (List Byte)) (row0 col0 : Nat) : Panel := fun r k =>
  let row := row0 + r
  let col := col0 + k
  if d.inside row col then
    let byte := fun a => ((lines.getD (d.lineKey a) []).getD (a % 128) 0)
    some (bitsAt byte (d.bitAddr row col) (fmtWidth d.fmt),
      if isDsb d.fmt then bitsAt byte (8 * d.scaleAddr row col) 32 else 0)
  else none

/-- The integer parts of an element. -/
def intElem (fmt code : Nat) : Int × Int :=
  let w := fmtWidth fmt
  if isComplex fmt then (sext code (w / 2), sext (code / 2 ^ (w / 2)) (w / 2)) else (sext code w, 0)

/-- The value of a floating-point or DSB element. -/
def fltElem (fmt : Nat) (x : Option (Nat × Nat)) : FVal :=
  match x with
  | none => .fin false 0 0
  | some (code, scale) =>
    if isDsb fmt then dsbValue (dsbFOf fmt) scale code
    else if fmt = 4 then Fmt.bf16.decode code
    else if fmt = 5 then Fmt.f16.decode code
    else if fmt = 6 then Fmt.f32.decode code
    else Fmt.f64.decode code

/-- Group size and retained width (04 Table 10). -/
def sumShape (fmt : Nat) : Nat × Nat := if isDsb fmt then (32, 30) else if fmt = 6 then (4, 60) else (16, 48)

/-- One element of a floating-point C tile: none where it overflows under policy 3. -/
def fltCell (fmtA fmtB ovp K : Nat) (a b : Panel) (m n acc : Nat) : Option Nat :=
  let xs := (List.range K).map fun k => (fltElem fmtA (a m k), fltElem fmtB (b n k))
  if fmtA = 7 then accF64 ovp acc xs
  else
    let (g, w) := sumShape fmtA
    accAll ovp w g (K / g) acc (xs.map fun x => (fmulX x.1 x.2).1)

/-- One part of an integer C tile: the exact sum. -/
def intCell (fmt K : Nat) (conj : Bool) (a b : Panel) (m n : Nat) : Int × Int :=
  (List.range K).foldl (fun (acc : Int × Int) k =>
    match a m k, b n k with
    | some (x, _), some (y, _) =>
      let (ar, ai) := intElem fmt x
      let (br, bi) := intElem fmt y
      let bi := if conj then -bi else bi
      (acc.1 + (ar * br - ai * bi), acc.2 + (ar * bi + ai * br))
    | _, _ => acc) (0, 0)

/-- Does a part leave the range of 32 bits? -/
def leaves32 (x : Int) : Bool := decide (x < -2147483648) || decide (x > 2147483647)

/-- What a pass writes: the bytes of its C tile with OVF, or none under an overflow of policy 3. -/
def passTile (b : MmaBlock) (pa pb : Panel) (old : List Byte) (fresh : Bool) : Option (List Byte × Bool) :=
  let K := passDepth b.fmtA b.fmtB
  let N := fmtCols b.fmtA
  let size := if isComplex b.fmtA || b.fmtA == 7 then 8 else 4
  let cells := (List.range (64 * N)).map fun e => (e / N, e % N, if fresh then 0 else ofBytes ((old.drop (e * size)).take size))
  if isInt b.fmtA then
    let vs := cells.map fun (m, n, acc) =>
      let (re, im) := intCell b.fmtA K b.conj pa pb m n
      if isComplex b.fmtA then
        let r := sext acc 32 + re
        let i := sext (acc / 2 ^ 32) 32 + im
        (toBytes (wrap r 32) 4 ++ toBytes (wrap i 32) 4, leaves32 r || leaves32 i)
      else
        let r := sext acc 32 + re
        (toBytes (wrap r 32) 4, leaves32 r)
    some (vs.flatMap (·.1), vs.any (·.2))
  else
    let vs := cells.map fun (m, n, acc) => fltCell b.fmtA b.fmtB b.ovp K pa pb m n acc
    if vs.any (·.isNone) then none
    else some (vs.flatMap fun v => toBytes (v.getD 0) size, false)

/-! ### Conversion and element-wise steps (14:R230, R231) -/

/-- MXCVT of the source bytes: packed bytes, or none where an element overflows under policy 3. -/
def cvtTile (code ov : Nat) (src : List Byte) : Option (List Byte) :=
  let acc := bits code 4 2
  let dst := bits code 0 4
  let size := if acc = 3 then 8 else 4
  let xs := (List.range (src.length / size)).map fun i => ofBytes ((src.drop (i * size)).take size)
  let val := fun x => if acc = 1 then Fmt.f32.decode x else if acc = 3 then Fmt.f64.decode x else FVal.ofInt (sext x 32)
  let w := if dst = 0 || dst = 2 then 8 else if dst = 1 || dst = 3 then 4 else if dst = 6 then 32 else 16
  let one := fun x =>
    match dst with
    | 4 => Fmt.bf16.cvt .rne ov (val x)
    | 5 => Fmt.f16.cvt .rne ov (val x)
    | 6 => Fmt.f32.cvt .rne ov (val x)
    | _ => cvtInt w true .rne ov (val x)
  let rs := xs.map one
  if rs.any fun r => match r with | .overflow => true | .ok _ _ => false then none
  else
    let codes := rs.map fun r => match r with | .ok v _ => v | .overflow => 0
    some (toBytes (packCodes w codes) (codes.length * w / 8))

/-- One element of MXEW. -/
def ewOn (ty op ov a b : Nat) : Option Nat :=
  if ty = 0 then
    some (match op with
      | 0 => wrap ((a + b : Nat) : Int) 32
      | 1 => wrap ((a : Int) - b) 32
      | 2 => wrap ((a * b : Nat) : Int) 32
      | 3 => if sext b 32 < sext a 32 then b else a
      | 4 => if sext a 32 < sext b 32 then b else a
      | _ => if sext a 32 < 0 then 0 else a)
  else
    let f := if ty = 1 then Fmt.f32 else Fmt.f64
    let x := f.decode a
    let y := f.decode b
    match op with
    | 0 => accRound f ov (faddX .rne x y).1
    | 1 => accRound f ov (faddX .rne x y.negate).1
    | 2 => accRound f ov (fmulX x y).1
    | 3 => some (f.minmax false a b).v
    | 4 => some (f.minmax true a b).v
    | _ => some (f.minmax true a 0).v

/-- MXEW of two tiles. -/
def ewTile (ty op ov : Nat) (a b : List Byte) : Option (List Byte) :=
  let size := if ty = 2 then 8 else 4
  let vs := (List.range (16384 / size)).map fun i =>
    ewOn ty op ov (ofBytes ((a.drop (i * size)).take size)) (ofBytes ((b.drop (i * size)).take size))
  if vs.any (·.isNone) then none else some (vs.flatMap fun v => toBytes (v.getD 0) size)

end Sys2Proof.Machine
end

