-- ==== Sys2Proof/Machine/Cluster.lean ====
section
/-! DEFINITION. The cluster instructions (chapter 14) and the events of the engine and the tile fetch unit. -/

namespace Sys2Proof.Machine

def fIllegalOperand : Nat := 2

/-! ### Issue of an engine operation (14:R224, R225; 13:R215, R219) -/

/-- Tile registers of a warp's phalanx: base and count. -/
def State.tilesOf (s : State) (c : Nat) (wp : Warp) : Nat × Nat :=
  match s.phalanx? c (s.groupOf c wp).phx with
  | some p => (p.tbase, p.tcount)
  | none => (0, 0)

/-- Reservation entries a partition may hold (13:R215). -/
def State.opLimit (s : State) (c : Nat) (g : Group) : Nat :=
  2 * max (match (s.core c).quotas.get? g.part with | some q => q.tcnt | none => 0) 1

/-- Is no reservation entry, or no count, available? -/
def State.engineFull (s : State) (c : Nat) (wp : Warp) (sset : Nat) : Bool :=
  let g := s.groupOf c wp
  let ops := (s.cluster (clusterOf c)).ops
  decide (ops.length ≥ 64) || decide ((ops.filter fun e => decide (e.2.ctx = wp.ctx)).length ≥ s.opLimit c g) ||
  decide ((g.deps.getD sset DepSlot.zero).count ≥ 63)

/-- The operation takes its entry, raises its count and forms its fork edge. -/
def State.startOp (s : State) (c slot : Nat) (wp : Warp) (kind : EngKind) (wmask sset : Nat) : State :=
  let g := s.groupOf c wp
  let (tb, tc) := s.tilesOf c wp
  let before := (s.acc.filter fun e => decide (e.2.core = c) && decide (e.2.slot = slot) && decide (e.2.uid = wp.uid)).map (·.1)
  let (id, s) := s.takeId
  let o : EngOp :=
    { core := c, gslot := wp.gslot, ctx := wp.ctx, launch := wp.launch, order := id, kind := kind, wmask := wmask,
      sset := sset, tbase := tb, tcount := tc, started := false, descA := none, descB := none, next := 0,
      after_ := before ++ s.released c, fetched := [], group := g.uid }
  let k := clusterOf c
  let cl := s.cluster k
  (s.setCluster k { cl with ops := cl.ops.set id o }).modDep c wp.gslot g.uid sset fun d => { d with count := d.count + 1 }

/-- What an elected thread's instruction does: a fault, an engine operation, or a wait for accesses to its block. -/
inductive Elected
  | flt (code sub addr : Nat)
  | wait (ids : List Nat)
  | op (kind : EngKind) (wmask sset : Nat)

/-- The shared form of the engine operations: `f` reads the elected thread's values. -/
def State.engine (s : State) (o : Ops) (f : State → Nat → Nat → Warp → Vals → Elected) : Host.Outcome State Fault Refusal :=
  s.issueTx 56 o true fun c slot wp _ p s =>
    let wop := 56 + o.x * 64
    let site := siteOf wp 56 o 0 3
    match p.vals with
    | [] => s.endMoves c slot site p [] false o.brk
    | x :: _ =>
      match f s c slot wp x.2 with
      | .flt code sub addr => s.endMoves c slot site p [(x.1, .flt code sub addr)] false o.brk
      | .wait ids => s.yieldBefore c slot (.ordered [] ids []) wop
      | .op kind wmask sset =>
        if s.engineFull c wp sset then s.yieldBefore c slot .engine wop
        else (s.startOp c slot wp kind wmask sset).endMoves c slot site p [] false o.brk

/-- The fields of an engine control word: WMASK, SSET and the field NL (14 Table 2). -/
def ctlMask (o : Ops) : Nat := bits (wrap o.w2 32) 0 8
def ctlSlot (o : Ops) : Nat := bits (wrap o.w2 32) 8 3
def ctlLines (o : Ops) : Nat := bits (wrap o.w2 32) 12 12 + 1

/-- Where a 64-byte image stands in the group's rows: alignment, then range (14:R226). -/
def imageCheck (rows : Nat) (sa : Int) : Option (Nat × Nat) :=
  if sa % 64 ≠ 0 then some (fMisaligned, wrap sa 64)
  else if sa < 0 || (128 * rows : Nat) < sa + 64 then some (fScratchRange, wrap sa 64)
  else none

/-- The accesses of a warp to rows of an image that are not performed: its read comes after them (10:R163, 18:R286). -/
def State.imageWaits (s : State) (c slot : Nat) (wp : Warp) (ts : List Nat) (sa n : Nat) : List Nat :=
  let g := s.groupOf c wp
  s.scratchPending c slot wp.uid ts (rangeFrom (g.scratchBase + sa / 128) ((sa + n - 1) / 128 + 1 - sa / 128))

/-- The image of 64 bytes at `sa`. -/
def State.image (s : State) (c : Nat) (g : Group) (sa : Nat) : Nat :=
  (s.core c).scratch.readNat (128 * g.scratchBase + sa) 64

/-- Identifiers of a context: first and count (13:R210). -/
def State.tdRange (s : State) (ctx : Nat) : Nat × Nat :=
  match s.ctx? ctx with
  | some x => (x.claim.tdlo, x.claim.tdcnt)
  | none => (0, 0)

/-- MMA (14:R226). A poisoned row of the block is a DATA_POISON (24:R366). -/
def execMma (o : Ops) (s : State) : Host.Outcome State Fault Refusal :=
  s.engine o fun s c slot wp v =>
    let g := s.groupOf c wp
    let sa : Int := (v.a : Int) + o.w2
    match imageCheck g.scratchCount sa with
    | some (code, addr) => .flt code 0 addr
    | none =>
      let before := s.imageWaits c slot wp (List.range 32) sa.toNat 64
      if !before.isEmpty then .wait before
      else
      let x := s.image c g sa.toNat
      let b := MmaBlock.parse x
      if (s.core c).scratchBad (128 * g.scratchBase + sa.toNat) 64 then .flt fDataPoison 0 sa.toNat
      else if !blockReserved x || !b.legal (s.tilesOf c wp).2 (s.tdRange wp.ctx).2 then .flt fIllegalOperand 0 sa.toNat
      else .op (.mma b) b.wmask b.sset

/-- Does a move of `n` lines from tile register `d` stay within the phalanx's tiles (14:R229)? -/
def moveFits (nt d n : Nat) : Bool := decide (16384 * d + 128 * n ≤ 16384 * nt)

/-- The checks of MXLD and MXST. -/
def moveCheck (nt d n ea : Nat) : Option (Nat × Nat) :=
  if !moveFits nt d n then some (fIllegalOperand, 0)
  else if ea ≥ 2 ^ 57 then some (fAddressRange, ea)
  else if ea % 128 ≠ 0 then some (fMisaligned, ea)
  else none

def execMxld (o : Ops) (s : State) : Host.Outcome State Fault Refusal :=
  s.engine o fun s c _ wp v =>
    match moveCheck (s.tilesOf c wp).2 (rawField o.d) (ctlLines o) v.a with
    | some (code, addr) => .flt code 0 addr
    | none => .op (.mxld (rawField o.d) v.a (ctlLines o)) (ctlMask o) (ctlSlot o)

def execMxst (o : Ops) (s : State) : Host.Outcome State Fault Refusal :=
  s.engine o fun s c _ wp v =>
    match moveCheck (s.tilesOf c wp).2 (rawField o.d) (ctlLines o) v.a with
    | some (code, addr) => .flt code 0 addr
    | none => .op (.mxst (rawField o.d) v.a (ctlLines o)) (ctlMask o) (ctlSlot o)

def execMxz (o : Ops) (s : State) : Host.Outcome State Fault Refusal :=
  s.engine o fun s c _ wp _ =>
    if moveFits (s.tilesOf c wp).2 (rawField o.d) (ctlLines o) then
      .op (.mxz (rawField o.d) (ctlLines o)) (ctlMask o) (ctlSlot o)
    else .flt fIllegalOperand 0 0

def execMxcvt (o : Ops) (s : State) : Host.Outcome State Fault Refusal :=
  s.engine o fun s c _ wp _ =>
    let nt := (s.tilesOf c wp).2
    let d := rawField o.d
    let a := rawField o.a
    let code := rawField o.b
    let doff := bits (wrap o.w2 32) 12 7
    let lo := 16384 * d + 128 * doff
    let n := cvtBytes code
    if decide (a ≥ nt) || decide (lo + n > 16384 * nt) || overlap lo n (16384 * a) 16384 then .flt fIllegalOperand 0 0
    else .op (.mxcvt d a code doff o.ov) (ctlMask o) (ctlSlot o)

def execMxew (o : Ops) (s : State) : Host.Outcome State Fault Refusal :=
  s.engine o fun s c _ wp _ =>
    let nt := (s.tilesOf c wp).2
    let op := bits (wrap o.w2 32) 12 4
    if decide (rawField o.d ≥ nt) || decide (rawField o.a ≥ nt) || (op ≠ 5 && decide (rawField o.b ≥ nt)) then
      .flt fIllegalOperand 0 0
    else .op (.mxew (rawField o.d) (rawField o.a) (rawField o.b) o.t op o.ov) (ctlMask o) (ctlSlot o)

/-! ### Waiting on slots and reading them (14:R232, R233) -/

/-- The slots of a mask. -/
def slotsOf (mask : Nat) : List Nat := (List.range 8).filter fun i => mask.testBit i

/-- Is COUNT zero in every slot of the mask? -/
def Group.slotsIdle (g : Group) (mask : Nat) : Bool := (slotsOf mask).all fun i => decide ((g.deps.getD i DepSlot.zero).count = 0)

/-- What MXWAIT returns: ERR bits, then OVF bits, of the selected slots. -/
def Group.slotErrors (g : Group) (mask : Nat) : Nat :=
  (slotsOf mask).foldl (fun n i =>
    let d := g.deps.getD i DepSlot.zero
    n + (if d.err then 2 ^ i else 0) + (if d.ovf then 2 ^ (8 + i) else 0)) 0

/-- The 16 bits of a slot (13 Table 5). -/
def DepSlot.bits (d : DepSlot) : Nat :=
  d.count + (if d.ovf then 2 ^ 6 else 0) + (if d.err then 2 ^ 7 else 0) + d.ecode * 2 ^ 8

/-- MXWAIT: at once where every selected slot is idle, else the warp waits after the instruction. -/
def execMxwait (o : Ops) (s : State) : Host.Outcome State Fault Refusal :=
  s.issueTx 56 o false fun c slot wp r p s =>
    let site := siteOf wp 56 o 0 3
    let mask := ctlMask o
    let ws := wp.waiters (p.vals.map (·.1)) (Ops.dst o r)
    let g := s.groupOf c wp
    let s := if ws.isEmpty then s
      else if g.slotsIdle mask then
        s.modWarp c slot fun w => w.writeAll (Ops.dst o r) (ws.map fun x => (x.thread, g.slotErrors mask, (0 : XFlags)))
      else s.modWarp c slot fun w =>
        { w with wait := .mxwait mask ws, waitOp := 56 + o.x * 64, back := p.exec, backLen := o.form.len }
    s.endMoves c slot site p [] false o.brk

/-- MXSLOT never waits: the slot is read, and with T = 1 its error fields are cleared in the same step. -/
def execMxslot (o : Ops) (s : State) : Host.Outcome State Fault Refusal :=
  s.issueTx 56 o false fun c slot wp r p s =>
    let site := siteOf wp 56 o 0 3
    if p.vals.isEmpty then s.endMoves c slot site p [] false o.brk
    else
      let i := bits (wrap o.w2 32) 0 3
      let g := s.groupOf c wp
      let v := (g.deps.getD i DepSlot.zero).bits
      let s := s.modWarp c slot fun w => w.writeAll (Ops.dst o r) (p.vals.map fun x => (x.1, v, (0 : XFlags)))
      let s := if o.t = 1 then s.modDep c wp.gslot g.uid i fun d => { d with ovf := false, err := false, ecode := 0 } else s
      s.endMoves c slot site p [] false o.brk

/-! ### Descriptors (14:R234) -/

/-- The dies that a context's claim has a cluster of. -/
def State.claimDies (s : State) (ctx : Nat) : List Nat :=
  match s.ctx? ctx with
  | none => []
  | some x => (List.range 4).filter fun d => decide (bits x.claim.cl.toNat (40 * d) 40 ≠ 0)

/-- Write a table entry on every die of the claim. -/
def State.writeDesc (s : State) (ctx i : Nat) (f : BitVec 512 → BitVec 512) : State :=
  (s.claimDies ctx).foldl (fun s d =>
    let die := s.die d
    s.setDie d { die with descs := die.descs.set i (f (die.descs.getD i 0)) }) s

/-! ### Events of the engine -/

/-- The priority of a context. -/
def State.prioOf (s : State) (ctx : Nat) : Nat := match s.ctx? ctx with | some x => x.claim.prio | none => 0

/-- Of operations, the one of the highest priority, then the oldest. -/
def State.pickOp (s : State) (ops : List (Nat × EngOp)) : Option (Nat × EngOp) :=
  ops.foldl (fun (best : Option (Nat × EngOp)) x =>
    match best with
    | none => some x
    | some b =>
      let p := s.prioOf x.2.ctx
      let q := s.prioOf b.2.ctx
      if q < p || (decide (p = q) && decide (x.2.order < b.2.order)) then some x else some b) none

/-- Is the operation's context being pre-empted from the cluster (13:R222)? -/
def Cluster.stopping (c : Cluster) (ctx : Nat) : Bool := match c.stop with | some (x, _) => decide (x = ctx) | none => false

/-- May it start: no earlier operation of its group that sets a slot of its mask is left (13:R219)? One whose context is
being pre-empted starts no more (DESIGN CHOICE, log entry 95). -/
def Cluster.startable (c : Cluster) (o : EngOp) : Bool :=
  !o.started && !c.stopping o.ctx &&
  !c.ops.any fun e => decide (e.2.order < o.order) && decide (e.2.core = o.core) && decide (e.2.gslot = o.gslot) &&
    decide (e.2.group = o.group) && o.wmask.testBit e.2.sset

/-- Have the accesses of its fork edge been performed (18:R286)? -/
def State.forked (s : State) (o : EngOp) : Bool := o.after_.all s.doneG

/-- The descriptor of an operand as the engine reads it, and its failure. -/
def State.descOf (s : State) (cl ctx i fmt col0 : Nat) : Desc × Option Nat :=
  let lo := (s.tdRange ctx).1
  let d := Desc.parse ((s.die (dieOfCluster cl)).descs.getD (lo + i) 0).toNat
  (d, d.failure ctx fmt col0)

/-- Does a descriptor with OOB = 1 fail the operation? -/
def oobFails (d : Option Desc) (rowEnd colEnd : Nat) : Bool := match d with | some d => d.strict rowEnd colEnd | none => false

/-- Start: the descriptors are read and checked once (13:R212), A's before B's, then the ranges under OOB = 1 (R211). -/
def State.opStart (s : State) (cl id : Nat) (o : EngOp) : State :=
  let put := fun (s : State) (o : EngOp) => let c := s.cluster cl; s.setCluster cl { c with ops := c.ops.set id o }
  match o.kind with
  | .mma b =>
    let a := if b.ak then some (s.descOf cl o.ctx b.a b.fmtA b.acol) else none
    let bb := if b.bk then some (s.descOf cl o.ctx b.b b.fmtB b.bcol) else none
    let K := passDepth b.fmtA b.fmtB
    let da := a.map (·.1)
    let db := bb.map (·.1)
    (match a.bind (·.2), bb.bind (·.2) with
     | some e, _ => s.opEnd cl id (some e)
     | none, some e => s.opEnd cl id (some e)
     | none, none =>
       if oobFails da (b.arow + 64 * (b.pm + 1)) (b.acol + K * (b.pk + 1)) ||
          oobFails db (b.brow + fmtCols b.fmtB * (b.pn + 1)) (b.bcol + K * (b.pk + 1)) then s.opEnd cl id (some 5)
       else put s { o with started := true, descA := da, descB := db })
  | _ => put s { o with started := true }

def execOperationStart (cluster id : Nat) (s : State) : Host.Outcome State Fault Refusal :=
  .next <|
    match (s.cluster cluster).ops.get? id with
    | none => s
    | some o => if (s.cluster cluster).startable o then s.opStart cluster id o else s

/-- Insert an operation by issue order. -/
def insertOrder (x : Nat × EngOp) : List (Nat × EngOp) → List (Nat × EngOp)
  | [] => [x]
  | y :: ys => if x.2.order < y.2.order then x :: y :: ys else y :: insertOrder x ys

/-- An operation starts in the ac in which it becomes startable (13:R216): in issue order, those that may start have
started. -/
def State.startDue (s : State) (cl : Nat) : State :=
  ((s.cluster cl).ops.foldr insertOrder []).foldl (fun s x =>
    match (s.cluster cl).ops.get? x.1 with
    | none => s
    | some o => if (s.cluster cl).startable o then s.opStart cl x.1 o else s) s

/-- The same in every cluster: what a later write of a descriptor does not reach (13:R212, Table 10). -/
def State.startAllDue (s : State) : State := s.clusters.foldl (fun s e => s.startDue e.1) s

/-- The lines an operation may fetch now: of its next three passes, or an MXLD's next line (13:R213). -/
def EngOp.wanted (o : EngOp) : List Nat :=
  match o.kind with
  | .mma _ => (List.range 3).flatMap fun i => o.passLines (o.next + i)
  | _ => o.passLines o.next

/-- Lines pinned in a slice (13:R213). -/
def L2Slice.pinned (l : L2Slice) : Nat := (l.lines.map fun e => if e.2.pins = 0 then 0 else 1).sum

/-- Would pinning a line exceed what a slice pins: it is not pinned yet, and 1,024 are? -/
def L2Slice.pinsFull (l : L2Slice) (line : Nat) : Bool :=
  decide (l.pinned ≥ 1024) && (match l.lines.get? line with | some t => decide (t.pins = 0) | none => true)

/-- Pin a line that is in its slice. -/
def State.pin (s : State) (pl : Nat) : Option State :=
  let ch := channelOf (128 * pl)
  let l := s.l2slice ch
  (l.lines.get? pl).map fun t => s.setL2 ch { l with lines := l.lines.set pl { t with pins := t.pins + 1 } }

/-- A line of an operation's tensor or move is read: from the weight store, while its bank does not refresh, or at its
L2 slice. It may fail the operation (13:R213, R220; 16:R250, R251). -/
def State.fetchLine (s : State) (cl id line : Nat) : State :=
  match (s.cluster cl).ops.get? id with
  | none => s
  | some o =>
    if !o.started || (s.cluster cl).stopping o.ctx || !s.forked o || !o.wanted.contains line || o.fetched.has line then s
    else
      let put := fun (s : State) (pl : Nat) (pins : List Nat) =>
        let c := s.cluster cl
        s.setCluster cl { c with ops := c.ops.set id { o with fetched := o.fetched.set line pl, pins := pins } }
      if 2 ^ 60 ≤ line then
        let off := 128 * (line - 2 ^ 60)
        let die := dieOfCluster cl
        if !s.wsNamed o.launch (off / 2 ^ 20) then s.opEnd cl id (some 3)
        else if wsRefreshing die (wsBank off) s.time then s
        else if (s.die die).wsPoison.contains (off / 128) then s.opEnd cl id (some 7)
        else put s (off / 128) o.pins
      else
        let s := (s.through o.core o.ctx (128 * line)).2
        match s.engXlat o.core o.ctx (128 * line) false with
        | .wait => s
        | .bad => s.opEnd cl id (some 6)
        | .ok pa _ =>
          if (o.pinned line && (s.l2slice (channelOf pa)).pinsFull (pa / 128)) ||
              s.reserved ((pa, 128) :: s.publishRanges none [pa / 128]) then s
          else
            let s := ((s.publishFor none [pa / 128]).recallDirty (pa / 128)).touchL2 pa o.ctx false
            let lost := match regionOf pa with
              | .ram => s.poisoned pa 128 || s.expanderLost pa
              | .peer p => !s.peerAlive p
              | _ => false
            if lost then s.opEnd cl id (some 7)
            else match (if o.pinned line then s.pin (pa / 128) else none) with
              | some s => put s (pa / 128) (line :: o.pins)
              | none => put s (pa / 128) o.pins

def execTileFetchLine (cluster id line : Nat) (s : State) : Host.Outcome State Fault Refusal :=
  .next (s.fetchLine cluster id line)

/-- Is the next pass, or the one step of MXCVT and MXEW, ready? -/
def State.passReady (s : State) (cl : Nat) (o : EngOp) : Bool :=
  o.started && !o.isMove && !(s.cluster cl).stopping o.ctx && s.forked o && (o.passLines o.next).all fun l => o.fetched.has l

/-- The engine grants a pass when none is in progress, once what may start has started (13:R216). -/
def execPassGrant (cluster : Nat) (s : State) : Host.Outcome State Fault Refusal :=
  .next <|
    let s := s.startDue cluster
    let c := s.cluster cluster
    if c.busy.isSome then s
    else
      match s.pickOp (c.ops.filter fun e => s.passReady cluster e.2) with
      | none => s
      | some (id, _) => s.setCluster cluster { c with busy := some id }

/-- The bytes of fetched lines; the flag says that one was lost. -/
def State.readLines (s : State) (cl : Nat) (fetched : Map Nat) : List Nat → Map (List Byte) × Bool × State
  | [] => ([], false, s)
  | k :: ks =>
    let pl := fetched.getD k 0
    let (bs, bad, s) := if 2 ^ 60 ≤ k then ((s.die (dieOfCluster cl)).ws.read (128 * pl) 128, false, s)
      else match regionOf (128 * pl) with
        | .ram => (s.mem.read (128 * pl) 128, false, s)
        | _ => s.physRead none (128 * pl) 128
    let (m, bad', s) := State.readLines s cl fetched ks
    (m.set k bs, bad || bad', s)

/-- One step of the operation is done: it ends with its last. -/
def State.stepDone (s : State) (cl id : Nat) (o : EngOp) : State :=
  let o := { o with next := o.next + 1 }
  let c := s.cluster cl
  let s := s.setCluster cl { c with ops := c.ops.set id o, busy := if c.busy = some id then none else c.busy }
  if o.next ≥ o.steps then s.opEnd cl id none
  else
    let keep := (List.range 2).flatMap fun i => o.passLines (o.next + i)
    s.dropFetched cl id o fun k => keep.contains k

/-- The panels of a pass. -/
def EngOp.panels (o : EngOp) (c : Cluster) (b : MmaBlock) (lines : Map (List Byte)) : Panel × Panel :=
  let (i, j, q) := b.passAt o.next
  let K := passDepth b.fmtA b.fmtB
  let R := fmtCols b.fmtB
  let pa := match o.descA with
    | some d => tensorPanel d lines (b.arow + 64 * i) (b.acol + K * q)
    | none => tilePanel c o.tbase (16384 * b.a + (i * (b.pk + 1) + q) * panelBytes b.fmtA 64 K) b.fmtA 64 K b.ta
  let pb := match o.descB with
    | some d => tensorPanel d lines (b.brow + R * j) (b.bcol + K * q)
    | none => tilePanel c o.tbase (16384 * b.b + (j * (b.pk + 1) + q) * panelBytes b.fmtB R K) b.fmtB R K b.tb
  (pa, pb)

/-- Does the step read a poisoned tile line? The C tile counts only where it is accumulated into. -/
def EngOp.readsBadTile (o : EngOp) (c : Cluster) : Bool :=
  match o.kind with
  | .mma b =>
    let (i, j, q) := b.passAt o.next
    let K := passDepth b.fmtA b.fmtB
    let pa := panelBytes b.fmtA 64 K
    let pb := panelBytes b.fmtB (fmtCols b.fmtB) K
    (!b.ak && c.tileBad o.tbase (16384 * b.a + (i * (b.pk + 1) + q) * pa) pa) ||
    (!b.bk && c.tileBad o.tbase (16384 * b.b + (j * (b.pk + 1) + q) * pb) pb) ||
    ((b.acc || decide (0 < q)) && c.tileBad o.tbase (16384 * (b.c + i * (b.pn + 1) + j)) 16384)
  | .mxcvt _ a _ _ _ => c.tileBad o.tbase (16384 * a) 16384
  | .mxew _ a b _ op _ => c.tileBad o.tbase (16384 * a) 16384 || (op ≠ 5 && c.tileBad o.tbase (16384 * b) 16384)
  | _ => false

/-- A pass, or the step of MXCVT or MXEW, ends (13:R207, R217; 14:R227, R230, R231). -/
def State.passEnd (s : State) (cl id : Nat) (o : EngOp) : State :=
  let c := s.cluster cl
  if o.readsBadTile c then s.opEnd cl id (some 7)
  else
    match o.kind with
    | .mma b =>
      let (lines, bad, s) := s.readLines cl o.fetched (o.passLines o.next)
      if bad then s.opEnd cl id (some 7)
      else
        let (i, j, q) := b.passAt o.next
        let t := b.c + i * (b.pn + 1) + j
        let (pa, pb) := o.panels c b lines
        (match passTile b pa pb (c.tileRead o.tbase (16384 * t) 16384) (!b.acc && decide (q = 0)) with
         | none => s.opEnd cl id (some 8)
         | some (bs, ovf) =>
           let s := s.setCluster cl ((s.cluster cl).tileWrite o.tbase (16384 * t) bs)
           let s := if ovf then s.modDep o.core o.gslot o.group o.sset fun d => { d with ovf := true } else s
           s.stepDone cl id o)
    | .mxcvt d a code doff ov =>
      let n := if bits code 4 2 = 3 then 8 else 4
      (match cvtTile code ov (c.tileRead o.tbase (16384 * a) (16384 / n * n)) with
       | none => s.opEnd cl id (some 8)
       | some bs => (s.setCluster cl (c.tileWrite o.tbase (16384 * d + 128 * doff) bs)).stepDone cl id o)
    | .mxew d a b ty op ov =>
      (match ewTile ty op ov (c.tileRead o.tbase (16384 * a) 16384) (c.tileRead o.tbase (16384 * b) 16384) with
       | none => s.opEnd cl id (some 8)
       | some bs => (s.setCluster cl (c.tileWrite o.tbase (16384 * d) bs)).stepDone cl id o)
    | _ => s

def execPassComplete (cluster : Nat) (s : State) : Host.Outcome State Fault Refusal :=
  .next <|
    let c := s.cluster cluster
    match c.busy with
    | none => s
    | some id =>
      match c.ops.get? id with
      | none => s.setCluster cluster { c with busy := none }
      | some o => s.passEnd cluster id o

/-- Does a move write tile lines? -/
def EngOp.writesTile (o : EngOp) : Bool := match o.kind with | .mxst _ _ _ => false | _ => true

/-- May the move's next line be moved: its read has returned, and no pass in progress uses a register that it writes
(14:R229)? -/
def State.moveReady (s : State) (cl : Nat) (o : EngOp) : Bool :=
  let c := s.cluster cl
  let clash := match c.busy.bind c.ops.get? with
    | none => false
    | some p => o.writesTile && decide (p.tbase = o.tbase) && (o.registers o.next).any fun r => (p.registers p.next).contains r
  o.started && o.isMove && !c.stopping o.ctx && s.forked o && !clash &&
  (match o.kind with
   | .mxld _ _ _ => (o.passLines o.next).all fun l => o.fetched.has l
   | .mxst _ ea _ => (match s.engXlat o.core o.ctx (ea + 128 * o.next) true with
      | .wait => false
      | .bad => true
      | .ok pa _ => !s.reserved (s.settleRanges none [(pa, 128)]))
   | _ => true)

/-- The actor of a move's store (16 Table 3). -/
def moveActor (cl : Nat) : Nat := 2 ^ 20 + 64 + cl

/-- One line of a move (14:R229). -/
def State.moveLine (s : State) (cl id : Nat) (o : EngOp) : State :=
  let c := s.cluster cl
  match o.kind with
  | .mxld d _ _ =>
    let (lines, bad, s) := s.readLines cl o.fetched (o.passLines o.next)
    if bad then s.opEnd cl id (some 7)
    else
      let bs := match lines with | x :: _ => x.2 | [] => List.replicate 128 0
      (s.setCluster cl ((s.cluster cl).tileWrite o.tbase (16384 * d + 128 * o.next) bs)).stepDone cl id o
  | .mxz d _ => (s.setCluster cl (c.tileWrite o.tbase (16384 * d + 128 * o.next) (List.replicate 128 0))).stepDone cl id o
  | .mxst d ea _ =>
    if c.tileBad o.tbase (16384 * d + 128 * o.next) 128 then s.opEnd cl id (some 7)
    else
      let s := (s.through o.core o.ctx (ea + 128 * o.next)).2
      (match s.engXlat o.core o.ctx (ea + 128 * o.next) true with
       | .wait => s
       | .bad => s.opEnd cl id (some 6)
       | .ok pa ver =>
         if s.expanderLost pa then s.opEnd cl id (some 7)
         else
         let bs := c.tileRead o.tbase (16384 * d + 128 * o.next) 128
         let s := (s.settleSeen none [(pa, 128)]).recallLine (pa / 128) |>.touchL2 pa o.ctx true
         if ver then
           (let (s, full) := State.verBytes (moveActor cl) 17 s pa bs
            if full then s.opEnd cl id (some 9) else s.stepDone cl id o)
         else
           (let (s, lost) := (s.clearPoison pa).physWrite pa bs
            if lost then s.opEnd cl id (some 7) else s.stepDone cl id o))
  | _ => s

def execTileLineMove (cluster : Nat) (s : State) : Host.Outcome State Fault Refusal :=
  .next <|
    let s := s.startDue cluster
    match s.pickOp ((s.cluster cluster).ops.filter fun e => s.moveReady cluster e.2) with
    | none => s
    | some (id, o) => s.moveLine cluster id o

/-! ### The TD instructions (14:R234) -/

/-- What a TD instruction does in its elected thread. -/
inductive TdRes
  | flt (code addr : Nat)
  | wait (ids : List Nat)
  | ok (s : State)

/-- The shared form of the TD instructions: the warp yields until the writes have landed. With `rel` it is a release at .dev
(18:R282). -/
def State.descInstr (s : State) (o : Ops) (rel : Bool) (f : State → Nat → Nat → Warp → Nat → Vals → TdRes) : Host.Outcome State Fault Refusal :=
  s.issueTx 57 o true fun c slot wp _ p s =>
    let site := siteOf wp 57 o 0 3
    match p.vals with
    | [] => s.endMoves c slot site p [] false o.brk
    | x :: _ =>
      match f s c slot wp x.1 x.2 with
      | .flt code addr => s.endMoves c slot site p [(x.1, .flt code 0 addr)] false o.brk
      | .wait ids => s.yieldBefore c slot (.ordered [] ids []) (57 + o.x * 64)
      | .ok s' =>
        let before := if rel then s.notGlobal c slot wp.uid [x.1] ++ s.released c else []
        if !before.isEmpty then s.yieldBefore c slot (.ordered [] [] before) (57 + o.x * 64)
        else
        let s := s'.modWarp c slot fun w => { w with wait := .results [], waitOp := 57 + o.x * 64 }
        s.endMoves c slot site p [] false o.brk

/-- TDSET: the image as it stands, CTX by the hardware; a poisoned image is a DATA_POISON (24:R366). -/
def execTdset (o : Ops) (s : State) : Host.Outcome State Fault Refusal :=
  s.descInstr o true fun s c slot wp t v =>
    let (lo, n) := s.tdRange wp.ctx
    let g := s.groupOf c wp
    let sa : Int := (v.a : Int) + o.w2
    if v.b ≥ n then .flt fIllegalOperand v.b
    else match imageCheck g.scratchCount sa with
      | some (code, addr) => .flt code addr
      | none =>
        let before := s.imageWaits c slot wp [t] sa.toNat 64
        if !before.isEmpty then .wait before
        else if (s.core c).scratchBad (128 * g.scratchBase + sa.toNat) 64 then .flt fDataPoison sa.toNat
        else
          let x := setBits (s.image c g sa.toNat) 16 16 wp.ctx
          .ok (s.startAllDue.writeDesc wp.ctx (lo + v.b) fun _ => BitVec.ofNat 512 x)

/-- TDGET: the entry of the issuing core's die. -/
def execTdget (o : Ops) (s : State) : Host.Outcome State Fault Refusal :=
  s.descInstr o false fun s c slot wp t v =>
    let (lo, n) := s.tdRange wp.ctx
    let g := s.groupOf c wp
    let sa : Int := (v.a : Int) + o.w2
    if v.b ≥ n then .flt fIllegalOperand v.b
    else match imageCheck g.scratchCount sa with
      | some (code, addr) => .flt code addr
      | none =>
        let before := s.imageWaits c slot wp [t] sa.toNat 64
        if !before.isEmpty then .wait before
        else
        let x := ((s.die (dieOf c)).descs.getD (lo + v.b) 0).toNat
        .ok (s.setCore c ((s.core c).putScratch (128 * g.scratchBase + sa.toNat) (toBytes x 64) false))

def execTdinv (o : Ops) (s : State) : Host.Outcome State Fault Refusal :=
  s.descInstr o true fun s _ _ wp _ v =>
    let (lo, n) := s.tdRange wp.ctx
    let count := wrap o.w2 32
    if v.b + count > n then .flt fIllegalOperand (max v.b n)
    else .ok ((rangeFrom (lo + v.b) count).foldl (fun s i => s.writeDesc wp.ctx i fun x => BitVec.ofNat 512 (setBits x.toNat 0 1 0)) s.startAllDue)

/-- TDCOPY copies the entry of the issuing core's die, CTX included. Where both identifiers are out of range, A, the source, is
reported (DESIGN CHOICE, log entry 99). -/
def execTdcopy (o : Ops) (s : State) : Host.Outcome State Fault Refusal :=
  s.descInstr o true fun s c _ wp _ v =>
    let (lo, n) := s.tdRange wp.ctx
    if v.a ≥ n then .flt fIllegalOperand v.a
    else if v.b ≥ n then .flt fIllegalOperand v.b
    else
      let x := (s.die (dieOf c)).descs.getD (lo + v.a) 0
      .ok (s.startAllDue.writeDesc wp.ctx (lo + v.b) fun _ => x)

end Sys2Proof.Machine
end

