-- ==== Sys2Proof/Machine/DieOps.lean ====
section
/-! DEFINITION. Copies, collectives, prefetch and the weight store (chapter 17; 16:R249 to R254; 23:R358), with the
events of the copy engines, the collective engine and the weight-store banks. -/

namespace Sys2Proof.Machine

/-! ### Instructions that hold an operand-log entry only for their faults (09:R158, 17:R261) -/

/-- The log threads of faults: with the sources read, or free values. -/
def State.faultLogs (s : State) (p : Prep) (bad : List Flt) : List LogThread × State :=
  let (free, s) := s.freeLogs p.faults
  (free ++ bad.filterMap fun f => (p.vals.find? fun x => decide (x.1 = f.thread)).map fun x =>
    ⟨f.thread, BitVec.ofNat 64 x.2.a, BitVec.ofNat 64 x.2.b, BitVec.ofNat 128 x.2.c, .faulted, none⟩, s)

/-- The end of such an instruction: the entry stays for threads that faulted. -/
def State.endLogged (s : State) (c slot : Nat) (wp : Warp) (i : Instr) (site : Site) (p : Prep) (bad : List Flt)
    (brk : Bool) : State :=
  let faults := p.faults ++ bad
  if p.windowDenied then
    (s.modWarp c slot fun w => w.nextPc (p.moving faults) site.len).conclude c slot site p.exec faults none false p.exec.length brk
  else
  let (entry, s) := s.pickEntry c
  let (log, s) := s.faultLogs p bad
  let s := s.putEntry c entry ⟨slot, wp.uid, wp.privileged p.exec, i, site.pc, log⟩
  let s := s.modWarp c slot fun w => w.nextPc (p.moving faults) site.len
  s.conclude c slot site p.exec faults (some entry) false p.exec.length brk

/-- Is the operand log full for the instruction? -/
def State.logBusy (s : State) (c slot : Nat) (wp : Warp) (p : Prep) : Bool := (s.core c).logFull slot wp.uid (wp.privileged p.exec)

/-! ### Copies (17:R262, 16:R252, R253) -/

/-- A copy descriptor (17 Table 2). -/
structure CopyDesc where
  src : Nat
  dst : Nat
  lines : Nat
  ssp : Nat
  dsp : Nat
  crec : Nat
  clean : Bool
deriving DecidableEq, Repr

def CopyDesc.parse (x : Nat) : CopyDesc :=
  { src := bits x 0 64, dst := bits x 64 64, lines := bits x 128 20 + 1, ssp := bits x 148 2, dsp := bits x 150 2,
    crec := bits x 160 64, clean := bits x 152 8 == 0 && bits x 224 32 == 0 }

/-- Is a range of lines addressable in its space, all of it (01:R16)? -/
def spaceOk (sp a lines : Nat) : Bool :=
  a % 128 == 0 && decide (a + 128 * lines ≤ if sp = 0 then 2 ^ 57 else 2 ^ 28)

/-- The conditions of 17:R262. -/
def CopyDesc.legal (d : CopyDesc) : Bool :=
  d.clean && decide (d.ssp ≤ 1) && decide (d.dsp ≤ 1) && spaceOk d.ssp d.src d.lines && spaceOk d.dsp d.dst d.lines &&
  d.crec % 16 == 0 && decide (d.crec < 2 ^ 57) && !(decide (d.ssp = d.dsp) && overlap d.src (128 * d.lines) d.dst (128 * d.lines))

/-- The copy engine of a cluster: die and number (16:R252). -/
def copyEngineOf (cl : Nat) : Nat × Nat := (dieOfCluster cl, cl % 40 % 16)

def State.copyEngine (s : State) (d e : Nat) : CopyEngine := (s.die d).engines.getD e CopyEngine.blank

def State.setCopyEngine (s : State) (d e : Nat) (k : CopyEngine) : State :=
  let die := s.die d
  s.setDie d { die with engines := die.engines.set e k }

/-- promise := t + 2,600 + ceil(1.1 × q) (16:R253). -/
def promiseAt (t : DWord) (q : Nat) : DWord := t + BitVec.ofNat 64 (2600 + (11 * q + 9) / 10)

/-- Lines not yet moved; an operation that has ended moves no more. -/
def leftOf (cs : List Copy) : Nat := (cs.map fun c => if c.status.isSome then 0 else c.lines - c.moved).sum

/-- A handle (17 Table 3). -/
def copyHandle (seq e d : Nat) : Nat := seq % 2 ^ 20 + e * 2 ^ 20 + d * 2 ^ 24 + 2 ^ 31

/-- What a handle of a context names (17:R263 to R265). -/
inductive HandleState
  | queued (ahead own : Nat)
  | replay (own : Nat)
  | ended (status : Nat)
  | stale
deriving DecidableEq, Repr

/-- Destination lines that a collective writes here, of `n` members. -/
def Coll.total (k : Coll) (n : Nat) : Nat := if k.kind = 1 then k.lines * n else k.lines

/-- The members of the stripe set that a collective's destination names: 1 while that is not known. -/
def State.members (s : State) (k : Coll) : Nat :=
  let stripe := match s.lookup (4 * k.cluster) k.ctx k.dst with | some e => e.stripe | none => k.stripe
  max 1 (bits (((s.hdie.stripes.get? stripe).getD []).getD 0 0).toNat 8 5)

/-- Lines a collective has still to write. -/
def State.collLeft (s : State) (k : Coll) : Nat := k.total (s.members k) - k.moved

/-- Look a handle up: in its engine's queue, among the replay entries, the collectives, and the engine's last 1,024
ended operations. An operation whose record is still to be written has ended. -/
def State.handleState (s : State) (ctx h : Nat) : HandleState :=
  if !bit h 31 || bits h 26 5 ≠ 0 then .stale
  else
    let k := s.copyEngine (bits h 24 2) (bits h 20 4)
    let seq := bits h 0 20
    let mine := fun (c : Copy) => decide (c.seq = seq) && decide (c.ctx = ctx)
    if k.queue.any mine then
      match (k.queue.find? mine).bind (·.status) with
      | some st => .ended st
      | none => .queued (leftOf (k.queue.takeWhile fun c => !mine c)) (leftOf ((k.queue.filter mine).take 1))
    else if k.replay.any mine then .replay (leftOf ((k.replay.filter mine).take 1))
    else
      match s.colls.find? fun c => decide (c.2.handle.toNat = h) && decide (c.2.ctx = ctx) with
      | some c =>
        match c.2.status with
        | some st => .ended st
        | none => if c.2.saved then .replay (s.collLeft c.2) else .queued 0 (s.collLeft c.2)
      | none =>
        match k.ended.find? fun e => decide (e.1 = seq) && decide (e.2.1 = ctx) with
        | some e => .ended e.2.2
        | none => .stale

/-- What CPY and COLL do in their elected thread. -/
inductive CopyAct
  | flt (code addr : Nat)
  | full
  | go (s : State) (promise : DWord) (handle : Nat)

/-- What the descriptor of `n` bytes at sa gives: a fault with its address, accesses of the warp to its bytes that come
first, or its bits. -/
inductive DescRead
  | flt (code addr : Nat)
  | wait (ids : List Nat)
  | ok (x : Nat)
deriving DecidableEq, Repr

/-- The descriptor of CPY or COLL in the group's rows: alignment, range, poison. -/
def State.copyDesc (s : State) (c slot : Nat) (wp : Warp) (sa : Int) (n : Nat) : DescRead :=
  let g := s.groupOf c wp
  if sa % n ≠ 0 then .flt fMisaligned (wrap sa 64)
  else if sa < 0 || (128 * g.scratchCount : Nat) < sa + n then .flt fScratchRange (wrap sa 64)
  else if !(s.imageWaits c slot wp (List.range 32) sa.toNat n).isEmpty then .wait (s.imageWaits c slot wp (List.range 32) sa.toNat n)
  else if (s.core c).scratchBad (128 * g.scratchBase + sa.toNat) n then .flt fDataPoison sa.toNat
  else .ok ((s.core c).scratch.readNat (128 * g.scratchBase + sa.toNat) n)

/-- Known results that the warp waits for after the instruction. -/
def State.awaitKnown (s : State) (c slot : Nat) (wp : Warp) (wop : Nat) (dst : Option (Dst × Nat)) (rs : List (Nat × List Word)) :
    State :=
  match dst with
  | none => s
  | some (d, n) =>
    let (b, s) := s.takeId
    let (ids, s) := rs.foldl (fun (acc : List Nat × State) x =>
      (let (id, _, s) := acc.2.newResult c slot x.1 wp d n b false
       (acc.1 ++ [id], s.give (some id) x.2))) (([] : List Nat), s)
    if ids.isEmpty then s else s.modWarp c slot fun w => { w with wait := .results ids, waitOp := wop }

/-- The shared form of CPY and COLL: a descriptor of `n` bytes at sa. The quad is written in the copy that each participant
holds. -/
def State.copyInstr (s : State) (i : Instr) (o : Ops) (n : Nat) (f : State → Nat → Nat → Warp → Nat → CopyAct) :
    Host.Outcome State Fault Refusal :=
  s.issueTx 58 o true fun c slot wp r p s =>
    let wop := 58 + o.x * 64
    let site := siteOf wp 58 o 0 3
    if s.logBusy c slot wp p then s.yieldBefore c slot .oplog wop
    else
      match p.vals with
      | [] => s.endLogged c slot wp i site p [] o.brk
      | x :: _ =>
        let sa : Int := (x.2.a : Int) + o.w2
        let bad := fun (code addr : Nat) => s.endLogged c slot wp i site p [⟨x.1, code, 0, addr⟩] o.brk
        match s.copyDesc c slot wp sa n with
        | .flt code addr => bad code addr
        | .wait ids => s.yieldBefore c slot (.ordered [] ids []) wop
        | .ok d =>
          match f s c slot wp d with
          | .flt code _ => bad code sa.toNat
          | .full => s.yieldBefore c slot .engine wop
          | .go s promise handle =>
            let quad := toWords promise.toNat 2 ++ [BitVec.ofNat 32 handle, 0]
            let s := s.awaitKnown c slot wp wop (Ops.dst o r) (p.parts.map fun t => (t, quad))
            s.endLogged c slot wp i site p [] o.brk

/-- The accesses of a warp in flight, and the stores that it may have acquired: the fork edge (18:R286; log entry 103). -/
def State.warpAccesses (s : State) (c slot uid : Nat) : List Nat :=
  (s.acc.filter fun e => decide (e.2.core = c) && decide (e.2.slot = slot) && decide (e.2.uid = uid)).map (·.1) ++ s.released c

/-- CPY queues its operation at the engine of its cluster. -/
def State.cpyAct (s : State) (c slot : Nat) (wp : Warp) (x : Nat) : CopyAct :=
  let d := CopyDesc.parse x
  if !d.legal then .flt fIllegalOperand 0
  else
    let (die, e) := copyEngineOf (clusterOf c)
    let k := s.copyEngine die e
    if k.queue.length ≥ 64 then .full
    else
      let (id, s) := s.takeId
      let cp : Copy :=
        { seq := k.seq, ctx := wp.ctx, cluster := clusterOf c, launch := wp.launch, src := d.src, dst := d.dst,
          ssp := d.ssp, dsp := d.dsp, lines := d.lines, moved := 0, crec := d.crec, started := false,
          after_ := s.warpAccesses c slot wp.uid, phaseSeq := id, status := none }
      let s := s.setCopyEngine die e { k with queue := k.queue ++ [cp], seq := (k.seq + 1) % 2 ^ 20 }
      .go s (promiseAt s.time (leftOf k.queue + d.lines)) (copyHandle k.seq e die)

def execCpy (o : Ops) (s : State) : Host.Outcome State Fault Refusal :=
  s.copyInstr (.cpy o) o 32 fun s c slot wp x => s.cpyAct c slot wp x

/-! ### Phases hear of ended items (20:R306) -/

/-- An arrival at destinations of open phases: `here` says of which context's phases, by the order of their opening, `hit`
which destination words. -/
def State.phaseArrive (s : State) (here : Nat → Nat → Bool) (hit : Word → Bool) (fail : Bool) : State :=
  { s with phases := s.phases.map fun e =>
      if here e.1 e.2.opened && !e.2.complete &&
          e.2.dests.any fun d => hit d.1 && decide (0 < d.2) then
        (e.1, { e.2 with dests := e.2.dests.map (fun d => if hit d.1 then (d.1, d.2 - 1) else d), fail := e.2.fail || fail })
      else e }

/-- KIND and ID of a destination word (20:R306). -/
def destKind (w : Word) : Nat := bits w.toNat 16 2
def destId (w : Word) : Nat := bits w.toNat 20 12

/-! ### The end of a copy or collective (17:R263) -/

/-- The 16 bytes of its completion record. -/
def copyRecord (status moved : Nat) (t : DWord) : List Byte := toBytes status 4 ++ toBytes moved 4 ++ toBytes t.toNat 8

/-- Is it in the host window, for a context that an unlocking TDI stops (23:R344)? -/
def State.awayShut (s : State) (ctx pa : Nat) : Bool := decide (regionOf pa = .host) && s.unlocking ctx

/-- Write bytes at a virtual address for a context, as an agent of a core's cluster or a slice core does: nothing yet, failed,
or done. -/
inductive DevWrite
  | wait
  | bad
  | done (s : State)

def State.devWrite (s : State) (core : Option Nat) (ctx va actor : Nat) (bs : List Byte) : DevWrite :=
  let s := match core with | some c => (s.through c ctx va).2 | none => s.readTables ctx va
  match (match core with | some c => s.engXlat c ctx va true | none => s.sliceXlat ctx va true) with
  | .wait => .wait
  | .bad => .bad
  | .ok pa ver =>
    if s.reserved (s.settleRanges none [(pa, bs.length)]) || s.awayShut ctx pa then .wait
    else if s.expanderLost pa then .bad
    else
      let s := ((s.settleSeen none [(pa, bs.length)]).recallLine (pa / 128)).touchHome pa ctx bs.length true
      if ver then
        let (s, full) := State.verBytes actor 17 s pa bs
        if full then .bad else .done s
      else
        let (s, lost) := s.physWrite pa bs
        if lost then .bad else .done s

/-- The actor ids of engines (16 Table 3). -/
def copyActor (d e : Nat) : Nat := 2 ^ 20 + 16 * d + e
def collActor : Nat := 2 ^ 20 + 256

/-- Try to write the record: none while its page is not resolved; a record that cannot be written is reported. -/
def State.writeRecord (s : State) (core ctx actor crec handle status moved : Nat) (ended : DWord) : Option State :=
  if crec = 0 then some s
  else
    match s.devWrite (some core) ctx crec actor (copyRecord status moved ended) with
    | .wait => none
    | .bad => some (s.post 8 ctx handle none)
    | .done s => some s

/-- An engine remembers the status of its last 1,024 operations. -/
def CopyEngine.remember (k : CopyEngine) (seq ctx status : Nat) : CopyEngine :=
  { k with ended := ((seq, ctx, status) :: k.ended).take 1024 }

/-- The head of the queue ends, once its record is written; it ended when its status was known. -/
def State.copyEnds (s : State) (d e : Nat) (c : Copy) (status : Nat) : State :=
  let c := if c.status.isSome then c else { c with ended := s.time }
  let stay := fun (s : State) =>
    let k := s.copyEngine d e
    match k.queue with
    | _ :: rest => s.setCopyEngine d e { k with queue := { c with status := some status } :: rest }
    | [] => s
  match s.writeRecord (4 * c.cluster) c.ctx (copyActor d e) c.crec (copyHandle c.seq e d) status c.moved c.ended with
  | none => stay s
  | some s =>
    let k := s.copyEngine d e
    let s := s.setCopyEngine d e ({ k with queue := k.queue.drop 1 }.remember c.seq c.ctx status)
    s.phaseArrive (fun x opened => decide (x = c.ctx) && decide (opened < c.phaseSeq))
      (fun w => destKind w == 2 && decide (bits (destId w) 8 2 = d) && decide (bits (destId w) 0 4 = e)) (status ≠ 0)

/-- A line read for a copy: a status, nothing yet, or the bytes. -/
inductive LineRead
  | wait
  | fail (status : Nat)
  | ok (bs : List Byte) (s : State)

/-- The region of a weight-store offset. -/
def State.wsRegion (s : State) (d off : Nat) : WsRegion := (s.die d).regions.getD (off / 2 ^ 20) WsRegion.blank

/-- Read a line in memory at its home for an engine. -/
def State.readLine (s : State) (core ctx va : Nat) : LineRead :=
  let s := (s.through core ctx va).2
  match s.engXlat core ctx va false with
  | .wait => .wait
  | .bad => .fail 6
  | .ok pa _ =>
    if s.reserved ((pa, 128) :: s.publishRanges none [pa / 128]) || s.awayShut ctx pa then .wait
    else
      let s := ((s.publishFor none [pa / 128]).recallDirty (pa / 128)).touchL2 pa ctx false
      let (bs, bad, s) := s.physRead none pa 128
      if bad then .fail (match regionOf pa with | .peer _ => 14 | _ => 7) else .ok bs s

/-- Read line `i` of a copy's source. -/
def State.copySource (s : State) (d : Nat) (c : Copy) (i : Nat) : LineRead :=
  let a := c.src + 128 * i
  if c.ssp = 0 then s.readLine (4 * c.cluster) c.ctx a
  else
    let r := s.wsRegion d a
    if !r.v || r.ctx ≠ c.ctx then .fail 10
    else if wsRefreshing d (wsBank a) s.time then .wait
    else if (s.die d).wsPoison.contains (a / 128) then .fail 7
    else .ok ((s.die d).ws.read a 128) s

/-- Write a line of 128 bytes at its home for an engine: a status, nothing yet, or done. -/
inductive LineWrite
  | wait
  | fail (s : State) (status : Nat)
  | ok (s : State)

def State.writeLine (s : State) (core ctx va actor : Nat) (bs : List Byte) : LineWrite :=
  let s := (s.through core ctx va).2
  match s.engXlat core ctx va true with
  | .wait => .wait
  | .bad => .fail s 6
  | .ok pa ver =>
    if s.reserved (s.settleRanges none [(pa, 128)]) || s.awayShut ctx pa then .wait
    else if s.expanderLost pa then .fail s 7
    else
      let s := ((s.settleSeen none [(pa, 128)]).recallLine (pa / 128)).touchL2 pa ctx true
      if ver then
        let (s, full) := State.verBytes actor 17 s pa bs
        if full then .fail s 11 else .ok s
      else
        let (s, lost) := (s.clearPoison pa).physWrite pa bs
        if lost then .fail s (match regionOf pa with | .peer _ => 14 | _ => 7) else .ok s

/-- Write a line of a copy's destination (16:R249, R250). -/
def State.copyDest (s : State) (d e : Nat) (c : Copy) (bs : List Byte) : LineWrite :=
  let a := c.dst + 128 * c.moved
  if c.dsp = 0 then s.writeLine (4 * c.cluster) c.ctx a (copyActor d e) bs
  else
    let r := s.wsRegion d a
    if !r.v || r.ctx ≠ c.ctx then .fail s 10
    else if r.locked then .fail s 9
    else if wsRefreshing d (wsBank a) s.time then .wait
    else
      let die := s.die d
      .ok (s.setDie d { die with ws := die.ws.write a bs, wsPoison := die.wsPoison.filter (· ≠ a / 128) })

/-- Line `i` of the head of a queue is read ahead, if it can be read now (17:R262: at some instant before its write). -/
def State.copyAhead (s : State) (d e i : Nat) (c : Copy) (rest : List Copy) : State :=
  if i ≥ c.lines || c.ahead.has i then s
  else
    match s.copySource d c i with
    | .wait => s
    | .fail _ => s
    | .ok bs s => s.setCopyEngine d e { s.copyEngine d e with queue := { c with ahead := c.ahead.set i bs } :: rest }

/-- The engine moves the next line of the head of its queue, or reads a later one ahead (16:R252, 17:R262; which, log
entry 24). -/
def State.copyLine (s : State) (d e : Nat) : State :=
  let k := s.copyEngine d e
  match k.queue with
  | [] => s
  | c :: rest =>
    match c.status with
    | some st => s.copyEnds d e c st
    | none =>
      let (early, s) := s.takeFree 1
      let (skip, s) := s.takeFree 20
      if !c.after_.all s.doneG then s
      else if early = 1 then s.copyAhead d e (c.moved + 1 + skip) c rest
      else
        match (match c.ahead.get? c.moved with | some bs => LineRead.ok bs s | none => s.copySource d c c.moved) with
        | .wait => s
        | .fail st => s.copyEnds d e c st
        | .ok bs s =>
          match s.copyDest d e c bs with
          | .wait => s
          | .fail s st => s.copyEnds d e c st
          | .ok s =>
            let c := { c with moved := c.moved + 1, started := true, ahead := c.ahead.del c.moved }
            let k := s.copyEngine d e
            let s := s.setCopyEngine d e { k with queue := c :: rest }
            if c.moved ≥ c.lines then s.copyEnds d e c 0 else s

def execCopyLine (die engine : Nat) (s : State) : Host.Outcome State Fault Refusal := .next (s.copyLine die engine)

/-! ### CPYW and CPYQ (17:R264, R265) -/

/-- CPYW: the warp waits after it; the entry serves a missed promise. -/
def execCpyw (o : Ops) (s : State) : Host.Outcome State Fault Refusal :=
  s.issueTx 58 o false fun c slot wp r p s =>
    let wop := 58 + o.x * 64
    let site := siteOf wp 58 o 0 3
    if s.logBusy c slot wp p then s.yieldBefore c slot .oplog wop
    else
      if p.windowDenied then s.denyWindow c slot site o p
      else
      let ws := p.vals.map fun x =>
        (⟨x.1, BitVec.ofNat 64 x.2.a, BitVec.ofNat 32 x.2.b, wp.landsAt x.1 (Ops.dst o r)⟩ : Waiter)
      let (entry, s) := s.pickEntry c
      let (free, s) := s.faultLogs p []
      let log := free ++ p.vals.map fun x =>
        (⟨x.1, BitVec.ofNat 64 x.2.a, BitVec.ofNat 64 x.2.b, 0, .waiting, none⟩ : LogThread)
      let s := s.putEntry c entry ⟨slot, wp.uid, wp.privileged p.exec, .cpyw o, site.pc, log⟩
      let s := s.modWarp c slot fun w =>
        let w := w.nextPc (p.moving p.faults) site.len
        if ws.isEmpty then w else { w with wait := .cpyw (ws.map fun x => (entry, x)), waitOp := wop }
      s.conclude c slot site p.exec p.faults (some entry) false p.exec.length o.brk

/-- Is a CPYW's thread settled: its operation has ended, its handle is stale, or its promise has passed? -/
def State.cpywSettled (s : State) (ctx : Nat) (w : Waiter) : Bool :=
  match s.handleState ctx w.h.toNat with
  | .ended _ => true
  | .stale => true
  | .queued _ _ => decide (w.p ≤ s.time)
  | .replay _ => decide (w.p ≤ s.time)

/-- The status a settled thread receives, unless it missed. -/
def State.cpywStatus (s : State) (ctx : Nat) (w : Waiter) : Option Nat :=
  match s.handleState ctx w.h.toNat with
  | .ended st => some st
  | .stale => some 15
  | .queued _ _ => none
  | .replay _ => none

/-- The new estimate of a handle. -/
def State.estimate (s : State) (ctx h : Nat) : Nat :=
  match s.handleState ctx h with
  | .queued ahead own => (promiseAt s.time (ahead + own)).toNat
  | .replay own => (promiseAt s.time own).toNat
  | .ended _ => 0
  | .stale => 0

def execCpyq (o : Ops) (s : State) : Host.Outcome State Fault Refusal :=
  s.issueTx 58 o false fun c slot wp r p s =>
    let wop := 58 + o.x * 64
    let site := siteOf wp 58 o 0 3
    if s.logBusy c slot wp p then s.yieldBefore c slot .oplog wop
    else
      let s := s.awaitKnown c slot wp wop (Ops.dst o r) (p.vals.map fun x => (x.1, toWords (s.estimate wp.ctx x.2.b) 2))
      s.endLogged c slot wp (.cpyq o) site p [] o.brk

/-- The site of the CPYW that an entry holds. -/
def State.cpywSite (s : State) (c entry : Nat) : Site :=
  match (s.core c).oplog.get? entry with
  | some le => ⟨le.pc, (match le.instr.lane? with | some (_, o) => o.form.len | none => 12), 58, 1, 0, 3⟩
  | none => ⟨0, 12, 58, 1, 0, 3⟩

/-- Device time reaches the promises of a waiting CPYW: its settled threads receive their statuses, and those that
missed take PROMISE_MISSED at the instruction (17:R264). -/
def State.cpywEnds (s : State) (c slot : Nat) (ws : List (Nat × Waiter)) : State :=
  match s.warp? c slot with
  | none => s
  | some wp =>
    let outs := ws.map fun w => (w, s.cpywStatus wp.ctx w.2)
    let sites := ws.map fun w => (w, s.cpywSite c w.1)
    let s := s.setWarp c slot { wp with wait := .none, waitOp := 0, stamp := s.laneNow c slot + 1 }
    let s := outs.foldl (fun (s : State) x => match x.2 with
      | some st => s.landWaiter c slot x.1.2 [BitVec.ofNat 32 st]
      | none => s) s
    let s := outs.foldl (fun (s : State) x => if x.2.isSome then s.logDone c (some x.1.1) x.1.2.thread else s) s
    let missed := sites.filter fun x => (s.cpywStatus wp.ctx x.1.2).isNone
    let s := missed.foldl (fun (s : State) x =>
      match (s.warp? c slot).bind (·.thread? x.1.2.thread) with
      | none => s
      | some th =>
        if !th.alive then s
        else
          let s := s.splitOff c slot x.1.2.thread
          s.takeFault c slot (x.2.record ⟨x.1.2.thread, 64, 0, 0⟩ false (some x.1.1) slot th.depth) x.2.pc x.2.len) s
    if missed.isEmpty then s else s.afterMove c slot (missed.map fun x => x.1.2.thread)

/-- Is a result of the warp awaited, one that lands in a uniform register or a predicate? -/
def State.awaiting (s : State) (c slot uid : Nat) : Bool :=
  s.results.any fun r => decide (r.2.core = c) && decide (r.2.slot = slot) && decide (r.2.uid = uid) && !r.2.faulted &&
    r.2.lands.any fun l => match l with | .g _ => true | .pred _ => true | .row _ => false | .nowhere => false

/-- May the CPYWs of a waiting warp end? -/
def State.cpywReady (s : State) (c slot : Nat) (wp : Warp) (ws : List (Nat × Waiter)) : Bool :=
  ws.all (fun w => s.cpywSettled wp.ctx w.2) && !s.awaiting c slot wp.uid

def execPromiseMissed (core slot : Nat) (s : State) : Host.Outcome State Fault Refusal :=
  .next <|
    match s.warp? core slot with
    | none => s
    | some wp =>
      match wp.wait with
      | .cpyw ws => if s.cpywReady core slot wp ws then s.cpywEnds core slot ws else s
      | _ => s

/-! ### Collectives (17:R266, 23:R358) -/

/-- A collective descriptor (17 Table 5a), before it has a handle. -/
def collParse (x : Nat) : Coll × Bool :=
  ({ cluster := 0, launch := 0, ctx := 0, kind := bits x 0 2, rop := bits x 2 2, etype := bits x 4 2, collid := bits x 32 32,
     src := bits x 64 64, dst := bits x 128 64, lines := bits x 192 20 + 1, crec := bits x 256 64, stripe := 0, handle := 0,
     moved := 0, saved := false, after_ := [], status := none },
   bits x 6 26 == 0 && bits x 212 44 == 0 && bits x 320 192 == 0)

/-- The checks of COLL. -/
def Coll.legal (k : Coll) : Bool :=
  decide (k.kind ≤ 2) && decide (k.rop ≤ 2) && decide (k.etype ≤ 2) && spaceOk 0 k.src k.lines && spaceOk 0 k.dst k.lines &&
  k.crec % 16 == 0 && decide (k.crec < 2 ^ 57) && !overlap k.src (128 * k.lines) k.dst (128 * k.lines)

/-- COLL takes its number from the copy engine of its cluster (log entry 24). -/
def State.collAct (s : State) (c slot : Nat) (wp : Warp) (x : Nat) : CopyAct :=
  let (k, clean) := collParse x
  if !clean || !k.legal then .flt fIllegalOperand 0
  else
    let (die, e) := copyEngineOf (clusterOf c)
    let ce := s.copyEngine die e
    let h := copyHandle ce.seq e die
    let s := s.setCopyEngine die e { ce with seq := (ce.seq + 1) % 2 ^ 20 }
    let (id, s) := s.takeId
    let k := { k with cluster := clusterOf c, launch := wp.launch, ctx := wp.ctx, handle := BitVec.ofNat 32 h,
                      after_ := s.warpAccesses c slot wp.uid }
    .go { s with colls := s.colls.set id k } (promiseAt s.time k.lines) h

def execColl (o : Ops) (s : State) : Host.Outcome State Fault Refusal :=
  s.copyInstr (.coll o) o 64 fun s c slot wp x => s.collAct c slot wp x

/-- The collective ends, once its record is written. -/
def State.collEnds (s : State) (id : Nat) (k : Coll) (status : Nat) : State :=
  let h := k.handle.toNat
  let k := if k.status.isSome then k else { k with ended := s.time }
  match s.writeRecord (4 * k.cluster) k.ctx collActor k.crec h status k.moved k.ended with
  | none => { s with colls := s.colls.set id { k with status := some status } }
  | some s =>
    let s := { s with colls := s.colls.del id }
    let ce := s.copyEngine (bits h 24 2) (bits h 20 4)
    s.setCopyEngine (bits h 24 2) (bits h 20 4) (ce.remember (bits h 0 20) k.ctx status)

/-- One element of a reduction. -/
def collElem (rop etype a b : Nat) : Nat :=
  if etype = 0 then
    (match rop with
     | 0 => wrap ((a + b : Nat) : Int) 32
     | 1 => if sext a 32 < sext b 32 then b else a
     | _ => if sext b 32 < sext a 32 then b else a)
  else
    let f := if etype = 1 then Fmt.f32 else Fmt.bf16
    match rop with
    | 0 => (f.add .rne a b).v
    | 1 => (f.minmax true a b).v
    | _ => (f.minmax false a b).v

/-- Two lines reduced element by element. -/
def collLine (rop etype : Nat) (a b : List Byte) : List Byte :=
  let n := if etype = 2 then 2 else 4
  (List.range (128 / n)).flatMap fun i =>
    toBytes (collElem rop etype (ofBytes ((a.drop (i * n)).take n)) (ofBytes ((b.drop (i * n)).take n))) n

/-- The lines of members in ascending index, reduced. -/
def collReduce (rop etype : Nat) : List (List Byte) → List Byte
  | [] => List.replicate 128 0
  | x :: xs => xs.foldl (collLine rop etype) x

/-- The local source line for destination line `l`, with the member whose line is wanted alone (all-gather). -/
def Coll.wants (k : Coll) (self l : Nat) : Nat × Option Nat :=
  if k.kind = 0 then (l, none)
  else if k.kind = 1 then (l % k.lines, some (l / k.lines))
  else (self * k.lines + l, none)

/-- The members' lines in ascending index: the local one and, for the others, 128 bytes each of what the peers sent. -/
def memberLines (n self : Nat) (own : List Byte) (data : List Byte) : List (List Byte) :=
  (List.range n).map fun i => if i = self then own else (data.drop (128 * (if i < self then i else i - 1))).take 128

/-- Source lines that go to other members (23:R358): with reduce-scatter each member's block to it, else all to all. -/
def Coll.sends (k : Coll) (n : Nat) : Nat := if k.kind = 2 then k.lines * (n - 1) else k.lines

/-- The source line sent in place `i`, and the members that get it. -/
def Coll.sendAt (k : Coll) (self n i : Nat) : Nat × List Nat :=
  let others := (List.range n).filter (· ≠ self)
  if k.kind = 2 then
    let m := others.getD (i / k.lines) 0
    (m * k.lines + i % k.lines, [m])
  else (i, others)

/-- The members of a stripe set: their peer ids by index. -/
def peerOf (set_ : List DWord) (m : Nat) : Nat := bits (set_.getD (1 + m) 0).toNat 0 8

/-- The next source line is read at its home and sent; one that is also needed here is kept, so that every member combines
the same values. -/
def State.collSend (s : State) (id : Nat) (k : Coll) (set_ : List DWord) (self n : Nat) : State :=
  let (l, ms) := k.sendAt self n k.sent
  match s.readLine (4 * k.cluster) k.ctx (k.src + 128 * l) with
  | .wait => s
  | .fail st => s.collEnds id k st
  | .ok bs s =>
    let s := ms.foldl (fun (s : State) m => s.send (.peerBlock (peerOf set_ m) k.collid l bs)) s
    let k := { k with sent := k.sent + 1, ahead := if k.kind = 2 then k.ahead else k.ahead.set l bs }
    { s with colls := s.colls.set id k }

/-- A destination line is written at its home; with the last, the other members are told. -/
def State.collWrite (s : State) (id : Nat) (k : Coll) (set_ : List DWord) (self n stripe : Nat) (bs : List Byte) : State :=
  match s.writeLine (4 * k.cluster) k.ctx (k.dst + 128 * k.moved) collActor bs with
  | .wait => s
  | .fail s st => s.collEnds id k st
  | .ok s =>
    let (l, only) := k.wants self k.moved
    let used := only.isNone || only = some self
    let k := { k with moved := k.moved + 1, stripe := stripe, ahead := if used then k.ahead.del l else k.ahead }
    let s := { s with colls := s.colls.set id k }
    if k.moved < k.total n then s
    else (((List.range n).filter (· ≠ self)).map (peerOf set_)).foldl (fun (s : State) p => s.send (.peerDone p k.collid)) s

/-- The line of this member that a destination line needs: one that was read to be sent, or, with reduce-scatter, one that is
read now; none while it may not be read. -/
def State.collOwn (s : State) (k : Coll) (l : Nat) : LineRead :=
  if k.kind = 2 then s.readLine (4 * k.cluster) k.ctx (k.src + 128 * l)
  else match k.ahead.get? l with
    | some bs => .ok bs s
    | none => .wait

/-- The next destination line of a collective, from what the peers' engines have sent for it. -/
def State.collLine (s : State) (id : Nat) (k : Coll) (set_ : List DWord) (self n stripe : Nat) (data : List Byte) : State :=
  let (l, only) := k.wants self k.moved
  if only.isSome && only ≠ some self then s.collWrite id k set_ self n stripe data
  else
    match s.collOwn k l with
    | .wait => s
    | .fail st => s.collEnds id k st
    | .ok bs s =>
      let bs := if only.isSome then bs else collReduce k.rop k.etype (memberLines n self bs data)
      s.collWrite id k set_ self n stripe bs

/-- One step of a collective (23:R358): the record of one that has ended; a source line that is sent; or a destination line,
from the `data` that the peers' engines sent for it: data of another length stands for a member whose COLL disagrees (log
entry 24). It ends when every member has written its part, and fails when one is lost before. -/
def State.collStep (s : State) (id : Nat) (k : Coll) (data : List Byte) (finished : List Nat) : State :=
  let k := { k with finished := (k.finished ++ finished).eraseDups }
  let s := { s with colls := s.colls.set id k }
  match k.status with
  | some st => s.collEnds id k st
  | none =>
    if k.saved || !k.after_.all s.doneG then s
    else
      match s.through (4 * k.cluster) k.ctx (k.dst + 128 * min k.moved (k.total (s.members k) - 1)) with
      | (none, s) => s
      | (some e, s) =>
        let set_ := (s.hdie.stripes.get? e.stripe).getD []
        let h := (set_.getD 0 0).toNat
        if e.stripe = 0 || !bit h 0 then s.collEnds id k 6
        else
          let n := bits h 8 5
          let self := bits h 16 4
          let others := (List.range n).filter (· ≠ self)
          let last := max (k.dst + 128 * k.total n) (k.src + 128 * (if k.kind = 2 then k.lines * n else k.lines))
          if others.any fun m => !s.peerAlive (peerOf set_ m) then s.collEnds id k 14
          else if decide (2 ^ 57 < last) then s.collEnds id k 6
          else
            let need := match (k.wants self k.moved).2 with | some m => if m = self then 0 else 128 | none => 128 * (n - 1)
            if k.moved ≥ k.total n && k.sent ≥ k.sends n then
              (if others.all k.finished.contains then s.collEnds id k 0 else s)
            else if data.isEmpty && decide (k.sent < k.sends n) then s.collSend id k set_ self n
            else if k.moved ≥ k.total n || (data.isEmpty && decide (need ≠ 0)) then s
            else if data.length ≠ need then s.collEnds id k 13
            else s.collLine id k set_ self n e.stripe data

def execCollectiveExchange (id : Nat) (news : PeerNews) (s : State) :
    Host.Outcome State Fault Refusal :=
  .next <|
    match s.colls.get? id with
    | none => s
    | some k => s.collStep id k news.data news.finished

/-! ### Prefetch (17:R268) -/

/-- PREF of one thread changes tags alone; what is out of range, misaligned or not translated is dropped, and so is what its
slice would not serve at once (log entry 75). -/
def State.prefetch (s : State) (c ctx ea rm : Nat) : State :=
  if ea ≥ 2 ^ 57 || ea % 128 ≠ 0 then s
  else
    match s.lookup c ctx ea with
    | none => s
    | some e =>
      let s := s.walked c ctx ea e
      if !e.r then s
      else
        match s.finalPa (e.trans ea) with
        | none => s
        | some pa =>
          match regionOf pa with
          | .ram =>
            let lines := [pa / 128]
            if !s.portOpen pa ctx || s.reserved (s.publishRanges (some c) lines) then s
            else
              let s := s.publishFor (some c) lines
              if rm = 2 then s.touchL2 pa ctx false else s.coreLine c pa ctx false false rm
          | _ => s

def execPref (o : Ops) (s : State) : Host.Outcome State Fault Refusal :=
  s.issueTx 58 o false fun c slot wp _ p s =>
    let s := p.vals.foldl (fun s x => s.prefetch c wp.ctx (wrap ((x.2.a : Int) + o.w2) 64) o.rm) s
    s.endMoves c slot (siteOf wp 58 o 0 3) p [] false o.brk

/-! ### The weight store (17:R269, R270) -/

/-- The status of WSOPEN or WSLOCK over regions `a` to `a + n − 1` of a die. The range comes first, then ownership (log
entry 25). -/
def State.wsStatus (s : State) (d ctx a n : Nat) : Nat :=
  if a + n > 256 then 3
  else
    let rs := (rangeFrom a n).map fun i => (s.die d).regions.getD i WsRegion.blank
    if rs.any fun r => !r.v || r.ctx ≠ ctx then 2
    else if rs.any fun r => decide (r.named ≠ 0) then 1
    else 0

/-- Set the state of regions. -/
def State.wsSet (s : State) (d a n : Nat) (locked : Bool) : State :=
  let die := s.die d
  s.setDie d { die with regions := (rangeFrom a n).foldl (fun (m : Map WsRegion) i =>
    m.set i { m.getD i WsRegion.blank with locked := locked }) die.regions }

/-- The shared form of WSOPEN and WSLOCK. -/
def State.wsInstr (s : State) (i : Instr) (o : Ops) (locked : Bool) : Host.Outcome State Fault Refusal :=
  s.issueTx 58 o true fun c slot wp r p s =>
    let wop := 58 + o.x * 64
    let site := siteOf wp 58 o 0 3
    if s.logBusy c slot wp p then s.yieldBefore c slot .oplog wop
    else
      match p.vals with
      | [] => s.endLogged c slot wp i site p [] o.brk
      | x :: _ =>
        let n := wrap o.w2 32
        let st := s.wsStatus (dieOf c) wp.ctx x.2.a n
        let s := if st = 0 then s.wsSet (dieOf c) x.2.a n locked else s
        let s := s.awaitKnown c slot wp wop (Ops.dst o r) (p.parts.map fun t => (t, toWords st 1))
        s.endLogged c slot wp i site p [] o.brk

def execWsopen (o : Ops) (s : State) : Host.Outcome State Fault Refusal := s.wsInstr (.wsopen o) o false

def execWslock (o : Ops) (s : State) : Host.Outcome State Fault Refusal := s.wsInstr (.wslock o) o true

/-- The start of the bank's window: the one in progress at `t`, else the next (17:R270). -/
def wsWindow (d bank : Nat) (t : DWord) : Nat :=
  let off := ((t.toNat : Int) - (Config.wph d : Int)) % 62400
  let base := (t.toNat : Int) - off
  if off < 1950 * bank + 1950 then wrap (base + 1950 * bank) 64 else wrap (base + 62400 + 1950 * bank) 64

def execWsref (o : Ops) (s : State) : Host.Outcome State Fault Refusal :=
  s.issueTx 58 o false fun c slot wp r p s =>
    let wop := 58 + o.x * 64
    let site := siteOf wp 58 o 0 3
    if s.logBusy c slot wp p then s.yieldBefore c slot .oplog wop
    else
      let v := wsWindow (dieOf c) (bits (wrap o.w2 32) 0 5) s.time
      let s := s.modWarp c slot fun w => w.writeAll (Ops.dst o r) (p.vals.map fun x => (x.1, v, (0 : XFlags)))
      s.endLogged c slot wp (.wsref o) site p [] o.brk

/-- The window of a bank begins: it is a function of device time (16:R251), so nothing else changes. -/
def execBankRefreshStart (_die _bank : Nat) (s : State) : Host.Outcome State Fault Refusal := .next s

/-- The window of a bank has ended: the tile fetches and the copies that waited at it are performed. -/
def execBankRefreshEnd (die bank : Nat) (s : State) : Host.Outcome State Fault Refusal :=
  .next <|
    if wsRefreshing die bank s.time then s
    else
      let waiting := (rangeFrom (40 * die) 40).flatMap fun cl => (s.cluster cl).ops.flatMap fun e =>
        (e.2.wanted.filter fun l => decide (2 ^ 60 ≤ l) && decide (wsBank (128 * (l - 2 ^ 60)) = bank)).map fun l => (cl, e.1, l)
      let s := waiting.foldl (fun s x => s.fetchLine x.1 x.2.1 x.2.2) s
      (List.range 16).foldl (fun s e =>
        match (s.copyEngine die e).queue with
        | [] => s
        | c :: _ =>
          let at_ := (c.ssp = 1 && !c.ahead.has c.moved && decide (wsBank (c.src + 128 * c.moved) = bank)) ||
            (c.dsp = 1 && decide (wsBank (c.dst + 128 * c.moved) = bank))
          if at_ then s.copyLine die e else s) s

end Sys2Proof.Machine
end

