-- ==== Sys2Proof/Machine/Ctx.lean ====
section
/-! DEFINITION. The tree of contexts: claims, quotas, composed translation, revocation, and what each CTX instruction or
admin card does (20:R289 to R296, R300, R311; 21:R327, R328; 09:R143; 16:R249, R255, R259). -/

namespace Sys2Proof.Machine

/-! ### The tree (20:R289) -/

/-- Is the context alive? -/
def Ctx.alive (c : Ctx) : Bool := decide (c.run ≠ 3)

/-- The alive children of a context. -/
def State.children (s : State) (p : Nat) : List (Nat × Ctx) := s.ctxs.filter fun e => decide (e.2.parent = p) && e.2.alive

/-- Levels of the tree, with the root's. -/
def treeFuel : Nat := 10

/-- Is `x` the context `p`, or a descendant of it? -/
def State.under : Nat → State → Nat → Nat → Bool
  | 0, _, _, _ => false
  | n + 1, s, p, x => decide (x = p) || (match s.ctx? x with | some c => c.alive && State.under n s p c.parent | none => false)

def State.descends (s : State) (p x : Nat) : Bool := State.under treeFuel s p x

/-- Do the context and all its ancestors have RUN 1 (21:R328)? -/
def State.chainRuns : Nat → State → Nat → Bool
  | 0, _, _ => false
  | n + 1, s, x =>
    match s.ctx? x with
    | none => false
    | some c => decide (c.run = 1) && (decide (x = 0) || State.chainRuns n s c.parent)

def State.runnable (s : State) (x : Nat) : Bool := State.chainRuns treeFuel s x

/-- Has the context, or an ancestor of it, RUN 2? -/
def State.chainSaved : Nat → State → Nat → Bool
  | 0, _, _ => false
  | n + 1, s, x =>
    match s.ctx? x with
    | none => false
    | some c => decide (c.run = 2) || (decide (x ≠ 0) && State.chainSaved n s c.parent)

/-- The context and its descendants, alive. -/
def State.subtree (s : State) (x : Nat) : List Nat := (s.ctxs.filter fun e => e.2.alive && s.descends x e.1).map (·.1)

/-! ### Claims (20:R291, Table 2) -/

/-- The fields of a claim record. -/
def Claim.parse (x : Nat) : Claim :=
  { cl := BitVec.ofNat 160 (bits x 0 160), exc := BitVec.ofNat 160 (bits x 160 160), glo := bits x 320 5,
    gcnt := bits x 328 6, rlo := bits x 336 7, rcnt := bits x 344 8, slo := bits x 352 11, scnt := bits x 368 12,
    tlo := bits x 384 5, tcnt := bits x 392 6, mem := bits x 448 64, qlo := bits x 512 12, qcnt := bits x 528 13,
    tdlo := bits x 544 12, tdcnt := bits x 560 13, wslo := bits x 576 8, wscnt := bits x 584 9, dclo := bits x 600 14,
    dccnt := bits x 616 15, phcnt := bits x 632 9, shares := bits x 648 16, own := bits x 664 16, prio := bits x 680 3,
    gang := bit x 683, tempo := bits x 684 10, rate := bits x 696 12, depth := bits x 708 13, ways := bits x 721 16 }

/-- The reserved bits of a claim record: those Table 2 does not name. -/
def claimReserved (x : Nat) : Bool :=
  bits x 325 3 == 0 && bits x 334 2 == 0 && bits x 343 1 == 0 && bits x 363 5 == 0 && bits x 380 4 == 0 &&
  bits x 389 3 == 0 && bits x 398 50 == 0 && bits x 524 4 == 0 && bits x 541 3 == 0 && bits x 556 4 == 0 &&
  bits x 573 3 == 0 && bits x 593 7 == 0 && bits x 614 2 == 0 && bits x 631 1 == 0 && bits x 641 7 == 0 &&
  bits x 694 2 == 0 && bits x 737 287 == 0

/-- Are the fields in range? -/
def Claim.inRange (c : Claim) : Bool :=
  decide (c.exc &&& ~~~c.cl = 0) && decide (c.glo + c.gcnt ≤ 32) && decide (c.rlo + c.rcnt ≤ 128) &&
  decide (c.slo + c.scnt ≤ 2048) && decide (c.tlo + c.tcnt ≤ 32) && c.mem % 4096 == 0 &&
  decide (c.qlo + c.qcnt ≤ 4096) && decide (c.tdlo + c.tdcnt ≤ 4096) && decide (c.wslo + c.wscnt ≤ 256) &&
  decide (c.dclo + c.dccnt ≤ 16384) && decide (c.phcnt ≤ 256) &&
  (c.tempo == 0 || (decide (10 ≤ c.tempo) && decide (c.tempo ≤ 1000))) && decide (c.rate ≤ 2048) &&
  decide (1 ≤ c.depth) && decide (c.depth ≤ 4096)

/-- The ranges of a claim: group slots, register rows, scratchpad rows, tile registers, queues, tensor identifiers,
weight-store regions, dependence counters. -/
def Claim.ranges (c : Claim) : List (Nat × Nat) :=
  [(c.glo, c.gcnt), (c.rlo, c.rcnt), (c.slo, c.scnt), (c.tlo, c.tcnt), (c.qlo, c.qcnt), (c.tdlo, c.tdcnt), (c.wslo, c.wscnt),
   (c.dclo, c.dccnt)]

/-- Does a range lie within another? One of nothing does. -/
def rangeIn (x p : Nat × Nat) : Bool := x.2 == 0 || (decide (p.1 ≤ x.1) && decide (x.1 + x.2 ≤ p.1 + p.2))

/-- Have two ranges nothing in common? -/
def rangeApart (x y : Nat × Nat) : Bool := x.2 == 0 || y.2 == 0 || !overlap x.1 x.2 y.1 y.2

/-- Is cluster `k` in the claim, and held exclusive? -/
def Claim.has (c : Claim) (k : Nat) : Bool := c.cl.getLsbD k
def Claim.hasExc (c : Claim) (k : Nat) : Bool := c.exc.getLsbD k

/-- The clusters of a claim. -/
def Claim.clusters (c : Claim) : List Nat := (List.range 160).filter c.has

/-- May cluster `k` be granted in this way (20:R291)? -/
def Claim.clusterOk (c p : Claim) (sibs : List Claim) (k : Nat) : Bool :=
  if !c.has k then true
  else if !p.has k then false
  else if c.hasExc k then p.hasExc k && !sibs.any (·.has k)
  else if p.hasExc k then !sibs.any (·.hasExc k)
  else !sibs.any (·.has k)

/-- Does the claim lie within what remains of the parent's, beside the other children's? -/
def Claim.within (c : Claim) (p : Ctx) (sibs : List Claim) : Bool :=
  (List.range 160).all (c.clusterOk p.claim sibs) &&
  (c.ranges.zip p.claim.ranges).all (fun x => rangeIn x.1 x.2) &&
  sibs.all (fun o => (c.ranges.zip o.ranges).all fun x => rangeApart x.1 x.2) &&
  decide (c.mem + (sibs.map (·.mem)).sum + p.memUsed ≤ p.claim.mem) &&
  decide (c.phcnt + (sibs.map (·.phcnt)).sum ≤ p.claim.phcnt)

/-- Does `c` contain `d`, in all that a grant may not take away and a revocation may not add? -/
def Claim.contains (c d : Claim) : Bool :=
  decide (d.cl &&& ~~~c.cl = 0) && decide (d.exc &&& ~~~c.exc = 0) &&
  (d.ranges.zip c.ranges).all (fun x => rangeIn x.1 x.2) && decide (d.mem ≤ c.mem) && decide (d.phcnt ≤ c.phcnt) &&
  c.gang == d.gang

/-- Phases a context holds. -/
def State.phasesHeld (s : State) (ctx : Nat) : Nat := (s.phases.filter fun e => decide (e.1 = ctx)).length

/-- Phases the children of a context have been granted. -/
def State.phasesGranted (s : State) (ctx : Nat) : Nat := ((s.children ctx).map fun e => e.2.claim.phcnt).sum

/-! ### Quota registers (20:R291, 09:R143) -/

/-- The lowest contiguous run of a range that nobody in `held` holds. -/
def freeRun (lo cnt : Nat) (held : List (Nat × Nat)) : Nat × Nat :=
  let held := held.filter fun h => decide (0 < h.2)
  let inside := fun x => held.any fun h => decide (h.1 ≤ x) && decide (x < h.1 + h.2)
  let starts := (lo :: held.map fun h => h.1 + h.2).filter fun x => decide (lo ≤ x) && decide (x < lo + cnt) && !inside x
  match minOf starts with
  | none => (lo, 0)
  | some a =>
    let ends := (lo + cnt) :: (held.map (·.1)).filter fun x => decide (a < x)
    (a, (minOf ends).getD a - a)

/-- The quota register of a context in the cores of cluster `k`: none where the cluster is not in its claim. -/
def State.quotaOf (s : State) (x k : Nat) : Option Quota :=
  match s.ctx? x with
  | none => none
  | some c =>
    if !c.alive || !c.claim.has k then none
    else
      let kids := ((s.children x).map (·.2.claim)).filter (·.has k)
      let g := freeRun c.claim.glo c.claim.gcnt (kids.map fun d => (d.glo, d.gcnt))
      let r := freeRun c.claim.rlo c.claim.rcnt (kids.map fun d => (d.rlo, d.rcnt))
      let sc := freeRun c.claim.slo c.claim.scnt (kids.map fun d => (d.slo, d.scnt))
      let t := freeRun c.claim.tlo c.claim.tcnt (kids.map fun d => (d.tlo, d.tcnt))
      some ⟨true, x, g.1, g.2, r.1, r.2, sc.1, sc.2, t.1, t.2⟩

/-- The register a context has in a core. -/
def Core.quotaIdx (k : Core) (x : Nat) : Option Nat := (k.quotas.find? fun e => e.2.v && decide (e.2.ctx = x)).map (·.1)

/-- Has the core a resident group of the context? -/
def State.residentIn (s : State) (core x : Nat) : Bool :=
  (List.range 32).any fun g => match s.group? core g with | some y => decide (y.ctx = x) | none => false

/-- Would the register of the context change in a core where a group of it is resident? -/
def State.quotaBlocked (s : State) (core x : Nat) (new : Option Quota) : Bool :=
  s.residentIn core x &&
  (match (s.core core).quotaIdx x with
   | some i => decide ((s.core core).quotas.get? i ≠ new)
   | none => new.isSome)

/-- Cores of clusters. -/
def coresOf (ks : List Nat) : List Nat := ks.flatMap fun k => rangeFrom (4 * k) 4

/-- Is some register of the context blocked in the cores of these clusters? -/
def State.quotasBlocked (s : State) (x : Nat) (ks : List Nat) : Bool :=
  ks.any fun k => (rangeFrom (4 * k) 4).any fun c => s.quotaBlocked c x (s.quotaOf x k)

/-- Is there a register for the context in each of these clusters? -/
def State.quotaRoom (s : State) (x : Nat) (ks : List Nat) : Bool :=
  ks.all fun k => ((s.core (4 * k)).quotaIdx x).isSome || ((s.core (4 * k)).quotas.free 0 8).isSome

/-- Write the context's register in the cores of a cluster, unless it would change under a resident group (dispatch then
forms it anew, log entry 47): its own, or the lowest that is free. -/
def State.programQuota (s : State) (x k : Nat) : State :=
  let new := s.quotaOf x k
  let idx := match (s.core (4 * k)).quotaIdx x with
    | some i => some i
    | none => (s.core (4 * k)).quotas.free 0 8
  match idx, (rangeFrom (4 * k) 4).any fun c => s.quotaBlocked c x new with
  | none, _ => s
  | some _, true => s
  | some i, false => (rangeFrom (4 * k) 4).foldl (fun s c =>
      let core := s.core c
      s.setCore c { core with quotas := match new with | some q => core.quotas.set i q | none => core.quotas.del i }) s

def State.programQuotas (s : State) (x : Nat) (ks : List Nat) : State := ks.foldl (fun s k => s.programQuota x k) s

/-! ### L2 entries and weight-store regions (16:R249, R255) -/

/-- Write the context's entry in every L2 slice: its own, or the lowest that is free in slice 0; with none free, entry 0
serves it. -/
def State.programL2 (s : State) (x : Nat) (c : Claim) : State :=
  let l0 := s.l2slice 0
  let idx := match l0.ctxs.find? fun e => e.1 ≠ 0 && e.2.v && decide (e.2.ctx = x) with
    | some e => some e.1
    | none => l0.ctxs.free 1 63
  match idx with
  | none => s
  | some i => (List.range 256).foldl (fun s j =>
      let l := s.l2slice j
      let occ := (l.lines.filter fun e => !e.2.zero && decide (e.2.by_ = i)).length
      s.setL2 j { l with ctxs := l.ctxs.set i ⟨true, x, c.rate, c.depth, c.depth, 0, c.ways, occ⟩ }) s

/-- The context's entries in the L2 slices go. -/
def State.dropL2 (s : State) (x : Nat) : State :=
  { s with l2 := s.l2.map fun e => (e.1, { e.2 with ctxs := e.2.ctxs.filter fun d => !(decide (d.1 ≠ 0) && decide (d.2.ctx = x)) }) }

/-- Region `r` of a die passes to a context: it is zero and OPEN (16:R249). -/
def State.giveRegion (s : State) (d r : Nat) (owner : Option Nat) : State :=
  let die := s.die d
  let same := match die.regions.get? r, owner with
    | some w, some x => w.v && decide (w.ctx = x)
    | _, _ => false
  if same then s
  else
    let out := fun (a : Nat) => decide (a < r * 2 ^ 20) || decide ((r + 1) * 2 ^ 20 ≤ a)
    s.setDie d { die with
      regions := die.regions.set r (match owner with | some x => ⟨true, false, x, 0⟩ | none => WsRegion.blank),
      ws := die.ws.filter fun c => out c.1,
      wsPoison := die.wsPoison.filter fun l => out (128 * l) }

/-- The dies of a claim. -/
def Claim.dies (c : Claim) : List Nat := (List.range 4).filter fun d => decide (bits c.cl.toNat (40 * d) 40 ≠ 0)

/-- The deepest context whose claim has region `r` of die `d`. -/
def State.regionOwner : Nat → State → Nat → Nat → Nat → Nat
  | 0, _, x, _, _ => x
  | n + 1, s, x, d, r =>
    match (s.children x).find? fun e => e.2.claim.dies.contains d && decide (e.2.claim.wslo ≤ r) &&
        decide (r < e.2.claim.wslo + e.2.claim.wscnt) with
    | some e => State.regionOwner n s e.1 d r
    | none => x

/-- Give the regions of a range, on the dies of a claim, to their owners. -/
def State.programRegions (s : State) (dies : List Nat) (lo cnt : Nat) : State :=
  dies.foldl (fun s d => (rangeFrom lo cnt).foldl (fun s r => s.giveRegion d r (some (State.regionOwner treeFuel s 0 d r))) s) s

/-- Is a region of the range named by a resident launch? -/
def State.regionNamed (s : State) (dies : List Nat) (lo cnt : Nat) : Bool :=
  dies.any fun d => (rangeFrom lo cnt).any fun r => decide (((s.die d).regions.getD r WsRegion.blank).named ≠ 0)

/-! ### Holders and tickets (20:R307) -/

/-- The deepest context that holds cluster `k` exclusive. -/
def State.holderFrom : Nat → State → Nat → Nat → Nat
  | 0, _, x, _ => x
  | n + 1, s, x, k =>
    match (s.children x).find? fun e => e.2.claim.hasExc k with
    | some e => State.holderFrom n s e.1 k
    | none => x

def State.holder (s : State) (k : Nat) : Nat := State.holderFrom treeFuel s 0 k

/-- The contexts among which cluster `k` is shared below `x`, with their effective tickets out of `eff`; with `run`, only
those that run. A parent that keeps no tickets takes no part for its own work (log entry 46). -/
def State.shareTree : Nat → State → Bool → Nat → Nat → Nat → List (Nat × Nat)
  | 0, _, _, _, _, _ => []
  | n + 1, s, run, x, k, eff =>
    match s.ctx? x with
    | none => []
    | some c =>
      if run && decide (c.run ≠ 1) then []
      else
        let kids := (s.children x).filter fun e => e.2.claim.has k && !e.2.claim.hasExc k
        if kids.isEmpty then [(x, eff)]
        else
          let t := c.claim.own + (kids.map fun e => e.2.claim.shares).sum
          let own := eff * c.claim.own / max 1 t
          (if own = 0 then [] else [(x, own)]) ++ kids.flatMap fun e => State.shareTree n s run e.1 k (max 1 (eff * e.2.claim.shares / max 1 t))

/-- Who may take part on cluster `k`, runnable, with effective tickets. -/
def State.sharers (s : State) (k : Nat) : List (Nat × Nat) :=
  let h := s.holder k
  if s.runnable h then State.shareTree treeFuel s true h k 65536 else []

/-- The tempo of a context in dt: its own, or its nearest ancestor's, or the default (20:R291, R308). -/
def State.tempoFrom : Nat → State → Nat → Nat
  | 0, _, _ => 130000
  | n + 1, s, x =>
    match s.ctx? x with
    | none => 130000
    | some c => if c.claim.tempo ≠ 0 then 1300 * c.claim.tempo else if x = 0 then 130000 else State.tempoFrom n s c.parent

def State.tempoOn (s : State) (k : Nat) : Nat := State.tempoFrom treeFuel s (s.holder k)

/-- What every cluster of a gang must have in common (20:R311): its participants with their shares, and its tempo. -/
def State.gangView (s : State) (k : Nat) : List (Nat × Nat) × Nat :=
  (State.shareTree treeFuel s false (s.holder k) k 65536, s.tempoOn k)

/-- Do all gangs have that? -/
def State.gangsOk (s : State) : Bool :=
  s.ctxs.all fun e => !e.2.alive || !e.2.claim.gang ||
    (match e.2.claim.clusters with
     | [] => true
     | k :: ks => ks.all fun j => decide (s.gangView j = s.gangView k))

/-! ### Leaves: cutting and composing (20:R293, R294) -/

/-- The largest page size up to `bound` that divides the numbers (20:R294). -/
def fitPage (bound : Nat) (xs : List Nat) : Nat :=
  (pageSizes.find? fun p => decide (p ≤ bound) && xs.all fun x => x % p == 0).getD 4096

/-- The part of a run of leaves from `lo` on, of `n` bytes, in the largest pages it permits. -/
def Leaf.piece (f : Leaf) (lo n : Nat) : Leaf :=
  let d := lo - f.va
  { f with va := lo, size := n, page := fitPage f.page [lo, n, f.pa + d], pa := f.pa + d,
           shadow := if f.ver then f.shadow + 8 * d else f.shadow, up := f.up.map (· + d) }

/-- What is left of a leaf without [a, a + n). -/
def Leaf.cut (f : Leaf) (a n : Nat) : List Leaf :=
  if overlap f.va f.size a n then
    (if f.va < a then [f.piece f.va (a - f.va)] else []) ++
    (if a + n < f.va + f.size then [f.piece (a + n) (f.va + f.size - (a + n))] else [])
  else [f]

/-- What a context's MEM is charged for a leaf (20:R292). -/
def Leaf.cost (f : Leaf) : Nat := if f.ver then 9 * f.size else f.size

/-- A CTXMAP block (21 Table 7). -/
structure MapBlock where
  cva : Nat
  pva : Nat
  ext : Nat
  r : Bool
  w : Bool
  x : Bool
  ver : Bool
  ac : Bool
  stripe : Nat
  shadow : Nat
deriving DecidableEq, Repr

def MapBlock.parse (x : Nat) : MapBlock :=
  { cva := bits x 0 64, pva := bits x 64 64, ext := bits x 128 64, r := bit x 192, w := bit x 193, x := bit x 194,
    ver := bit x 195, ac := bit x 196, stripe := bits x 200 8, shadow := 4096 * bits x 208 40 }

/-- Reserved bits and ranges of a CTXMAP block (21 Table 7, R328; 23:R341, R357). -/
def MapBlock.ok (m : MapBlock) (raw : Nat) (root : Bool) : Bool :=
  bits raw 197 3 == 0 && bits raw 248 8 == 0 && m.cva % 4096 == 0 && m.pva % 4096 == 0 && m.ext % 4096 == 0 &&
  decide (m.ext ≠ 0) && decide (m.cva + m.ext ≤ 2 ^ 57) && decide (m.pva + m.ext ≤ 2 ^ 57) &&
  (if root then decide (m.pva + m.ext ≤ 0x8000000000000) && !(m.ver && decide (m.stripe ≠ 0)) && (m.ver || m.shadow == 0)
   else !m.ver && m.stripe == 0 && m.shadow == 0)

/-- The page size a mapping gives where the parent's pages have `page` bytes (20:R294). -/
def MapBlock.pageIn (m : MapBlock) (page : Nat) : Nat := fitPage page [m.cva, m.pva, m.ext]

/-- The child's runs of leaves over an extent, each within one run of the parent; none where the parent maps nothing. -/
def composeFrom (look : Nat → Option Leaf) (m : MapBlock) : Nat → Nat → Option (List Leaf)
  | 0, off => if off ≥ m.ext then some [] else none
  | fuel + 1, off =>
    if off ≥ m.ext then some []
    else
      match look (m.pva + off) with
      | none => none
      | some f =>
        if !f.v then none
        else
          let d := m.pva + off - f.va
          let n := min (m.ext - off) (f.size - d)
          let g : Leaf :=
            { va := m.cva + off, size := n, page := m.pageIn f.page, pa := f.pa + d, v := true, r := m.r && f.r, w := m.w && f.w, x := m.x && f.x,
              ver := f.ver, wblk := f.wblk, ac := m.ac, shadow := if f.ver then f.shadow + 8 * d else 0, stripe := f.stripe,
              up := some (m.pva + off) }
          (composeFrom look m fuel (off + n)).map fun rest => g :: rest

/-- May the words of a mapping's pages have their records there: no translation maps the region, nor is it the slice kernels'
own (16:R246)? -/
def State.shadowFree (s : State) (m : MapBlock) : Bool :=
  !overlap m.shadow (8 * m.ext) s.kern s.kernSize && !overlap m.shadow (8 * m.ext) m.pva m.ext &&
  !s.ctxs.any fun c => c.2.leaves.any fun f => f.v && f.stripe == 0 && overlap m.shadow (8 * m.ext) f.pa f.size

/-- The leaves that a CTXMAP in `p` gives. The root's map is the identity on memory, but for the slice kernels' own and
shadow regions (16:R246), in pages of 1 GiB (20:R290), so that
one run serves; VER, SHADOW and STRIPE are the root's to give, and with a stripe set the parent address is the offset in
it. -/
def State.compose (s : State) (p : Nat) (m : MapBlock) : Option (List Leaf) :=
  if p = 0 then
    let mapped := (decide (m.pva + m.ext ≤ 0x8000000000) ||
      (decide (0x10000000000 ≤ m.pva) && decide (m.pva + m.ext ≤ 0x90000000000))) && !s.hidden m.pva m.ext
    if m.stripe = 0 && !mapped then none
    else some [⟨m.cva, m.ext, m.pageIn (if m.stripe = 0 then 2 ^ 30 else 2 ^ 34), m.pva, true, m.r, m.w, m.x, m.ver, false, m.ac,
      if m.ver then m.shadow else 0, m.stripe, some m.pva⟩]
  else
    let n := match s.ctx? p with | some c => c.leaves.length | none => 0
    composeFrom (s.leafAt p) m (n + 1) 0

/-! ### Revocation (20:R295, R296; 16:R259) -/

/-- The mapped parts of [a, a + n) in a context, and of every descendant's addresses derived from them, as the reverse map
has it (20:R294). -/
def State.removedFrom : Nat → State → Nat → Nat → Nat → List (Nat × Nat × Nat)
  | 0, _, _, _, _ => []
  | fuel + 1, s, x, a, n =>
    match s.ctx? x with
    | none => []
    | some c =>
      let mine := (c.leaves.filter fun f => overlap f.va f.size a n).map fun f =>
        (max f.va a, min (f.va + f.size) (a + n) - max f.va a)
      let below := mine.flatMap fun r => (s.children x).flatMap fun e =>
        e.2.leaves.flatMap fun f => match f.up with
          | none => []
          | some up =>
            if overlap up f.size r.1 r.2 then
              let lo := max up r.1
              let hi := min (up + f.size) (r.1 + r.2)
              State.removedFrom fuel s e.1 (f.va + (lo - up)) (hi - lo)
            else []
      (mine.map fun r => (x, r.1, r.2)) ++ below

/-- Does a range of a context cover an address? -/
def covers (rs : List (Nat × Nat × Nat)) (ctx va : Nat) : Bool :=
  rs.any fun r => decide (r.1 = ctx) && decide (r.2.1 ≤ va) && decide (va < r.2.1 + r.2.2)

/-- Drop the TLB entries of ranges in every TLB (16:R259). -/
def State.dropTlb (s : State) (rs : List (Nat × Nat × Nat)) : State :=
  let keep := fun (e : TlbEntry) => !rs.any fun r => decide (r.1 = e.ctx) && overlap r.2.1 r.2.2 e.va e.size
  { s with cores := s.cores.map fun e => (e.1, { e.2 with tlb := e.2.tlb.filter keep }),
           clusters := s.clusters.map fun e => (e.1, { e.2 with tlb := e.2.tlb.filter keep }) }

/-- Slice core `by_` removes ranges from the tables of their contexts (20:R295, step 2). -/
def State.cutLeaves (s : State) (by_ : Nat) (rs : List (Nat × Nat × Nat)) : State :=
  rs.foldl (fun s r => match s.ctx? r.1 with
    | none => s
    | some c =>
      let gone := (c.leaves.filter fun f => overlap f.va f.size r.2.1 r.2.2).map fun f =>
        (f.piece (max f.va r.2.1) (min (f.va + f.size) (r.2.1 + r.2.2) - max f.va r.2.1)).cost
      (s.setLeaves by_ r.1 (c.leaves.flatMap fun f => f.cut r.2.1 r.2.2)).freeMem r.1 gone.sum) s

/-- Do ranges of a context meet some of these? -/
def meets (rs : List (Nat × Nat × Nat)) (ctx : Nat) (spans : List (Nat × Nat)) : Bool :=
  rs.any fun r => decide (r.1 = ctx) && spans.any fun x => decide (0 < x.2) && overlap r.2.1 r.2.2 x.1 x.2

/-- Does an access use a translation of ranges? -/
def Access.uses (a : Access) (rs : List (Nat × Nat × Nat)) : Bool := a.vas.any (covers rs a.ctx)

/-- What a copy has still to move, in memory. -/
def Copy.spans (c : Copy) : List (Nat × Nat) :=
  let n := 128 * (c.lines - c.moved)
  (if c.ssp = 0 then [(c.src + 128 * c.moved, n)] else []) ++ (if c.dsp = 0 then [(c.dst + 128 * c.moved, n)] else [])

/-- The next line of a copy. -/
def Copy.nextSpans (c : Copy) : List (Nat × Nat) := c.spans.map fun x => (x.1, min 128 x.2)

/-- What a collective of `n` members has still to read here and to write, this device being member `self`: its destination;
the source lines still to be sent; with reduce-scatter, of its own block and of each other member's. -/
def Coll.spans (k : Coll) (n self : Nat) : List (Nat × Nat) :=
  let left := k.total n - k.moved
  (k.dst + 128 * k.moved, 128 * left) ::
    (if k.kind = 2 then
      (k.src + 128 * (self * k.lines + k.moved), 128 * left) ::
        (List.range (n - 1)).map fun i =>
          let done := min k.lines (k.sent - i * k.lines)
          (k.src + 128 * ((if i < self then i else i + 1) * k.lines + done), 128 * (k.lines - done))
     else [(k.src + 128 * k.sent, 128 * (k.lines - k.sent))])

/-- The member of its stripe set that this device is, for a collective. -/
def State.selfIn (s : State) (k : Coll) : Nat :=
  let stripe := match s.lookup (4 * k.cluster) k.ctx k.dst with | some e => e.stripe | none => k.stripe
  bits (((s.hdie.stripes.get? stripe).getD []).getD 0 0).toNat 16 4

/-- The spans of a collective on this device. -/
def State.collSpans (s : State) (k : Coll) : List (Nat × Nat) := k.spans (s.members k) (s.selfIn k)

/-- The next lines of each of them: what a collective reads or writes next. -/
def State.collNext (s : State) (k : Coll) : List (Nat × Nat) :=
  let n := s.members k
  let self := s.selfIn k
  (if k.moved < k.total n then [(k.dst + 128 * k.moved, 128)] else []) ++
  (if k.kind = 2 && decide (k.moved < k.total n) then [(k.src + 128 * (self * k.lines + k.moved), 128)] else []) ++
  (if k.sent < k.sends n then [(k.src + 128 * (k.sendAt self n k.sent).1, 128)] else [])

/-- Does an engine operation wait at a page of ranges for a line it needs next? -/
def EngOp.waits (o : EngOp) (rs : List (Nat × Nat × Nat)) : Bool :=
  o.started && ((o.passLines o.next).any (fun l => !o.fetched.has l && covers rs o.ctx (128 * l)) ||
    (match o.kind with | .mxst _ ea _ => covers rs o.ctx (ea + 128 * o.next) | _ => false))

/-- The recorded items whose translation is in ranges (20:R295, step 3): waiting accesses, the copies that engines are
moving, collectives, engine operations. -/
def State.waitingIn (s : State) (rs : List (Nat × Nat × Nat)) : Map Access :=
  s.acc.filter fun e => e.2.pas.isEmpty && e.2.uses rs

def State.copiesIn (s : State) (rs : List (Nat × Nat × Nat)) : List (Nat × Nat × Copy) :=
  s.dies.flatMap fun d => d.2.engines.filterMap fun e => match e.2.queue with
    | c :: _ => if c.status.isNone && meets rs c.ctx c.nextSpans then some (d.1, e.1, c) else none
    | [] => none

def State.collsIn (s : State) (rs : List (Nat × Nat × Nat)) : Map Coll :=
  s.colls.filter fun e => !e.2.saved && e.2.status.isNone && meets rs e.2.ctx (s.collNext e.2)

def State.opsIn (s : State) (rs : List (Nat × Nat × Nat)) : List (Nat × Nat × EngOp) :=
  s.clusters.flatMap fun k => (k.2.ops.filter fun o => o.2.waits rs).map fun o => (k.1, o.1, o.2)

/-- The context and item that a report of each of them names (20:R297). -/
def State.failedItems (s : State) (rs : List (Nat × Nat × Nat)) : List (Nat × Nat) :=
  ((s.waitingIn rs).map fun e => (e.2.ctx, handleOf e.2.entry e.2.thread)) ++
  ((s.copiesIn rs).map fun e => (e.2.2.ctx, copyHandle e.2.2.seq e.2.1 e.1)) ++
  ((s.collsIn rs).map fun e => (e.2.ctx, e.2.handle.toNat)) ++ ((s.opsIn rs).map fun e => (e.2.2.ctx, 0))

/-- A report of each failed item goes to the queue of its context (20:R295, step 4). -/
def State.report (s : State) (items : List (Nat × Nat)) : State := items.foldl (fun s x => s.post 3 x.1 x.2 none) s

/-- The accesses that wait in an operand log for a removed translation fail: a late TRANSLATION with subcode 1 (20:R295). -/
def State.failWaiting (s : State) (rs : List (Nat × Nat × Nat)) : State :=
  (s.waitingIn rs).foldl (fun s e =>
    match s.acc.get? e.1 with
    | none => s
    | some a =>
      let va := (a.vas.find? (covers rs a.ctx)).getD a.va
      s.lateFault e.1 a fTranslation 1 va) s

/-- The copies and collectives in progress and the engine operations that wait at a removed page fail. -/
def State.failEngines (s : State) (rs : List (Nat × Nat × Nat)) : State :=
  let ops := s.opsIn rs
  let colls := s.collsIn rs
  let s := (s.copiesIn rs).foldl (fun s h => s.copyEnds h.1 h.2.1 h.2.2 6) s
  let s := colls.foldl (fun s k => s.collEnds k.1 k.2 6) s
  ops.foldl (fun s o => s.opEnd o.1 o.2.1 (some 6)) s

/-- Is some part of the context saved: a phalanx, what it left in a cluster, or a copy or collective? -/
def State.hasSaved (s : State) (x : Nat) : Bool :=
  (s.clusters.any fun k => (k.2.saved.any fun v => decide (v.phx.ctx = x)) || k.2.rest.any fun v => decide (v.ctx = x)) ||
  (s.dies.any fun d => d.2.engines.any fun e => e.2.replay.any fun c => decide (c.ctx = x)) ||
  s.colls.any fun c => c.2.saved && decide (c.2.ctx = x)

/-- Saved items whose translation is removed are marked, and fail at restore (20:R296). -/
def markAccess (rs : List (Nat × Nat × Nat)) (m : Map Access) : Map Access :=
  m.map fun e => (e.1, { e.2 with revoked := e.2.revoked || e.2.uses rs })

def markOps (rs : List (Nat × Nat × Nat)) (m : Map EngOp) : Map EngOp :=
  m.map fun e => (e.1, { e.2 with revoked := e.2.revoked || e.2.waits rs })

def Cluster.markSaved (k : Cluster) (rs : List (Nat × Nat × Nat)) : Cluster :=
  { k with
    saved := k.saved.map fun v => { v with ops := markOps rs v.ops, replays := markAccess rs v.replays }
    rest := k.rest.map fun v => { v with ops := markOps rs v.ops, replays := markAccess rs v.replays } }

def CopyEngine.markSaved (e : CopyEngine) (rs : List (Nat × Nat × Nat)) : CopyEngine :=
  { e with replay := e.replay.map fun c => { c with revoked := c.revoked || meets rs c.ctx c.spans } }

def Die.markSaved (d : Die) (rs : List (Nat × Nat × Nat)) : Die :=
  { d with engines := d.engines.map fun e => (e.1, e.2.markSaved rs) }

def State.markSaved (s : State) (rs : List (Nat × Nat × Nat)) : State :=
  { s with
    clusters := s.clusters.map fun (k : Nat × Cluster) => (k.1, (k.2).markSaved rs)
    dies := s.dies.map fun (d : Nat × Die) => (d.1, (d.2).markSaved rs)
    colls := s.colls.map fun (c : Nat × Coll) =>
      (c.1, if c.2.saved && meets rs c.2.ctx (s.collSpans c.2) then { c.2 with revoked := true } else c.2) }

/-- Steps 1 to 4 of 20:R295 by slice core `by_`, but for the end of the invalidation (TLB_SHOOTDOWN_COMPLETE). -/
def State.revokeRanges (s : State) (by_ : Nat) (rs : List (Nat × Nat × Nat)) : State :=
  let items := s.failedItems rs
  (((((s.markSaved rs).cutLeaves by_ rs).dropTlb rs).failWaiting rs).failEngines rs).report items

/-- Are entries of a context for [a, a + n) under revocation (20:R295)? -/
def State.revoking (s : State) (ctx a n : Nat) : Bool :=
  s.shootdowns.any fun d => d.2.slice.isNone && d.2.ranges.any fun r => decide (r.1 = ctx) && overlap r.2.1 r.2.2 a n

/-- Has every access translated through the ranges before invalidation `id` been performed, those that a gambit buffers
too, and every line fetched through them been used (16:R259)? The TLB entries went when it began, so that a later access
has been translated by a new walk. -/
def State.invalidated (s : State) (id : Nat) (rs : List (Nat × Nat × Nat)) : Bool :=
  (s.acc.all fun e => e.2.pas.isEmpty || decide (id < e.1) || !e.2.vas.any (covers rs e.2.ctx) ||
    s.sleepers.any fun x => decide (x.access = e.1)) &&
  (s.warps.all fun e => e.2.threads.all fun th => decide (th.gambit.code ≠ 0) || !th.gambit.vas.any (covers rs e.2.ctx)) &&
  s.clusters.all fun k => k.2.ops.all fun o => !o.2.fetched.any fun l => covers rs o.2.ctx (128 * l.1)

/-! ### The end of a context (21:R328, CTXREVOKE with A = 0) -/

/-- A scalar core without the commands of a context. -/
def Scalar.forget (k : Scalar) (x : Nat) : Scalar :=
  { k with mailbox := k.mailbox.filter fun m => decide (m.ctx ≠ x),
           cur := k.cur.bind fun m => if m.1.ctx = x then none else some m }

/-- A core without the work of a context, whose warps have the numbers `uids` and had these slots. -/
def Core.forget (k : Core) (x : Nat) (uids slots : List Nat) : Core :=
  { k with
    laneRun := k.laneRun.filter fun r => !slots.contains r.2
    oplog := k.oplog.filter fun l => !uids.contains l.2.uid
    ccache := k.ccache.filter fun l => decide (l.1 ≠ x)
    icache := k.icache.filter fun l => decide (l.1 ≠ x)
    tlb := k.tlb.filter fun t => decide (t.ctx ≠ x)
    loader := k.loader.forget x
    storer := k.storer.forget x }

/-- A cluster without what belongs to a context; the next holder enters where the context was being pre-empted. -/
def Cluster.forget (k : Cluster) (x : Nat) : Cluster :=
  { k with
    phxs := k.phxs.filter fun p => decide (p.2.ctx ≠ x)
    tlb := k.tlb.filter fun t => decide (t.ctx ≠ x)
    saved := k.saved.filter fun v => decide (v.phx.ctx ≠ x)
    rest := k.rest.filter fun v => decide (v.ctx ≠ x)
    holds := (match k.stop with
      | some (o, next) => if o = x then next else k.holds
      | none => if k.holds = some x then none else k.holds)
    stop := k.stop.bind fun o => if o.1 = x then none else some (o.1, if o.2 = some x then none else o.2)
    passes := k.passes.del x
    present := k.present.filter fun p => decide (p ≠ x) }

/-- A copy engine without the operations of a context. -/
def CopyEngine.forget (e : CopyEngine) (x : Nat) : CopyEngine :=
  { e with queue := e.queue.filter fun k => decide (k.ctx ≠ x), replay := e.replay.filter fun k => decide (k.ctx ≠ x),
           ended := e.ended.filter fun k => decide (k.2.1 ≠ x) }

def Die.forget (d : Die) (x : Nat) : Die := { d with engines := d.engines.map fun e => (e.1, e.2.forget x) }

/-- A slice without the tasks of a context. -/
def Slice.forget (k : Slice) (x : Nat) : Slice :=
  let keep := fun (i : Nat) => match k.tasks.get? i with | some t => decide (t.ctx ≠ x) | none => false
  { k with gather := k.gather.filter keep, tasks := k.tasks.filter fun t => decide (t.2.ctx ≠ x),
           waves := k.waves.filter fun w => w.tasks.any keep }

/-- A context that no longer posts to the queues `qs` nor has one as its fault queue. -/
def Ctx.leaveQueues (c : Ctx) (qs : List Nat) : Ctx :=
  { c with posts := c.posts.filter fun q => !qs.contains q, fq := c.fq.bind fun q => if qs.contains q.1 then none else some q }

/-- A slice that holds no word for the commits `ids`. -/
def L2Slice.unreserve (l : L2Slice) (ids : List Nat) : L2Slice :=
  { l with reserved := l.reserved.filter fun r => !ids.contains r.2 }

/-- A core without a quota register of a context. -/
def Core.dropQuota (k : Core) (x : Nat) : Core := { k with quotas := k.quotas.filter fun q => decide (q.2.ctx ≠ x) }

/-- The bytes of frames that wait at a ring. -/
def Ring.held (r : Ring) : Nat := (r.waiting.map fun f => f.1.bytes.length).sum

/-- An ingest ring with V = 0: waiting frames are dropped and its episode is over. -/
def Ring.stop (r : Ring) : Ring :=
  { r with words := setAt r.words 0 (BitVec.ofNat 64 (setBits (r.words.getD 0 0).toNat 0 1 0)), waiting := [], episode := none }

/-- The context an ingest ring belongs to (23 Table 6). -/
def Ring.ctx (r : Ring) : Nat := bits (r.words.getD 0 0).toNat 16 16

/-- A port whose rings of a destroyed context have V = 0 and post no more of its tasks; the frames that waited leave its
buffer (23:R342, R352). -/
def Port.forget (p : Port) (x : Nat) : Port :=
  { p with
    rings := p.rings.map fun (e : Nat × Ring) => (e.1, if e.2.ctx = x then { e.2.stop with toPost := [] } else e.2)
    bufUsed := p.bufUsed - (p.rings.map fun (e : Nat × Ring) => if e.2.ctx = x then e.2.held else 0).sum }

/-- Is an access still to be performed once its context's work is gone: it has been translated to memory, and no watch
waits for it (20:R295, step 2)? -/
def State.stillPerformed (s : State) (id : Nat) (a : Access) : Bool :=
  !a.pas.isEmpty && !a.kind.inScratch && !a.gambit && !s.sleepers.any fun x => decide (x.access = id)

/-- All work of a context goes: its warps and results, what it has in engines and queued, its launches, tasks, copies and
collectives, and its accesses, but for those that have been translated, which are still performed. -/
def State.dropWork (s : State) (x : Nat) : State :=
  let uids := (s.warps.filter fun e => decide (e.2.ctx = x)).map (·.2.uid)
  let ops := s.clusters.flatMap fun k => (k.2.ops.filter fun o => decide (o.2.ctx = x)).map fun o => (k.1, o.1)
  let s := ops.foldl (fun (s : State) o => s.opEnd o.1 o.2 none) s
  let s := (s.cores.map (·.1)).foldl (fun s c => s.flushL1 c x) s
  let slots := fun (c : Nat) => (s.warps.filter fun e => decide (e.2.ctx = x) && decide (e.1 / 256 = c)).map (·.1 % 256)
  let gone := (s.commits.filter fun e => uids.contains e.2.uid).map (·.1)
  let accs := (s.acc.filter fun e => decide (e.2.ctx = x) && !s.stillPerformed e.1 e.2).map (·.1)
  let s := (s.warps.filter fun e => decide (e.2.ctx = x)).foldl (fun (s : State) e =>
    s.setCore (e.1 / 256) ((s.core (e.1 / 256)).leaveRows (e.1 % 256) e.2)) s
  { s with
    warps := s.warps.filter fun e => decide (e.2.ctx ≠ x)
    groups := s.groups.filter fun e => decide (e.2.ctx ≠ x)
    results := s.results.filter fun e => !uids.contains e.2.uid
    acc := s.acc.filter fun e => !accs.contains e.1
    sleepers := s.sleepers.filter fun e => !accs.contains e.access
    commits := s.commits.filter fun e => !uids.contains e.2.uid
    l2 := s.l2.map fun (e : Nat × L2Slice) => (e.1, (e.2).unreserve gone)
    cores := s.cores.map fun (e : Nat × Core) => (e.1, (e.2).forget x uids (slots e.1))
    clusters := s.clusters.map fun (e : Nat × Cluster) => (e.1, (e.2).forget x)
    dies := s.dies.map fun (d : Nat × Die) => (d.1, (d.2).forget x)
    launches := s.launches.filter fun e => decide (e.2.ctx ≠ x)
    phases := s.phases.filter fun e => decide (e.1 ≠ x)
    slices := s.slices.map fun (e : Nat × Slice) => (e.1, (e.2).forget x)
    colls := s.colls.filter fun e => decide (e.2.ctx ≠ x) }

/-- Everything of a context goes; its id is free, its generation rises. -/
def State.dropCtx (s : State) (x : Nat) : State :=
  match s.ctx? x with
  | none => s
  | some c =>
    let qs := (s.queues.filter fun e => decide (e.2.ctx = x)).map (·.1)
    let s := s.dropWork x
    let s := { s with
      cores := s.cores.map fun (e : Nat × Core) => (e.1, (e.2).dropQuota x)
      queues := s.queues.filter fun e => decide (e.2.ctx ≠ x)
      ctxs := s.ctxs.map fun (e : Nat × Ctx) => (e.1, (e.2).leaveQueues qs)
      hdie := { s.hdie with ports := s.hdie.ports.map fun (e : Nat × Port) => (e.1, (e.2).forget x) } }
    let s := (s.slices.map (·.1)).foldl (fun s i => s.postHeld i) s
    (s.dropL2 x).setCtx x { c with
      run := 3, gen := (c.gen + 1) % 65536, claim := Claim.empty, hbase := 0, uibase := 0, fq := none, posts := [],
      tableRoot := 0, saveArea := 0, saveTaken := false, memUsed := 0, leaves := [], tables := [] }

/-- Destroy a child of `p` with every descendant, the items that fail being reported: the ranges to invalidate, and the
state. -/
def State.destroy (s : State) (p x : Nat) : List (Nat × Nat × Nat) × State :=
  match s.ctx? x with
  | none => ([], s)
  | some c =>
    let xs := s.subtree x
    let rs := xs.flatMap fun y => match s.ctx? y with
      | some d => d.leaves.map fun f => (y, f.va, f.size)
      | none => []
    let s := ((s.report (s.failedItems rs)).cutLeaves (p % 64) rs).dropTlb rs
    let s := xs.foldl (fun s y => s.dropCtx y) s
    let s := s.programQuotas p c.claim.clusters
    (rs, s.programRegions c.claim.dies c.claim.wslo c.claim.wscnt)

/-! ### The CTX instructions (21:R327, R328) -/

/-- What a CTX instruction leaves: the state, its status with the new id, bytes to write at an address, ranges whose
invalidation must end first, and a context whose saves must end first; `wait`: it does not act yet. -/
structure CtxOut where
  s : State
  status : Nat
  id : Nat := 0
  wr : Option (Nat × List Byte) := none
  ranges : Option (List (Nat × Nat × Nat)) := none
  stop : Option Nat := none
  wait : Bool := false

/-- Nothing changes but the status. -/
def CtxOut.refuse (s : State) (status : Nat) : CtxOut := { s := s, status := status }

/-- The child `x` of the issuer. -/
def State.child? (s : State) (issuer x : Nat) : Option Ctx :=
  match s.ctx? x with
  | some c => if c.parent = issuer && x ≠ 0 then some c else none
  | none => none

/-- The siblings of `x` under `p`. -/
def State.siblings (s : State) (p x : Nat) : List Claim := ((s.children p).filter fun e => decide (e.1 ≠ x)).map (·.2.claim)

/-- The lowest free id (20:R289): no context has it, nor is one that had it still being destroyed. -/
def State.freeCtxId (s : State) : Nat :=
  (s.ctxs.filter fun e => decide (e.1 ≠ 0) && (e.2.alive || s.acc.any fun a => decide (a.2.ctx = e.1))).foldl
    (fun n e => if e.1 = n then n + 1 else n) 1

/-- Alive contexts besides the root. -/
def State.aliveCount (s : State) : Nat := (s.ctxs.filter fun e => e.2.alive && decide (e.1 ≠ 0)).length

/-- What follows a change of the claim of `x`, a child of `p`: the quota registers of both in the clusters concerned, the
L2 entries, and the weight-store regions of both claims. -/
def State.program (s : State) (p x : Nat) (old new : Claim) : State :=
  let ks := (List.range 160).filter fun k => old.has k || new.has k
  let s := (s.programQuotas p ks).programQuotas x ks
  let s := s.programL2 x new
  let s := s.programRegions old.dies old.wslo old.wscnt
  s.programRegions new.dies new.wslo new.wscnt

/-- Is a region that the claim gains named by a resident launch, which reads it unchanged to its last pass (16:R250)? -/
def State.gainsNamed (s : State) (old new : Claim) : Bool :=
  new.dies.any fun d => (rangeFrom new.wslo new.wscnt).any fun r =>
    !(old.dies.contains d && rangeIn (r, 1) (old.wslo, old.wscnt)) && s.regionNamed [d] r 1

/-- CTXNEW: a child with RUN 0 and the block's claim. GEN is 0, but for an id that has been in use it goes on rising (20:R299;
log entry 106); a region that a resident launch names is a part still in use (log entry 109). -/
def State.ctxNew (s : State) (issuer a b block : Nat) : CtxOut :=
  let c := Claim.parse block
  let hb := bits block 1024 64
  let ub := bits block 1088 64
  if b ≠ 0 || !claimReserved block || !c.inRange || hb % 4 ≠ 0 || ub % 4 ≠ 0 || hb ≥ 2 ^ 57 || ub ≥ 2 ^ 57 ||
      bits block 1184 864 ≠ 0 then .refuse s 9
  else
    match s.ctx? issuer with
    | none => .refuse s 4
    | some p =>
      let sibs := (s.children issuer).map (·.2.claim)
      if p.depth ≥ 8 then .refuse s 2
      else if s.aliveCount ≥ 4095 then .refuse s 3
      else if !c.within p sibs then .refuse s 1
      else if s.phasesHeld issuer + s.phasesGranted issuer + c.phcnt > p.claim.phcnt || s.gainsNamed Claim.empty c then .refuse s 6
      else
        let id := s.freeCtxId
        let gen := match s.ctx? id with | some d => d.gen | none => 0
        let child : Ctx :=
          ⟨issuer, p.depth + 1, 0, gen, c, BitVec.ofNat 64 hb, BitVec.ofNat 64 ub, none, [], BitVec.ofNat 52 (s.kernFree rootBytes), 0, false, 0, [], []⟩
        let s' := s.setCtx id child
        if s'.quotasBlocked issuer c.clusters then .refuse s 8
        else if !s'.gangsOk then .refuse s 10
        else if !s'.quotaRoom id c.clusters then .refuse s 1
        else { s := s'.program issuer id Claim.empty c, status := 0, id := id, wr := some (a + 144, toBytes id 2 ++ toBytes gen 2) }

/-- CTXGRANT: a claim that contains the old one. Operations that may start have started, with the descriptors of the old
range (13:R216). -/
def State.ctxGrant (s : State) (issuer b block : Nat) : CtxOut :=
  let n := Claim.parse block
  match s.child? issuer b, s.ctx? issuer with
  | some c, some p =>
    if !claimReserved block || !n.inRange then .refuse s 9
    else if !c.alive then .refuse s 6
    else
      let sibs := s.siblings issuer b
      if !n.contains c.claim || !n.within p sibs then .refuse s 1
      else if s.phasesHeld issuer + (sibs.map (·.phcnt)).sum + n.phcnt > p.claim.phcnt || s.gainsNamed c.claim n then .refuse s 6
      else
        let s' := s.startAllDue.setCtx b { c with claim := n }
        if s'.quotasBlocked issuer n.clusters || s'.quotasBlocked b n.clusters then .refuse s 8
        else if !s'.gangsOk then .refuse s 10
        else if !s'.quotaRoom b n.clusters then .refuse s 1
        else { s := s'.program issuer b c.claim n, status := 0 }
  | _, _ => .refuse s 4

/-- Does a part that is taken away from `x` still serve: a child's claim, a resident or saved group, a queue, a phase, a
region named, memory in use? -/
def State.stillHeld (s : State) (x : Nat) (c : Ctx) (n : Claim) : Bool :=
  let lost := (List.range 160).filter fun k => c.claim.has k && !n.has k
  let kids := (s.children x).map (·.2.claim)
  let s' := s.setCtx x { c with claim := n }
  kids.any (fun d => !n.contains { d with gang := n.gang } || decide (d.exc &&& ~~~n.exc ≠ 0)) ||
  lost.any (fun k => (rangeFrom (4 * k) 4).any (fun i => s.residentIn i x) || ((s.cluster k).saved.any fun v => decide (v.phx.ctx = x)) ||
    (s.cluster k).rest.any fun v => decide (v.ctx = x)) ||
  s'.quotasBlocked x (c.claim.clusters) ||
  (c.claim.clusters.any fun k => (s.cluster k).saved.any fun v => decide (v.phx.ctx = x) && decide (s.quotaOf x k ≠ s'.quotaOf x k)) ||
  (s.queues.any fun q => decide (q.2.ctx = x) && q.2.v && !rangeIn (q.1, 1) (n.qlo, n.qcnt)) ||
  decide (n.mem < c.memUsed + (kids.map (·.mem)).sum) ||
  decide (n.phcnt < s.phasesHeld x + (kids.map (·.phcnt)).sum) ||
  c.claim.dies.any fun d => (rangeFrom c.claim.wslo c.claim.wscnt).any fun r =>
    !(n.dies.contains d && rangeIn (r, 1) (n.wslo, n.wscnt)) && s.regionNamed [d] r 1

/-- CTXREVOKE: a claim contained in the old one, or with `block` none the end of the child; one that is bound to a TDI
stays (23:R343). -/
def State.ctxRevoke (s : State) (issuer b : Nat) (block : Option Nat) : CtxOut :=
  match s.child? issuer b with
  | none => .refuse s 4
  | some c =>
    match block with
    | none =>
      if !c.alive || s.hdie.tdis.any (fun t => decide (t.2.bind_ = b)) then .refuse s 6
      else
        let (rs, s) := s.destroy issuer b
        { s := s, status := 0, ranges := some rs }
    | some x =>
      let n := Claim.parse x
      if !claimReserved x || !n.inRange then .refuse s 9
      else if !c.alive then .refuse s 6
      else if !c.claim.contains n then .refuse s 1
      else if s.stillHeld b c n then .refuse s 6
      else { s := (s.startAllDue.setCtx b { c with claim := n }).program issuer b c.claim n, status := 0, ranges := some [] }

/-- The records of the words of pages to which VER is given for the first time (16:R247): pages of [pa, pa + n) that no leaf
of `old` maps with VER. -/
def State.giveVer (s old : State) (pa n : Nat) : State :=
  let pages := (List.range (n / 4096)).filter fun i => (old.shadowOf (pa + 4096 * i)).isNone
  pages.foldl (fun s i => (List.range 512).foldl (fun s j =>
    let w := pa + 4096 * i + 8 * j
    s.setVer w (s.verRec w) (VerRec.fresh (s.mem.readNat w 8))) s) s

/-- CTXMAP: the composed leaves replace what the child had there, whose translations are revoked (log entry 105). Against
entries under revocation it waits for the revocation, and then finds them unmapped (20:R295). -/
def State.ctxMap (s : State) (issuer b block : Nat) : CtxOut :=
  let m := MapBlock.parse block
  match s.child? issuer b with
  | none => .refuse s 4
  | some c =>
    if !m.ok block (issuer = 0) || (m.ver && !s.shadowFree m) then .refuse s 9
    else if !c.alive then .refuse s 6
    else if s.revoking issuer m.pva m.ext then { s := s, status := 5, wait := true }
    else
      match s.compose issuer m with
      | none => .refuse s 5
      | some fs =>
        let rest := c.leaves.flatMap fun f => f.cut m.cva m.ext
        let freed := (c.leaves.map Leaf.cost).sum - (rest.map Leaf.cost).sum
        let used := c.memUsed - freed + (fs.map Leaf.cost).sum
        let granted := ((s.children b).map fun e => e.2.claim.mem).sum
        if used + granted > c.claim.mem then .refuse s 7
        else
          let rs := State.removedFrom treeFuel s b m.cva m.ext
          let t := if rs.isEmpty then s else s.revokeRanges (issuer % 64) rs
          let t := t.setLeaves (issuer % 64) b (((t.ctx? b).getD c).leaves ++ fs)
          let t := t.setCtx b { (t.ctx? b).getD c with memUsed := used }
          let t := if issuer = 0 && m.ver then (t.giveVer s m.pva m.ext).rootTables m.shadow (8 * m.ext) else t
          { s := t, status := 0, ranges := if rs.isEmpty then none else some rs }

/-- CTXUNMAP of [a, a + n), within the 57 bits of an address (01:R16). -/
def State.ctxUnmap (s : State) (issuer a b n : Nat) : CtxOut :=
  match s.child? issuer b with
  | none => .refuse s 4
  | some c =>
    if a % 4096 ≠ 0 || n % 4096 ≠ 0 || a + n > 2 ^ 57 then .refuse s 9
    else if !c.alive then .refuse s 6
    else
      let rs := State.removedFrom treeFuel s b a n
      { s := s.revokeRanges (issuer % 64) rs, status := 0, ranges := some rs }

/-- CTXRUN: the first takes the save area from the budget (20:R289). -/
def State.ctxRun (s : State) (issuer b : Nat) : CtxOut :=
  match s.child? issuer b with
  | none => .refuse s 4
  | some c =>
    if !c.alive then .refuse s 6
    else if c.saveTaken then { s := s.setCtx b { c with run := 1 }, status := 0 }
    else
      let area := 4 * 2 ^ 20 * c.claim.clusters.length
      let granted := ((s.children b).map fun e => e.2.claim.mem).sum
      if c.memUsed + area + granted > c.claim.mem then .refuse s 7
      else { s := s.setCtx b { c with run := 1, saveArea := BitVec.ofNat 64 (s.kernFree (160 * 2 ^ 22)), saveTaken := true, memUsed := c.memUsed + area }, status := 0 }

/-- What a pre-emption request does at once to a cluster (20:R309, Table 13; 10:R184; 16:R243): operations that may start
have started (13:R216), the context there stops
issuing, its sleepers wake, its open gambits are doomed. -/
def State.requestStop (s : State) (k x : Nat) (next : Option Nat) : State :=
  let s := s.startDue k
  let cl := s.cluster k
  let s := s.setCluster k { cl with stop := some (x, next), stopAt := s.time }
  let mine := s.sleepers.filter fun y => match s.acc.get? y.access with
    | some a => decide (a.ctx = x) && decide (clusterOf a.core = k)
    | none => false
  let s := s.wake mine
  { s with warps := s.warps.map fun e =>
      if e.2.ctx = x && clusterOf (e.1 / 256) = k then
        (e.1, { e.2 with threads := e.2.threads.map fun th => { th with gambit := th.gambit.doom 12 } })
      else e }

/-- Request that the context and its descendants leave every cluster. -/
def State.stopAll (s : State) (x : Nat) : State :=
  (List.range 160).foldl (fun s k =>
    match (s.cluster k).stop, (s.cluster k).holds with
    | none, some h => if s.descends x h then s.requestStop k h none else s
    | _, _ => s) s

/-- Has every save of the context and its descendants ended? -/
def State.allSaved (s : State) (x : Nat) : Bool :=
  s.clusters.all fun e => match e.2.stop, e.2.holds with
    | some (o, _), _ => !s.descends x o
    | none, some h => !s.descends x h
    | none, none => true

/-- CTXSTOP. -/
def State.ctxStop (s : State) (issuer b : Nat) : CtxOut :=
  match s.child? issuer b with
  | none => .refuse s 4
  | some c =>
    if !c.alive then .refuse s 6
    else
      let s := s.stopAll b
      { s := s.setCtx b { c with run := if c.run = 0 then 0 else 2 }, status := 0, stop := some b }

/-- A queue descriptor's image (20 Table 6). -/
def Queue.image (q : Queue) : Nat :=
  (if q.v then 1 else 0) + (if q.hoe then 2 else 0) + (if q.halted then 4 else 0) + q.log2sz * 2 ^ 4 + q.pasid * 2 ^ 12 +
  q.ctx * 2 ^ 32 + q.base * 2 ^ 64 + q.head * 2 ^ 128 + q.tail * 2 ^ 144 + q.gto * 2 ^ 160 + q.errrec * 2 ^ 192

/-- The descriptor of an image; a GTO of 0 is 2,600. -/
def Queue.parse (x : Nat) : Queue :=
  { v := bit x 0, hoe := bit x 1, halted := bit x 2, log2sz := bits x 4 5, pasid := bits x 12 20, ctx := bits x 32 16,
    base := bits x 64 64, head := bits x 128 16, tail := bits x 144 16,
    gto := if bits x 160 16 = 0 then 2600 else bits x 160 16, errrec := bits x 192 64, skip := 0, host := [] }

/-- Reserved bits and ranges of an image. -/
def Queue.ok (q : Queue) (x : Nat) : Bool :=
  bits x 3 1 == 0 && bits x 9 3 == 0 && bits x 48 16 == 0 && bits x 176 16 == 0 && decide (4 ≤ q.log2sz) &&
  decide (q.log2sz ≤ 16) && q.base % 4096 == 0 && decide (q.base < 2 ^ 57) && decide (q.head < 2 ^ q.log2sz) &&
  decide (q.tail < 2 ^ q.log2sz) && q.errrec % 32 == 0 && decide (q.errrec < 2 ^ 57)

/-- The size of a ring. -/
def Queue.size (q : Queue) : Nat := 2 ^ q.log2sz

/-- A queue with nothing in it and not in use. -/
def Queue.blank : Queue := ⟨false, false, false, 4, 0, 0, 0, 0, 0, 2600, 0, 0, []⟩

/-- A queue leaves use: no context posts to it or has it as its fault queue. -/
def State.detach (s : State) (q : Nat) : State := { s with ctxs := s.ctxs.map fun (e : Nat × Ctx) => (e.1, e.2.leaveQueues [q]) }

/-- CTXQ by its operation. -/
def State.ctxQ (s : State) (issuer a q op image : Nat) : CtxOut :=
  match s.ctx? issuer with
  | none => .refuse s 4
  | some p =>
    if !rangeIn (q, 1) (p.claim.qlo, p.claim.qcnt) then .refuse s 11
    else
      let old := s.queues.getD q Queue.blank
      match op with
      | 0 =>
        let n := Queue.parse image
        if !n.ok image then .refuse s 9
        else if !s.descends issuer n.ctx then .refuse s 4
        else if !(match s.ctx? n.ctx with | some c => rangeIn (q, 1) (c.claim.qlo, c.claim.qcnt) | none => false) then .refuse s 11
        else if old.v && decide (old.head ≠ old.tail) then .refuse s 11
        else
          let n := { n with pasid := if issuer = 0 then n.pasid else old.pasid, halted := old.v && old.halted, skip := old.skip, host := old.host }
          { s := { s with queues := s.queues.set q n }, status := 0 }
      | 1 =>
        if !old.v then .refuse s 11
        else
          let n := { old with halted := false, head := (old.head + old.skip) % old.size, skip := 0 }
          { s := { s with queues := s.queues.set q n }, status := 0 }
      | 2 => { s := s, status := 0, wr := some (a, toBytes old.image 32) }
      | _ =>
        if old.v && decide (old.head ≠ old.tail) then .refuse s 11
        else { s := { (s.detach q) with queues := s.queues.set q { old with v := false } }, status := 0 }

/-- CTXQATTACH by its role. -/
def State.ctxQAttach (s : State) (issuer a q hdr role : Nat) : CtxOut :=
  match s.child? issuer a, s.ctx? issuer with
  | some c, some p =>
    if !rangeIn (q, 1) (p.claim.qlo, p.claim.qcnt) || !(s.queues.getD q Queue.blank).v then .refuse s 11
    else if !c.alive then .refuse s 6
    else
      match role with
      | 0 => if hdr % 128 ≠ 0 || hdr ≥ 2 ^ 57 then .refuse s 9 else { s := s.setCtx a { c with fq := some (q, hdr) }, status := 0 }
      | 1 => { s := s.setCtx a { c with posts := if c.posts.contains q then c.posts else q :: c.posts }, status := 0 }
      | _ => { s := s.setCtx a { c with posts := c.posts.filter fun x => decide (x ≠ q) }, status := 0 }
  | _, _ => .refuse s 4

/-- Bytes of the memory block that a CTX instruction reads at A. -/
def ctxBlock (x a w2 : Nat) : Nat :=
  match x with
  | 0 => 256
  | 1 => 128
  | 2 => if a = 0 then 0 else 128
  | 3 => 32
  | 7 => if w2 % 4 = 0 then 32 else 0
  | _ => 0

/-- Bytes that the address in A must be a multiple of. -/
def ctxAlign (x a w2 : Nat) : Nat := if x = 7 && w2 % 4 = 2 then 32 else max 1 (ctxBlock x a w2)

/-- The CTX instruction X of `issuer`, from its operands and the block it read. -/
def State.ctxDo (s : State) (x issuer a b c w2 block : Nat) : CtxOut :=
  match x with
  | 0 => s.ctxNew issuer a b block
  | 1 => s.ctxGrant issuer b block
  | 2 => s.ctxRevoke issuer b (if a = 0 then none else some block)
  | 3 => s.ctxMap issuer b block
  | 4 => s.ctxUnmap issuer a b c
  | 5 => s.ctxRun issuer b
  | 6 => s.ctxStop issuer b
  | 7 => s.ctxQ issuer a b (w2 % 4) block
  | _ => s.ctxQAttach issuer a b c (w2 % 4)

/-- A new invalidation. -/
def State.startShootdown (s : State) (d : Shootdown) : State :=
  let (id, s) := s.takeId
  { s with shootdowns := s.shootdowns.set id d }

/-! ### Reads of a thread outside the operand log (11:R374; 21:R315) -/

/-- What such a read finds. -/
inductive TRead
  | ok (bs : List Byte) (s : State)
  | order (loc glob : List Nat)
  | page (va : Nat)
  | flt (code sub : Nat)

/-- The releases of other cores that the lines of a core's read carry notes of are published (18:R284): none while a commit
holds a word of theirs (10:R183). -/
def State.publishAt (s : State) (c ctx va n : Nat) : Option State :=
  match (s.lookup c ctx va).bind fun e => s.finalPa (e.trans va) with
  | none => some s
  | some pa =>
    let lines := linesOf [(pa, n)]
    if s.reserved (s.publishRanges (some c) lines) then none else some (s.publishFor (some c) lines)

/-- Read `n` bytes, within one page, as a load of the thread: its earlier accesses to these bytes, its acquires and what its
fences order come first (18:R282), and other cores' noted releases are published. -/
def State.threadRead (s : State) (c slot : Nat) (wp : Warp) (t va n : Nat) : TRead :=
  let ctx := wp.ctx
  let before := s.scratchOrder c slot wp t false false
  let mine := (s.acc.filter fun e => decide (e.2.core = c) && decide (e.2.slot = slot) && decide (e.2.uid = wp.uid) &&
    decide (e.2.thread = t) && e.2.loc.isNone && e.2.vas.any fun a => overlap a e.2.size va n).map (·.1)
  if va ≥ 2 ^ 57 then .flt fAddressRange 0
  else if !mine.isEmpty || !before.1.isEmpty || !before.2.isEmpty then .order (mine ++ before.1) before.2
  else
    match s.publishAt c ctx va n with
    | none => .order (s.commits.map (·.1)) []
    | some s =>
      match s.plainRead c ctx va n with
      | (.ok bs, s) => .ok bs s
      | (.wait, _) => .page va
      | (.deny sub, _) => .flt fTranslation sub
      | (.poison, _) => .flt fDataPoison 0

/-- A page that proved unresolvable is a fault at issue (11:R374). -/
def TRead.settled (w : Warp) : TRead → TRead
  | .page va => if w.refused.contains va then .flt fTranslation 1 else .page va
  | r => r

/-! ### The instructions -/

/-- Where an elected thread's result goes: every participant, landing later (21:R314). -/
def State.electedResult (s : State) (c slot : Nat) (wp : Warp) (wop : Nat) (p : Prep) (dst : Option (Dst × Nat)) (v : Nat) : State :=
  s.awaitKnown c slot wp wop dst (p.parts.map fun t => (t, toWords v 2))

/-- Results that are still to be known; the warp waits for them. -/
def State.pendingResults (s : State) (c slot : Nat) (wp : Warp) (wop : Nat) (p : Prep) (dst : Option (Dst × Nat)) : List Nat × State :=
  let (d, n) := dst.getD (.discard, 1)
  let (b, s) := s.takeId
  let (ids, s) := p.parts.foldl (fun (acc : List Nat × State) t =>
    (let (id, _, s) := acc.2.newResult c slot t wp d n b false
     (acc.1 ++ [id], s))) (([] : List Nat), s)
  (ids, if ids.isEmpty then s else s.modWarp c slot fun w => { w with wait := .results ids, waitOp := wop })

/-- The shared form of the CTX instructions. -/
def State.ctxInstr (s : State) (o : Ops) : Host.Outcome State Fault Refusal :=
  s.issueTx 61 o true fun c slot wp r p s =>
    let wop := 61 + o.x * 64
    let site := siteOf wp 61 o 0 3
    let w2 := wrap o.w2 32
    match p.vals with
    | [] => s.endMoves c slot site p [] false o.brk
    | x :: _ =>
      let n := ctxBlock o.x x.2.a w2
      let bad := fun (code sub addr : Nat) => s.endMoves c slot site p [(x.1, .flt code sub addr)] false o.brk
      let go := fun (s : State) (block : Nat) =>
        let out := s.ctxDo o.x wp.ctx x.2.a x.2.b x.2.c w2 block
        let dst := Ops.dst o r
        let fin := fun (s : State) =>
          let v := out.status + out.id * 2 ^ 16
          let s := match out.stop, out.ranges with
            | some child, _ =>
              s.modWarp c slot fun w => { w with wait := .stopping child (wp.waiters p.parts dst), waitOp := wop }
            | none, some rs =>
              let (ids, s) := s.pendingResults c slot wp wop p dst
              s.startShootdown ⟨rs, ids, v, none, none⟩
            | none, none => s.electedResult c slot wp wop p dst v
          s.endMoves c slot site p [] false o.brk
        if out.wait then s.yieldBefore c slot .engine wop
        else
        match out.wr with
        | none => fin out.s
        | some (va, bs) =>
          match out.s.devWrite (some c) wp.ctx va (actorOf c slot x.1) bs with
          | .done s => fin s
          | .wait => s.yieldBefore c slot .engine wop
          | .bad => bad fTranslation 3 va
      if x.2.a % ctxAlign o.x x.2.a w2 ≠ 0 then bad fMisaligned 0 x.2.a
      else if n = 0 then go s 0
      else
        match (s.threadRead c slot wp x.1 x.2.a n).settled wp with
        | .ok bs s => go s (ofBytes bs)
        | .order loc glob => s.yieldBefore c slot (.ordered [] loc glob) wop
        | .page va => s.yieldBefore c slot (.page va false) wop
        | .flt code sub => bad code sub x.2.a

def execCtxnew (o : Ops) (s : State) : Host.Outcome State Fault Refusal := s.ctxInstr o
def execCtxgrant (o : Ops) (s : State) : Host.Outcome State Fault Refusal := s.ctxInstr o
def execCtxrevoke (o : Ops) (s : State) : Host.Outcome State Fault Refusal := s.ctxInstr o
def execCtxmap (o : Ops) (s : State) : Host.Outcome State Fault Refusal := s.ctxInstr o
def execCtxunmap (o : Ops) (s : State) : Host.Outcome State Fault Refusal := s.ctxInstr o
def execCtxrun (o : Ops) (s : State) : Host.Outcome State Fault Refusal := s.ctxInstr o
def execCtxstop (o : Ops) (s : State) : Host.Outcome State Fault Refusal := s.ctxInstr o
def execCtxq (o : Ops) (s : State) : Host.Outcome State Fault Refusal := s.ctxInstr o
def execCtxqattach (o : Ops) (s : State) : Host.Outcome State Fault Refusal := s.ctxInstr o

/-- No TLB holds an entry of the ranges; when what was translated through them is done, the invalidation completes, and
with it the instruction or KCMD that asked for it; an admin card completes at its next admission step (16:R259,
20:R295). -/
def execTlbShootdownComplete (id : Nat) (s : State) : Host.Outcome State Fault Refusal :=
  .next <|
    match s.shootdowns.get? id with
    | none => s
    | some d =>
      if !s.invalidated id d.ranges then s
      else
        let s := s.dropTlb d.ranges
        let s := { s with shootdowns := match d.queue with
          | some _ => s.shootdowns.set id { d with ranges := [] }
          | none => s.shootdowns.del id }
        let s := d.results.foldl (fun s i => s.give (some i) (toWords d.status 2)) s
        match d.slice with
        | some i => s.setSlice i { s.slice i with kcmd := 0 }
        | none => s

end Sys2Proof.Machine
end

