-- ==== Sys2Proof/Machine/Package.lean ====
section
/-! DEFINITION. Cards, tasks, phases and user-interrupt vectors as threads post, open and raise them: family 60 (20:R300,
R302, R304 to R306; 21:R313 to R324). -/

namespace Sys2Proof.Machine

def fQueueAccess : Nat := 69

/-! ### Reads and writes of a slice core, under a context's translation (20:R298) -/

/-- The actor id of slice core `i` (16 Table 3). -/
def sliceActor (i : Nat) : Nat := 2 * 2 ^ 20 + i

/-- What a read at the home finds. -/
inductive HomeRead
  | wait
  | bad
  | ok (bs : List Byte) (s : State)

/-- Read `n` bytes within one page by slice core `i`, through its cache. -/
def State.homeRead (s : State) (i ctx va n : Nat) : HomeRead :=
  let s := s.readTables ctx va
  match s.sliceXlat ctx va false with
  | .wait => .wait
  | .bad => .bad
  | .ok pa _ =>
    let lines := linesOf [(pa, n)]
    if s.awayShut ctx pa || s.reserved ((pa, n) :: s.publishRanges none lines) then .wait
    else
      let s := s.publishFor none lines
      let s := match regionOf pa with
        | .ram => lines.foldl (fun (s : State) l => s.sliceLine i (128 * l) ctx false) s
        | _ => s
      let (bs, bad, s) := s.physRead none pa n
      if bad then .bad else .ok bs s

/-! ### Queues (20:R300) -/

/-- Slots written and not yet consumed, and slots a writer may still take. -/
def Queue.used (q : Queue) : Nat := (q.tail + q.size - q.head) % q.size
def Queue.free (q : Queue) : Nat := q.size - 1 - q.used

/-- May a context post to a queue (21:R315)? -/
def State.mayPost (s : State) (ctx q : Nat) : Bool :=
  match s.queues.get? q with
  | none => false
  | some d => d.v && (s.descends ctx d.ctx || (match s.ctx? ctx with | some c => c.posts.contains q | none => false))

/-- An arrival: no room, a slot that cannot be written yet, or the card's first slot. -/
inductive Arrive
  | noRoom
  | wait
  | done (s : State) (slot : Nat)

/-- Write the 64-byte slots of a card from slot `t` on; a slot that cannot be written keeps its bytes (log entry 26). -/
def State.writeSlots (core actor : Nat) (q : Queue) : State → Nat → Nat → List Byte → Option State
  | s, 0, _, _ => some s
  | s, n + 1, t, bs =>
    match s.devWrite (some core) q.ctx (q.base + 64 * (t % q.size)) actor (bs.take 64) with
    | .wait => none
    | .bad => State.writeSlots core actor q s n (t + 1) (bs.drop 64)
    | .done s => State.writeSlots core actor q s n (t + 1) (bs.drop 64)

/-- The card is written at TAIL, and TAIL advances (21:R315). -/
def State.arrive (s : State) (core actor q : Nat) (card : List Byte) : Arrive :=
  match s.queues.get? q with
  | none => .noRoom
  | some d =>
    let n := card.length / 64
    if d.free < n then .noRoom
    else
      match State.writeSlots core actor d s n d.tail card with
      | none => .wait
      | some s =>
        let used := (List.range n).map fun i => (d.tail + i) % d.size
        .done { s with queues := s.queues.set q { d with tail := (d.tail + n) % d.size, host := d.host.filter fun i => !used.contains i } } d.tail

/-- The status word of a posting (21 Table 2). -/
def postStatus (slot : Option Nat) : Nat := match slot with | some i => i | none => 2 ^ 24

/-- What must be done before an arrival, which counts as a store of the thread: what its fences order, and with T = 2
everything before it, with what the core has released (21:R318; log entry 103). -/
def State.postOrder (s : State) (c slot : Nat) (wp : Warp) (ts : List Nat) (rel : Bool) : List Nat × List Nat :=
  let xs := ts.map fun t => s.scratchOrder c slot wp t true false
  (xs.flatMap (·.1), xs.flatMap (·.2) ++ (if rel then s.notGlobal c slot wp.uid ts ++ s.released c else []))

/-- ENQ (21:R315). -/
def execEnq (o : Ops) (s : State) : Host.Outcome State Fault Refusal :=
  s.issueTx 60 o true fun c slot wp r p s =>
    let wop := 60 + o.x * 64
    let site := siteOf wp 60 o 0 3
    match p.vals with
    | [] => s.endMoves c slot site p [] false o.brk
    | x :: _ =>
      let g := s.groupOf c wp
      let sa : Int := (x.2.a : Int) + o.w2
      let q := x.2.b
      let bad := fun (code addr : Nat) => s.endMoves c slot site p [(x.1, .flt code 0 addr)] false o.brk
      let od := s.postOrder c slot wp [x.1] (o.t = 2)
      match scratchCheck g.scratchCount 64 sa with
      | some (code, addr) => bad code addr
      | none =>
        let read := fun (n : Nat) => (s.core c).scratch.read (128 * g.scratchBase + sa.toNat) n
        let n : Nat := if bit (ofBytes (read 2)) 8 then 128 else 64
        let own := s.imageWaits c slot wp (List.range 32) sa.toNat 128
        if !own.isEmpty then s.yieldBefore c slot (.ordered [] own []) wop
        else if (128 * g.scratchCount : Nat) < sa + n then bad fScratchRange (wrap sa 64)
        else if (s.core c).scratchBad (128 * g.scratchBase + sa.toNat) n then bad fDataPoison sa.toNat
        else if !s.mayPost wp.ctx q then bad fQueueAccess q
        else if !od.1.isEmpty || !od.2.isEmpty then s.yieldBefore c slot (.ordered [] od.1 od.2) wop
        else
          match s.arrive c (actorOf c slot x.1) q (read n) with
          | .wait => s.yieldBefore c slot .engine wop
          | .noRoom => (s.electedResult c slot wp wop p (Ops.dst o r) (postStatus none)).endMoves c slot site p [] false o.brk
          | .done s i => (s.electedResult c slot wp wop p (Ops.dst o r) (postStatus (some i))).endMoves c slot site p [] false o.brk

/-- The card of one POST: a fault, a wait, or its bytes. -/
inductive CardRead
  | flt (code sub addr : Nat)
  | order (loc glob : List Nat)
  | page (va : Nat)
  | ok (bs : List Byte) (s : State)

/-- A page that proved unresolvable is a fault at issue (11:R374). -/
def CardRead.settled (w : Warp) : CardRead → CardRead
  | .page va => if w.refused.contains va then .flt fTranslation 1 va else .page va
  | r => r

/-- Read a card of a thread at `ea`: 64 bytes, and 64 more where its EXT bit is 1. -/
def State.readCard (s : State) (c slot : Nat) (wp : Warp) (t ea : Nat) : CardRead :=
  if ea ≥ 2 ^ 57 then .flt fAddressRange 0 ea
  else if ea % 64 ≠ 0 then .flt fMisaligned 0 ea
  else
    match s.threadRead c slot wp t ea 64 with
    | .order loc glob => .order loc glob
    | .page va => .page va
    | .flt code sub => .flt code sub ea
    | .ok bs s =>
      if !bit (ofBytes (bs.take 2)) 8 then .ok bs s
      else
        match s.threadRead c slot wp t (ea + 64) 64 with
        | .order loc glob => .order loc glob
        | .page va => .page va
        | .flt code sub => .flt code sub (ea + 64)
        | .ok bs' s => .ok (bs ++ bs') s

/-- The cards of the participants, with the state after all reads; faults and waits by thread. -/
def readCards (c slot : Nat) (wp : Warp) (imm : Int) : State → List (Nat × Vals) → List (Nat × CardRead) × State
  | s, [] => ([], s)
  | s, (t, v) :: rest =>
    let r := if s.mayPost wp.ctx v.b then (s.readCard c slot wp t (wrap ((v.a : Int) + imm) 64)).settled wp else .flt fQueueAccess 0 v.b
    let s := match r with | .ok _ s => s | _ => s
    let (xs, s) := readCards c slot wp imm s rest
    ((t, r) :: xs, s)

/-- The arrivals of a POST, in ascending thread index: none where a slot cannot be written yet. -/
def postAll (c slot : Nat) : State → List (Nat × Nat × List Byte) → Option (List (Nat × List Word) × State)
  | s, [] => some ([], s)
  | s, (t, q, bs) :: rest =>
    match s.arrive c (actorOf c slot t) q bs with
    | .wait => none
    | .noRoom => (postAll c slot s rest).map fun x => ((t, toWords (postStatus none) 1) :: x.1, x.2)
    | .done s i => (postAll c slot s rest).map fun x => ((t, toWords (postStatus (some i)) 1) :: x.1, x.2)

/-- POST (21:R315). -/
def execPost (o : Ops) (s : State) : Host.Outcome State Fault Refusal :=
  s.issueTx 60 o false fun c slot wp r p s =>
    let wop := 60 + o.x * 64
    let site := siteOf wp 60 o 0 3
    let od := s.postOrder c slot wp (p.vals.map (·.1)) (o.t = 2)
    let (rs, s1) := readCards c slot wp o.w2 s p.vals
    let loc := rs.flatMap fun x => match x.2 with | .order loc _ => loc | _ => []
    let glob := rs.flatMap fun x => match x.2 with | .order _ glob => glob | _ => []
    let pages := rs.filterMap fun x => match x.2 with | .page va => some va | _ => none
    let waits := rs.any fun x => match x.2 with | .order _ _ => true | _ => false
    if !od.1.isEmpty || !od.2.isEmpty || waits then
      s.yieldBefore c slot (.ordered [] (od.1 ++ loc) (od.2 ++ glob)) wop
    else
      match pages.head? with
      | some va => s.yieldBefore c slot (.page va false) wop
      | none =>
        let ms := rs.filterMap fun x => match x.2 with | .flt code sub addr => some (x.1, Move.flt code sub addr) | _ => none
        let cards := rs.filterMap fun x => match x.2 with
          | .ok bs _ => (p.vals.find? fun y => decide (y.1 = x.1)).map fun y => (x.1, y.2.b, bs)
          | _ => none
        match postAll c slot s1 cards with
        | none => s.yieldBefore c slot .engine wop
        | some (out, s) => (s.awaitKnown c slot wp wop (Ops.dst o r) out).endMoves c slot site p ms false o.brk

/-- QSTAT's pair (21 Table 3). -/
def Queue.stat (q : Queue) : Nat :=
  q.head + q.tail * 2 ^ 16 + q.log2sz * 2 ^ 32 + (if q.halted then 2 ^ 40 else 0) + (if q.v then 2 ^ 41 else 0) + q.free * 2 ^ 48

/-- QSTAT (21:R319). -/
def execQstat (o : Ops) (s : State) : Host.Outcome State Fault Refusal :=
  s.issueTx 60 o false fun c slot wp r p s =>
    let wop := 60 + o.x * 64
    let bad := p.vals.filter fun x => !s.mayPost wp.ctx x.2.b
    let ok := p.vals.filter fun x => s.mayPost wp.ctx x.2.b
    let out := ok.map fun x => (x.1, toWords (s.queues.getD x.2.b Queue.blank).stat 2)
    (s.awaitKnown c slot wp wop (Ops.dst o r) out).endMoves c slot (siteOf wp 60 o 0 3) p
      (bad.map fun x => (x.1, .flt fQueueAccess 0 x.2.b)) false o.brk

/-! ### Kernel headers (20:R302, Table 9) and the fit of a launch (01:R18) -/

def KHdr.parse (x : Nat) : KHdr :=
  { entry := BitVec.ofNat 64 (bits x 0 64), w := bits x 64 8, scr := bits x 72 12, til := bits x 84 6, task := bit x 90,
    p := bits x 96 24, plim := bits x 128 24, kb := (List.range 8).map fun i => BitVec.ofNat 64 (bits x (256 + 64 * i) 64),
    ks := (List.range 8).map fun i => bits x (768 + 32 * i) 32 }

/-- Reserved bits and ranges of a kernel header (05:R88; 09:R154). -/
def KHdr.ok (h : KHdr) (x : Nat) : Bool :=
  bits x 91 5 == 0 && bits x 120 8 == 0 && bits x 152 104 == 0 && decide (16 ≤ h.w) && decide (h.w ≤ 128) && h.w % 8 == 0 &&
  decide (h.scr ≤ 2048) && decide (h.til ≤ 32) && h.entry.toNat % 4 == 0 && decide (h.entry.toNat < 2 ^ 57) &&
  h.kb.all (fun b => b.toNat % 128 == 0) && h.ks.all fun k => decide (k ≤ 131072)

/-- Could a phalanx of `g` groups ever be held by a cluster of the context's claim (01:R18)? -/
def State.fits (s : State) (ctx g : Nat) (h : KHdr) : Bool :=
  match s.ctx? ctx with
  | none => false
  | some c => decide (g ≤ 4) && c.claim.clusters.any fun k =>
      match s.quotaOf ctx k with
      | none => false
      | some q => decide (1 ≤ q.gcnt) && decide (h.w ≤ q.rcnt) && decide (h.scr ≤ q.scnt) && decide (h.til ≤ q.tcnt)

/-! ### Completion records (20 Table 10) -/

def launchRecord (status fcode failed : Nat) (t : DWord) (slot queue : Nat) : List Byte :=
  toBytes (status + fcode * 2 ^ 16) 4 ++ toBytes failed 4 ++ toBytes t.toNat 8 ++ toBytes (slot + queue * 2 ^ 16) 4 ++
  List.replicate 12 0

/-- Write a completion record for a queue's context at the home: none while its page is resolved; one that cannot be
written is lost. -/
def State.putRecord (s : State) (q ctx va : Nat) (bs : List Byte) : Option State :=
  match s.devWrite none ctx va (sliceActor (q / 64)) bs with
  | .wait => none
  | .bad => some s
  | .done s => some s

/-! ### Tasks and waves (20:R304, R305) -/

/-- A task of a wave that is not placed, or whose entry is poisoned, fails: TASK_FAILED, and but for a poisoned entry its
counter is decremented. -/
def State.failTask (s : State) (t : Task) : State :=
  let s := (s.freeTask t).post 4 t.ctx t.arg.toNat none
  if t.poisoned then s else s.decCounter t.ctx t.queue t.sigc

/-- The poisoned entries of a wave do not run: each is recorded at ERRREC and counted (20:R304, 24 Table 7). None while the
record's page is resolved, unless `hard`: it will not be. -/
def State.dropPoisoned (hard : Bool) : State → List Task → Option State
  | s, [] => some s
  | s, t :: ts =>
    let q := s.queues.getD t.queue Queue.blank
    let told := if q.errrec = 0 then some s
      else s.putRecord t.queue q.ctx q.errrec (launchRecord 6 0 0 s.time 0 t.queue)
    match told, hard && s.unmapped q.ctx q.errrec with
    | some s, _ => State.dropPoisoned hard ((s.count (cTaskPoison + 32 * (t.queue / 64)) 1).failTask t) ts
    | none, true => State.dropPoisoned hard ((s.count (cTaskPoison + 32 * (t.queue / 64)) 1).failTask t) ts
    | none, false => none

/-- A wave is admitted: a launch of one phalanx of one group of one warp; its private area is charged (05:R95). -/
def State.admitWave (s : State) (hdr q ctx : Nat) (h : KHdr) (ts : List Task) : State :=
  let (id, s) := s.takeId
  let l : Launch :=
    { ctx := ctx, queue := q, slot := 0, hdrVa := hdr, hdr := h, arg := 0, phx := 1, grp := 1, wrp := 1, crec := 0, irq := false,
      vec := 0, waitc := 0, sigc := 0, wslo := 0, wscnt := 0, wave := ts, placed := 0, done := 0, failed := [], fcode := 0,
      depPoison := false, admitted := s.time }
  let s := match s.ctx? ctx with
    | some c => s.setCtx ctx { c with memUsed := c.memUsed + warpArea }
    | none => s
  { s with launches := s.launches.set id l, cores := s.cores.map fun (e : Nat × Core) =>
      (e.1, { e.2 with ccache := e.2.ccache.filter fun l => decide (l.1 ≠ ctx) }) }

/-- The private area of a wave or launch of `n` warps fits the budget (20:R292). -/
def State.areaFits (s : State) (ctx n : Nat) : Bool :=
  match s.ctx? ctx with
  | none => false
  | some c => decide (c.memUsed + n * warpArea + ((s.children ctx).map fun e => e.2.claim.mem).sum ≤ c.claim.mem)

/-- The tasks gathered with equal queue, context and header, oldest first. -/
def State.gathered (s : State) (q ctx hdr : Nat) : List (Nat × Task) :=
  let sl := s.slice (q / 64)
  (sl.gather.filterMap fun e => (sl.tasks.get? e).map fun t => (e, t)).filter fun x =>
    decide (x.2.queue = q) && decide (x.2.ctx = ctx) && decide (x.2.hdr = hdr)

/-- The first 32 of them form a wave, which waits at admission. -/
def State.formWave (s : State) (q ctx hdr : Nat) : State :=
  let ids := ((s.gathered q ctx hdr).take 32).map (·.1)
  let sl := s.slice (q / 64)
  if ids.isEmpty then s
  else s.setSlice (q / 64) { sl with gather := sl.gather.filter fun e => !ids.contains e, waves := sl.waves ++ [⟨q, hdr, ids⟩] }

/-- Form waves while 32 tasks are gathered. -/
def State.fullWaves : Nat → State → Nat → Nat → Nat → State
  | 0, s, _, _, _ => s
  | n + 1, s, q, ctx, hdr =>
    if (s.gathered q ctx hdr).length ≥ 32 then State.fullWaves n (s.formWave q ctx hdr) q ctx hdr else s

/-- Every partial wave of a header in a queue forms at once. -/
def State.flush : Nat → State → Nat → Nat → Nat → State
  | 0, s, _, _, _ => s
  | n + 1, s, q, ctx, hdr =>
    if (s.gathered q ctx hdr).isEmpty then s else State.flush n (s.formWave q ctx hdr) q ctx hdr

/-- The wave of a queue that formed first, and its tasks. -/
def State.headWave (s : State) (q : Nat) : Option FormedWave := (s.slice (q / 64)).waves.find? fun w => decide (w.queue = q)
def State.waveTasks (s : State) (w : FormedWave) : List Task := w.tasks.filterMap (s.slice (w.queue / 64)).tasks.get?

/-- Is the context saved, in whole or in part, so that its waves wait at admission (20:R310)? -/
def State.savedCtx (s : State) (ctx : Nat) : Bool := State.chainSaved treeFuel s ctx || s.hasSaved ctx

/-- A wave that is not placed has completed, failed: a phase that counts its queue hears of it (20:R306). -/
def State.waveFails (s : State) (q : Nat) (ts : List Task) : State :=
  (ts.foldl (fun s t => s.failTask t) s).phaseArrive (fun _ _ => true) (fun w => destKind w == 3 && decide (destId w = q)) true

/-- The wave of a queue that formed first is admitted, or fails: none while it waits for a page, for its context to be
restored, or for its private area to fit. `hard`: pages that are not present will not be. -/
def State.admitHead (s : State) (q : Nat) (hard : Bool) : Option State :=
  match s.headWave q with
  | none => none
  | some w =>
    let ts := s.waveTasks w
    let sl := s.slice (q / 64)
    match State.dropPoisoned hard (s.setSlice (q / 64) { sl with waves := sl.waves.erase w }) (ts.filter (·.poisoned)) with
    | none => none
    | some s =>
      let good := ts.filter fun t => !t.poisoned
      let fail := fun (s : State) => some (s.waveFails q good)
      match good with
      | [] => some (s.waveFails q [])
      | t :: _ =>
        if s.savedCtx t.ctx then none
        else
          match s.homeRead (q / 64) t.ctx w.hdr 128 with
          | .wait => if hard && s.unmapped t.ctx w.hdr then fail s else none
          | .bad => fail s
          | .ok bs s' =>
            let h := KHdr.parse (ofBytes bs)
            if !h.ok (ofBytes bs) || !h.task || !s.fits t.ctx 1 h then fail s'
            else if !s.areaFits t.ctx 1 then none
            else some (s'.admitWave w.hdr q t.ctx h good)

/-- The waves of a queue are admitted in the order they formed, as far as they do not wait (20:R305, 01:R17). -/
def State.admitWaves : Nat → State → Nat → State
  | 0, s, _ => s
  | n + 1, s, q => match s.admitHead q false with | some s => State.admitWaves n s q | none => s

/-- Waves of a slice that wait at admission. -/
def State.admitFormed (s : State) (q : Nat) : State := State.admitWaves (s.slice (q / 64)).waves.length s q

/-- The header check of TSPAWN: its first 16 bytes. -/
def taskHeader (hdr : Nat) (bs : List Byte) : Bool := hdr % 128 == 0 && bit (ofBytes bs) 90

/-- The postings of a TSPAWN, in ascending thread index: each result with the entry taken, or none. -/
def spawnAll (q hdr ctx sigc : Nat) : State → List (Nat × Vals) → List (Nat × List Word) × State
  | s, [] => ([], s)
  | s, (t, v) :: rest =>
    let (slot, s) := match s.addTask ⟨hdr, ctx, q, BitVec.ofNat 64 v.a, sigc, s.time, false, 0⟩ with
      | some (e, s) => (some e, s.fullWaves 1 q ctx hdr)
      | none => (none, s)
    let (xs, s) := spawnAll q hdr ctx sigc s rest
    ((t, toWords (postStatus slot) 1) :: xs, s)

/-- Counters that a context may name: 1 up to this (20:R304). -/
def State.counterLimit (s : State) (ctx : Nat) : Nat := match s.ctx? ctx with | some c => min c.claim.dccnt 4096 | none => 0

/-- TSPAWN (21:R317). SIGC lies within the range of the context that the task will have, the queue's (log entry 52). -/
def execTspawn (o : Ops) (s : State) : Host.Outcome State Fault Refusal :=
  s.issueTx 60 o false fun c slot wp r p s =>
    let wop := 60 + o.x * 64
    let site := siteOf wp 60 o 0 3
    let w2 := wrap o.w2 32
    let q := bits w2 0 12
    let sigc := bits w2 12 12
    match p.vals with
    | [] => s.endMoves c slot site p [] false o.brk
    | x :: _ =>
      let hdr := x.2.b
      let all := fun (code addr : Nat) =>
        s.endMoves c slot site p (p.vals.map fun y => (y.1, .flt code 0 addr)) false o.brk
      let od := s.postOrder c slot wp (p.vals.map (·.1)) (o.t = 2)
      if hdr % 128 ≠ 0 then all fIllegalOperand hdr
      else
        match (s.threadRead c slot wp x.1 hdr 16).settled wp with
        | .order loc glob => s.yieldBefore c slot (.ordered [] loc glob) wop
        | .page va => s.yieldBefore c slot (.page va false) wop
        | .flt code sub => s.endMoves c slot site p [(x.1, .flt code sub hdr)] false o.brk
        | .ok bs s1 =>
          if !taskHeader hdr bs then all fIllegalOperand hdr
          else if sigc ≠ 0 && sigc ≥ s.counterLimit (s.queues.getD q Queue.blank).ctx then all fIllegalOperand 0
          else if !s.mayPost wp.ctx q then all fQueueAccess q
          else if !od.1.isEmpty || !od.2.isEmpty then s.yieldBefore c slot (.ordered [] od.1 od.2) wop
          else
            let ctx := (s.queues.getD q Queue.blank).ctx
            let (out, s) := spawnAll q hdr ctx sigc s1 p.vals
            let s := if s.counterBad ctx q sigc then s.poisonJob (q / 64) (s.counterOf ctx sigc) else s
            let s := (if bit w2 24 then State.flush 1024 s q ctx hdr else s).admitFormed q
            (s.awaitKnown c slot wp wop (Ops.dst o r) out).endMoves c slot site p [] false o.brk

/-- The oldest task of a queue whose wave is due: it has waited GTO, or 32 of its kind have gathered (20:R305). -/
def State.dueTask (s : State) (queue : Nat) : Option Task :=
  let sl := s.slice (queue / 64)
  let mine := (sl.gather.filterMap sl.tasks.get?).filter fun t => decide (t.queue = queue)
  mine.find? fun t => decide ((s.queues.getD queue Queue.blank).gto ≤ (s.time - t.arrived).toNat) ||
    decide (32 ≤ (s.gathered queue t.ctx t.hdr).length)

/-- The wave at admission waits for the page of its header, or of a record. -/
def State.waveWaits (s : State) (queue : Nat) : Bool :=
  match s.headWave queue with
  | none => false
  | some w =>
    let ts := s.waveTasks w
    let d := s.queues.getD queue Queue.blank
    (ts.any (·.poisoned) && decide (d.errrec ≠ 0) && s.unmapped d.ctx d.errrec) ||
    ts.any fun t => !t.poisoned && !s.savedCtx t.ctx && s.unmapped t.ctx w.hdr

/-- GATHER_TIMEOUT: the wave that is due forms, and the queue's waves go through admission. -/
def execGatherTimeout (slice queue : Nat) (s : State) : Host.Outcome State Fault Refusal :=
  .next <|
    if queue / 64 ≠ slice then s
    else
      let s := match s.dueTask queue with
        | none => s
        | some t => s.formWave queue t.ctx t.hdr
      s.admitFormed queue

/-! ### Phases (20:R306; 21:R320 to R322) -/

/-- The phase of a context with this header. -/
def State.phaseOf (s : State) (ctx hdr : Nat) : Option Phase :=
  (s.phases.find? fun e => decide (e.1 = ctx) && decide (e.2.hdr = hdr)).map (·.2)

/-- The destination words of a header. -/
def phaseDests (x : Nat) : List Word := (rangeFrom 1 (bits x 0 4)).map fun i => BitVec.ofNat 32 (bits x (32 * i) 32)

/-- Is a destination word well formed for the claim (20:R306, 21:R320)? -/
def destOk (c : Claim) (w : Word) : Bool :=
  let id := destId w
  bits w.toNat 18 2 == 0 &&
  (match destKind w with
   | 0 => id == 0
   | 1 => decide (id < 640) && c.has (id / 4)
   | 2 => bits id 4 4 == 0 && bits id 10 2 == 0 && c.clusters.any fun k =>
       decide (k / 40 = bits id 8 2) && decide (k % 40 % 16 = bits id 0 4)
   | _ => rangeIn (id, 1) (c.qlo, c.qcnt))

/-- Is the header well formed? -/
def phaseOk (c : Claim) (x : Nat) : Bool :=
  bits x 0 4 != 0 && bits x 4 28 == 0 && (phaseDests x).all (destOk c) && bits x (32 * (bits x 0 4 + 1)) 512 == 0

/-- The lowest free line of the package tree. -/
def State.freeLine (s : State) : Nat :=
  let used := s.phases.map fun e => e.2.line
  ((List.range 256).find? fun i => !used.contains i).getD 0

/-- PHASE at the phase table: the status, and the state. One that is opened again keeps its line; the phase opened earliest of
the complete ones goes where PHCNT phases are held. -/
def State.openPhase (s : State) (ctx core hdr : Nat) (dests : List Word) : Nat × State :=
  let limit := (match s.ctx? ctx with | some c => c.claim.phcnt | none => 0) - s.phasesGranted ctx
  let put := fun (s : State) (line : Nat) =>
    let (id, s) := s.takeId
    let ph : Phase := ⟨hdr, dests.map fun w => (w, bits w.toNat 0 16), false, false, id, core, line⟩
    { s with phases := s.phases ++ [(ctx, ph)] }
  let drop := fun (s : State) (h : Nat) => { s with phases := s.phases.filter fun e => !(decide (e.1 = ctx) && decide (e.2.hdr = h)) }
  match s.phaseOf ctx hdr with
  | some ph => if ph.complete then (0, put (drop s hdr) ph.line) else (2, s)
  | none =>
    if s.phasesHeld ctx < limit then (0, put s s.freeLine)
    else
      let done := (s.phases.filter fun e => decide (e.1 = ctx) && e.2.complete).map (·.2)
      match minOf (done.map (·.opened)) with
      | none => (1, s)
      | some n =>
        match done.find? fun ph => decide (ph.opened = n) with
        | none => (1, s)
        | some ph => (0, put (drop s ph.hdr) (drop s ph.hdr).freeLine)

/-- PHASE (21:R320). -/
def execPhase (o : Ops) (s : State) : Host.Outcome State Fault Refusal :=
  s.issueTx 60 o true fun c slot wp r p s =>
    let wop := 60 + o.x * 64
    let site := siteOf wp 60 o 0 3
    match p.vals with
    | [] => s.endMoves c slot site p [] false o.brk
    | x :: _ =>
      let hdr := x.2.a
      let bad := fun (code sub : Nat) => s.endMoves c slot site p [(x.1, .flt code sub hdr)] false o.brk
      if hdr % 64 ≠ 0 then bad fMisaligned 0
      else
        match (s.threadRead c slot wp x.1 hdr 64).settled wp with
        | .order loc glob => s.yieldBefore c slot (.ordered [] loc glob) wop
        | .page va => s.yieldBefore c slot (.page va false) wop
        | .flt code sub => bad code sub
        | .ok bs s =>
          let claim := match s.ctx? wp.ctx with | some c => c.claim | none => Claim.empty
          if !phaseOk claim (ofBytes bs) then bad fIllegalOperand 0
          else
            let (st, s) := s.openPhase wp.ctx c hdr (phaseDests (ofBytes bs))
            (s.electedResult c slot wp wop p (Ops.dst o r) st).endMoves c slot site p [] false o.brk

/-- One arrival at destination `i` of a phase: the status, and the state (21:R321). -/
def State.phaseArrival (s : State) (ctx hdr i : Nat) : Nat × State :=
  match s.phaseOf ctx hdr with
  | none => (1, s)
  | some ph =>
    match ph.dests[i - 1]? with
    | none => (3, s)
    | some (w, n) =>
      if i = 0 || destKind w ≥ 2 then (3, s)
      else if n = 0 then (2, s)
      else
        let ph := { ph with dests := setAt ph.dests (i - 1) (w, n - 1) }
        (0, { s with phases := s.phases.map fun e => if e.1 = ctx && e.2.hdr = hdr then (ctx, ph) else e })

/-- PARRIVE: one arrival of the warp, with the header of its lowest-numbered participant. -/
def execParrive (o : Ops) (s : State) : Host.Outcome State Fault Refusal :=
  s.issueTx 60 o false fun c slot wp r p s =>
    let wop := 60 + o.x * 64
    let site := siteOf wp 60 o 0 3
    match p.vals with
    | [] => s.endMoves c slot site p [] false o.brk
    | x :: _ =>
      let hdr := x.2.a
      let before := s.notGlobal c slot wp.uid (p.vals.map (·.1)) ++ s.released c
      if hdr % 64 ≠ 0 then s.endMoves c slot site p (p.vals.map fun y => (y.1, .flt fMisaligned 0 hdr)) false o.brk
      else if !before.isEmpty then s.yieldBefore c slot (.ordered [] [] before) wop
      else
        let (st, s) := s.phaseArrival wp.ctx hdr (bits (wrap o.w2 32) 0 4)
        (s.electedResult c slot wp wop p (Ops.dst o r) st).endMoves c slot site p [] false o.brk

/-- What PWAIT writes when the phase has completed: 1 if FAIL is set. -/
def Phase.verdict (ph : Phase) : Nat := if ph.fail then 1 else 0

/-- PWAIT: at once with 2 where there is no phase, else the warp waits after the instruction until it is complete. -/
def execPwait (o : Ops) (s : State) : Host.Outcome State Fault Refusal :=
  s.issueTx 60 o false fun c slot wp r p s =>
    let wop := 60 + o.x * 64
    let site := siteOf wp 60 o 0 3
    match p.vals with
    | [] => s.endMoves c slot site p [] false o.brk
    | x :: _ =>
      let hdr := x.2.a
      if hdr % 64 ≠ 0 then s.endMoves c slot site p (p.vals.map fun y => (y.1, .flt fMisaligned 0 hdr)) false o.brk
      else
        let s := match s.phaseOf wp.ctx hdr with
          | none => s.electedResult c slot wp wop p (Ops.dst o r) 2
          | some ph => s.modWarp c slot fun w =>
            { w with wait := .pwait hdr ph.opened (if ph.complete then some ph.verdict else none)
                        (wp.waiters (p.vals.map Prod.fst) (Ops.dst o r)),
                     waitOp := wop, back := p.exec, backLen := o.form.len }
        s.endMoves c slot site p [] false o.brk

/-- A warp that waits for this opening of a phase of a context has its result. -/
def Warp.told (w : Warp) (ctx : Nat) (ph : Phase) : Warp :=
  match w.wait with
  | .pwait h op none ws =>
    if w.ctx = ctx && h = ph.hdr && op = ph.opened then { w with wait := .pwait h op (some ph.verdict) ws } else w
  | _ => w

/-- The warps that wait for this opening of the phase have their result, whatever becomes of its entry, saved ones too
(21:R322). -/
def State.tellWaiting (s : State) (ctx : Nat) (ph : Phase) : State :=
  { s with
    warps := s.warps.map fun (e : Nat × Warp) => (e.1, e.2.told ctx ph)
    clusters := s.clusters.map fun (k : Nat × Cluster) => (k.1, { k.2 with saved := k.2.saved.map fun v =>
      { v with warps := v.warps.map fun w => (w.1, w.2.1, w.2.2.told ctx ph) } }) }

/-- Every destination line of the phase is high: it is complete, and its waiting PWAITs may return. -/
def execPhaseComplete (ctx hdr : Nat) (s : State) : Host.Outcome State Fault Refusal :=
  .next <|
    match s.phaseOf ctx hdr with
    | none => s
    | some ph =>
      if !(ph.dests.all fun d => decide (d.2 = 0)) then s
      else
        let done := { ph with complete := true }
        let s := { s with phases := s.phases.map fun (e : Nat × Phase) => if e.1 = ctx && e.2.hdr = hdr then (e.1, done) else e }
        s.tellWaiting ctx done

/-! ### User-interrupt vectors (21:R323) -/

/-- The group slot that a target names: cluster, core in cluster, group slot. -/
def targetOf (x : Nat) : Nat × Nat := (4 * bits x 0 8 + bits x 8 2, bits x 10 5)

/-- Raise a vector at a group of a context: none where no group of it is there. -/
def State.raiseVec (s : State) (ctx target vec code raiser : Nat) : Option State :=
  let (core, gslot) := targetOf target
  if target ≥ 2 ^ 15 then none
  else
    match s.group? core gslot with
    | none => none
    | some g =>
      if g.ctx ≠ ctx then none
      else some (s.setGroup core gslot { g with
        uipend := BitVec.ofNat 32 (setBits g.uipend.toNat vec 1 1),
        uicode := g.uicode.set vec (BitVec.ofNat 32 code, raiser) })

/-- INTR. -/
def execIntr (o : Ops) (s : State) : Host.Outcome State Fault Refusal :=
  s.issueTx 60 o true fun c slot wp r p s =>
    let wop := 60 + o.x * 64
    let site := siteOf wp 60 o 0 3
    match p.vals with
    | [] => s.endMoves c slot site p [] false o.brk
    | x :: _ =>
      let before := if o.t = 2 then s.notGlobal c slot wp.uid [x.1] ++ s.released c else []
      if !before.isEmpty then s.yieldBefore c slot (.ordered [] [] before) wop
      else
        let (st, s) := match s.raiseVec wp.ctx x.2.a (bits (wrap o.w2 32) 0 5) x.2.b wp.ctx with
          | some s => (0, s)
          | none => (1, s)
        (s.electedResult c slot wp wop p (Ops.dst o r) st).endMoves c slot site p [] false o.brk

end Sys2Proof.Machine
end

