-- ==== Sys2Proof/Machine/Sys.lean ====
section
/-! DEFINITION. Leaving a trap handler with the replay of logged instructions, system registers, user interrupts and the
mailboxes of the scalar cores: family 62 (11:R197 to R199; 05:R97; 09:R160; 21:R324 to R326, R329 to R332). -/

namespace Sys2Proof.Machine

def fPrivilege : Nat := 67
def fIrqState : Nat := 68
def fEmptyRead : Nat := 20

/-! ### Replay of a logged instruction for one thread (11:R197, R199) -/

/-- The entry and the logged sources that a record's handle names, while the entry is held for its thread. -/
def State.heldLog (s : State) (c : Nat) (rec : FaultRecord) : Option (Nat × LogEntry × LogThread) :=
  match entryOf rec.handle with
  | none => none
  | some e =>
    match (s.core c).oplog.get? e with
    | none => none
    | some le => (le.threads.find? fun x => decide (x.thread = rec.thread) && decide (x.status = .faulted)).map fun x => (e, le, x)

/-- What acting on a logged instruction gives: the state with the results that the warp then waits for and the CPYW it
waits at; a fault; or a wait before the TRET. -/
inductive Replay
  | ok (s : State) (ids : List Nat) (cpyw : List Waiter)
  | flt (s : State) (code sub addr : Nat)
  | wait (w : Wait)

/-- The instruction being replayed: its place, its thread and its logged sources. -/
structure Logged where
  core : Nat
  slot : Nat
  thread : Nat
  entry : Nat
  instr : Instr
  op : Nat
  o : Ops
  pc : DWord
  a : Nat
  b : Nat
  c : Nat
  result : Option Nat

/-- The destination of a logged instruction. -/
def Logged.dst (l : Logged) : Option (Dst × Nat) := (rolesOf l.op l.o).bind fun r => Ops.dst l.o r

/-- Size and direction that a new record reports. -/
def Logged.site (l : Logged) : Site :=
  ⟨l.pc, l.o.form.len, l.op, l.o.x, (memSite l.op l.o).1, (memSite l.op l.o).2⟩

/-- A known result for the thread; with `empties` its frame register is marked empty. The warp waits for one that is not
so marked. -/
def State.replayKnown (s : State) (l : Logged) (wp : Warp) (empties : Bool) (ws : List Word) : Replay :=
  match l.dst with
  | none => .ok (s.logDone l.core (some l.entry) l.thread) [] []
  | some (d, n) =>
    let (b, s) := s.takeId
    let (id, _, s) := s.newResult l.core l.slot l.thread wp d n b empties
    let s := (s.give (some id) ws).logDone l.core (some l.entry) l.thread
    .ok s (if empties && !Dst.awaited d then [] else [id]) []

/-- A value written at once. -/
def State.replayWrite (s : State) (l : Logged) (v : Nat) : Replay :=
  let s := match l.dst with
    | some (d, n) => s.modWarp l.core l.slot fun w => w.writeDst l.thread d n v
    | none => s
  .ok (s.logDone l.core (some l.entry) l.thread) [] []

/-- The result that the warp waits for after the replay. -/
def Logged.awaited (l : Logged) (rid : Option Nat) (all : Bool) : List Nat :=
  match rid with
  | none => []
  | some id => if all || (match l.dst with | some (d, _) => Dst.awaited d | none => false) then [id] else []

/-- An access formed from the logged sources, with the logged immediate and mode; one that the host window does not allow is
ADDRESS_RANGE again (23:R341). -/
def State.replayAccess (s : State) (l : Logged) (wp : Warp) : Replay :=
  match memForm l.op l.o wp l.thread l.a l.b l.c with
  | .flt code addr => .flt s code 0 addr
  | .ok f =>
    let vas := (List.range f.parts).map fun (i : Nat) => wrap ((f.va + i * f.stride : Nat) : Int) 64
    let xl := s.xlatAll f.kind (s.tlbLook l.core wp.ctx) wp.ctx vas
    let tags := if f.rel && decide (f.scope < 3) then s.tagWaits l.core 1 else []
    if xl.inHost && f.kind.hostBarred l.o.x (wp.tracks l.op l.thread) then .flt s fAddressRange 0 f.va
    else if !tags.isEmpty then .wait (.ordered [] [] tags)
    else
    let all := waitsAll l.op l.o.x
    let (rid, lands, s) : Option Nat × List Land × State := match l.result.bind s.results.get?, l.dst with
      | some r, _ => (l.result, r.lands, { s with results := s.results.set (l.result.getD 0) { r with faulted := false } })
      | none, some (d, n) =>
        let (b, s) := s.takeId
        let (id, lands, s) := s.newResult l.core l.slot l.thread wp d n b (producer l.op l.o.x)
        (some id, lands, s)
      | none, none =>
        if all then
          let (b, s) := s.takeId
          let (id, lands, s) := s.newResult l.core l.slot l.thread wp .discard 1 b false
          (some id, lands, s)
        else (none, [], s)
    let info : StartInfo := ⟨l.core, l.slot, l.site, some l.entry, [], [], wholeLine [.ok f] f.va,
      lineCharge [(l.thread, .ok f)] l.thread f, wp.tracks l.op l.thread⟩
    match s.startAccess wp l.thread info f lands rid with
    | (.flt code sub va, s) => .flt (s.deadResult rid) code sub va
    | (.done _, s) => .ok (s.logDone l.core (some l.entry) l.thread) (l.awaited rid all) []
    | (.waits _, s) => .ok (s.logMark l.core (some l.entry) l.thread .waiting) (l.awaited rid all) []

/-- What a replayed scratchpad access of a thread comes after: its own accesses to these rows, what its fences and acquires
order, and for a release everything earlier (18:R282). -/
def State.replayAfter (s : State) (l : Logged) (wp : Warp) (rows : List Nat) (isStore : Bool) : Option Wait :=
  let rel := isStore && l.o.t / 2 == 1
  let od := if scratchLater l.o then ([], []) else s.scratchOrder l.core l.slot wp l.thread isStore rel
  let own := s.scratchPending l.core l.slot wp.uid (List.range 32) rows
  let tags := if rel then s.tagWaits l.core 1 else []
  if od.1.isEmpty && od.2.isEmpty && own.isEmpty && tags.isEmpty then none
  else some (.ordered [] (od.1 ++ own) (od.2 ++ tags))

/-- LDS and STS: alignment and range, the flag mode, poison; then one access (10:R167, R168). -/
def State.replayScratch (s : State) (l : Logged) (wp : Warp) : Replay :=
  let g := s.groupOf l.core wp
  let k := s.core l.core
  let n := (memSite l.op l.o).1
  let sa := scratchAddr l.a l.o
  let isStore := bit l.o.x 0
  let mode := bits l.o.x 3 2
  match scratchCheck g.scratchCount n sa with
  | some (code, addr) => .flt s code 0 addr
  | none =>
    let row := g.scratchBase + sa.toNat / 128
    let at_ := 128 * g.scratchBase + sa.toNat
    match s.replayAfter l wp [row] isStore with
    | some w => .wait w
    | none =>
    if mode = 2 && k.full row == isStore then .wait (.rows [(row, k.full row)])
    else if mode = 1 && !isStore && !k.full row then .wait (.rows [(row, k.full row)])
    else if mode = 3 && k.full row == isStore then .flt s fScratchFlag 0 sa.toNat
    else if !isStore && k.scratchBad at_ n then .flt s fDataPoison 0 sa.toNat
    else if isStore then
      let s := if l.o.t / 2 == 1 then s.releaseThreads l.core l.slot wp.uid [l.thread] else s
      let k := s.core l.core
      let k := k.putScratch at_ (toBytes l.c n) false
      let k := if mode = 1 || mode = 2 then k.setFlags [row] true else k
      .ok ((s.setCore l.core k).logDone l.core (some l.entry) l.thread) [] []
    else
      let ws := k.ldsWords g.scratchBase n sa.toNat
      let s := if mode = 2 then s.setCore l.core (k.setFlags [row] false) else s
      s.replayKnown l wp true ws

/-- SROWSET and SROWGET (10:R169). -/
def State.replayRows (s : State) (l : Logged) (wp : Warp) : Replay :=
  let g := s.groupOf l.core wp
  let k := s.core l.core
  let a := l.a % 2 ^ 32
  if l.o.x = 32 then
    let w2 := wrap l.o.w2 32
    let n := bits w2 0 12
    if a + n > g.scratchCount then .flt s fScratchRange 0 (128 * a)
    else
      match s.replayAfter l wp (rowUnion g.scratchBase n [a]) true with
      | some w => .wait w
      | none =>
      let s := if l.o.t / 2 == 1 then s.releaseThreads l.core l.slot wp.uid [l.thread] else s
      let s := s.setCore l.core ((s.core l.core).setFlags (rowUnion g.scratchBase n [a]) (bit w2 12))
      .ok (s.logDone l.core (some l.entry) l.thread) [] []
  else if a ≥ g.scratchCount then .flt s fScratchRange 0 (128 * a)
  else s.replayWrite l (rowMask k g.scratchBase g.scratchCount a)

/-- CPY and COLL: their quad lands in the copy of the thread. -/
def State.replayCopy (s : State) (l : Logged) (wp : Warp) : Replay :=
  let sa : Int := ((l.a % 2 ^ 32 : Nat) : Int) + l.o.w2
  match s.copyDesc l.core l.slot wp sa (if l.o.x = 0 then 32 else 64) with
  | .flt code addr => .flt s code 0 addr
  | .wait ids => .wait (.ordered [] ids [])
  | .ok d =>
    match if l.o.x = 0 then s.cpyAct l.core l.slot wp d else s.collAct l.core l.slot wp d with
    | .flt code _ => .flt s code 0 sa.toNat
    | .full => .wait .engine
    | .go s promise handle => s.replayKnown l wp false (toWords promise.toNat 2 ++ [BitVec.ofNat 32 handle, 0])

/-- The other instructions of family 58 that hold an entry for their faults alone. -/
def State.replayDie (s : State) (l : Logged) (wp : Warp) : Replay :=
  match l.o.x with
  | 1 =>
    let w : Waiter := ⟨l.thread, BitVec.ofNat 64 l.a, BitVec.ofNat 32 l.b, wp.landsAt l.thread l.dst⟩
    .ok (s.logMark l.core (some l.entry) l.thread .waiting) [] [w]
  | 2 => s.replayKnown l wp false (toWords (s.estimate wp.ctx (l.b % 2 ^ 32)) 2)
  | 8 => s.replayWrite l (wsWindow (dieOf l.core) (bits (wrap l.o.w2 32) 0 5) s.time)
  | x =>
    let n := wrap l.o.w2 32
    let a := l.a % 2 ^ 32
    let st := s.wsStatus (dieOf l.core) wp.ctx a n
    let s := if st = 0 then s.wsSet (dieOf l.core) a n (x == 7) else s
    s.replayKnown l wp false (toWords st 1)

/-- Replay an instruction for a thread that has left its handler. A destination beyond its frame is FRAME_INDEX again. -/
def State.replay (s : State) (l : Logged) : Replay :=
  match s.warp? l.core l.slot with
  | none => .ok s [] []
  | some wp =>
    match wp.thread? l.thread with
    | none => .ok s [] []
    | some th =>
      if l.result.isNone && (match l.dst with | some (d, n) => Dst.beyond th d n | none => false) then .flt s fFrameIndex 0 0
      else if l.op = 51 then (if l.o.x < 32 then s.replayScratch l wp else s.replayRows l wp)
      else if l.op = 58 && (l.o.x = 0 || l.o.x = 9) then s.replayCopy l wp
      else if l.op = 58 && !(3 ≤ l.o.x && l.o.x ≤ 5) then s.replayDie l wp
      else s.replayAccess l wp

/-- The replay's result fills the rows of its destination: what the handler's entry spilled of them is not refilled
(11:R199). -/
def State.dropRefill (s : State) (l : Logged) : State :=
  match (s.warp? l.core l.slot).bind (·.thread? l.thread) with
  | none => s
  | some th =>
    let lands := match l.result.bind s.results.get?, l.dst with
      | some r, _ => r.lands
      | none, some (d, n) => landsOf th d n
      | none, none => []
    s.modWarp l.core l.slot fun w => w.modThread l.thread fun th =>
      { th with refill := th.refill.filter fun j => !lands.contains (Land.row j) }

/-! ### SKIP -/

/-- The handler's value at index `i` lands where the destination's word `i` would: a frame register at or above the
restored S is not written, and a row that a refill would still fill needs it no more. -/
def Warp.skipLand (w : Warp) (t : Nat) (d : Dst) (i : Nat) (land : Land) (v : Word) : Warp :=
  match w.thread? t with
  | none => w
  | some th =>
    let inside := match d with | .reg (.v r) => decide (r + i < th.s) | _ => true
    if !inside then w
    else
      let w := match land with
        | .row j => w.modThread t fun th => { th with refill := th.refill.filter (· ≠ j) }
        | _ => w
      w.landOne t land v

/-- SKIP with a handle: the destination receives the handler's words and is full; a store or RED is dropped. -/
def State.skipLogged (s : State) (l : Logged) (ws : List Word) : State :=
  let s := match s.warp? l.core l.slot, l.dst with
    | some wp, some (d, n) =>
      (match wp.thread? l.thread with
       | none => s
       | some th =>
         let lands := match l.result.bind s.results.get? with | some r => r.lands | none => landsOf th d n
         let w' := ((List.range n).zip (landPairs lands (ws.take n))).foldl (fun (w : Warp) (x : Nat × Land × Word) => w.skipLand l.thread d x.1 x.2.1 x.2.2) wp
         s.setWarp l.core l.slot w')
    | _, _ => s
  let s := match l.result with | some r => { s with results := s.results.del r } | none => s
  s.logDone l.core (some l.entry) l.thread

/-! ### TRET (11:R199, 21:R329) -/

/-- The words v8 to v15 of a handler's frame. -/
def Thread.handlerWords (th : Thread) : List Word := (List.range 8).map fun i => (th.cell (th.fp + 8 + i)).val

/-- Rows of the handler's frame that an action reads and that are still empty. -/
def Thread.handlerEmpty (th : Thread) (n : Nat) : List Nat :=
  (rangeFrom (th.fp + 8) n).filter fun j => !(th.cell j).full

/-- The continue PC of a thread whose record's handle is valid (11:R199). -/
def TrapEntry.continue_ (e : TrapEntry) (resume : DWord) : DWord :=
  if e.record.late then resume else resume + BitVec.ofNat 64 e.len

/-- The state in which TRETs of one warp instruction act, with the results and CPYWs to wait for. -/
structure Tret where
  s : State
  ids : List Nat
  cpyw : List (Nat × Waiter)
  wait : Option Wait

/-- A replay that faults again enters the handler again, with a new record and LATE 0. -/
def State.faultAgain (s : State) (l : Logged) (cont : DWord) (code sub addr : Nat) : State :=
  match (s.warp? l.core l.slot).bind (·.thread? l.thread) with
  | none => s
  | some th =>
    s.takeFault l.core l.slot (l.site.record ⟨l.thread, code, sub, addr⟩ false (some l.entry) l.slot th.depth)
      (cont - BitVec.ofNat 64 l.o.form.len) l.o.form.len

/-- A source. -/
inductive Which
  | a | b | c

/-- Words of the handler's frame that stand for a source: as many as it has. A loop-nest address is a pair. -/
def fixWords (op : Nat) (o : Ops) (k : Which) : Nat :=
  match rolesOf op o with
  | none => 0
  | some r =>
    match k with
    | .a => if r.a.reads = 0 then 2 else r.a.reads
    | .b => r.b.reads
    | .c => r.c.reads

/-- One thread leaves its handler by an action: 0 RETRY, 1 SKIP, 2 FIXRETRY. -/
def Tret.leave (k : Tret) (c slot t action : Nat) (wp : Warp) (th : Thread) (e : TrapEntry) (resume : DWord) : Tret :=
  match k.s.heldLog c e.record with
  | none =>
    let pc := if action = 1 then e.record.pc + BitVec.ofNat 64 e.len else e.record.pc
    let th' := { th with trap := none }.leaveTrap pc
    { k with s := k.s.setWarp c slot (wp.setThread t th') }
  | some (entry, le, x) =>
    match le.instr.lane? with
    | none => k
    | some (op, o) =>
      let ws := th.handlerWords
      let fix := decide (action = 2)
      let l : Logged :=
        { core := c, slot := slot, thread := t, entry := entry, instr := le.instr, op := op, o := o, pc := le.pc,
          a := if fix then ofWords (ws.take (fixWords op o .a)) else x.a.toNat,
          b := if fix then ofWords ((ws.drop 2).take (fixWords op o .b)) else x.b.toNat,
          c := if fix then ofWords ((ws.drop 4).take (fixWords op o .c)) else x.c.toNat, result := x.result }
      let n := if fix then 8 else if action = 1 then (match l.dst with | some (_, n) => n | none => 0) else 0
      let empty := th.handlerEmpty n
      if !empty.isEmpty then { k with wait := some (.regs (empty.map fun j => (t, j))) }
      else
        let cont := e.continue_ resume
        let th' := { th with trap := none }.leaveTrap cont
        let s := k.s.setWarp c slot (wp.setThread t th')
        if action = 1 then { k with s := s.skipLogged l ws }
        else
          match (s.dropRefill l).replay l with
          | .wait w => { k with wait := some w }
          | .flt s code sub addr => { k with s := s.faultAgain l cont code sub addr }
          | .ok s ids cp => { k with s := s, ids := k.ids ++ ids, cpyw := k.cpyw ++ cp.map fun w => (entry, w) }

/-- TRET in one thread: it must be at handler privilege, with its entry's trap record on top; else it takes its fault at
once, before the threads above it act (02:R32). -/
def Tret.step (k : Tret) (c slot action : Nat) (reflect : Bool) (site : Site) (t : Nat) : Tret :=
  match k.s.warp? c slot with
  | none => k
  | some wp =>
    match wp.thread? t with
    | none => k
    | some th =>
      let fault := fun (code : Nat) =>
        { k with s := k.s.takeFault c slot (site.record ⟨t, code, 0, 0⟩ false none slot th.depth) th.pc site.len }
      match th.trap with
      | none => fault fPrivilege
      | some e =>
        match th.link with
        | .trap resume _ :: _ =>
          if th.depth ≠ e.depth then fault fLinkMismatch
          else if action = 3 then
            let s := if reflect then k.s.post 1 wp.ctx 0 (some e.record) else k.s
            { k with s := s.killThread c slot t e.record.code }
          else k.leave c slot t action wp th e resume
        | _ => fault fLinkMismatch

/-- The shared form of TRET. -/
def State.tret (s : State) (action : Nat) (o : Ops) : Host.Outcome State Fault Refusal :=
  s.issue 62 o false fun c slot wp _ p s =>
    let wop := 62 + o.x * 64
    let ts := p.vals.map (·.1)
    let k := ts.foldl (fun (k : Tret) t => k.step c slot action (bit (wrap o.w2 32) 2) (siteOf wp 62 o 0 3) t) ⟨s, [], [], none⟩
    match k.wait with
    | some w => s.yieldBefore c slot w wop
    | none =>
      let s := k.s
      let ms := ts.filterMap fun t => ((s.warp? c slot).bind (·.thread? t)).map fun th => (t, Move.to th.pc.toNat)
      let s := if !k.cpyw.isEmpty then s.modWarp c slot fun w => { w with wait := .cpyw k.cpyw, waitOp := 58 + 64 }
        else if !k.ids.isEmpty then s.modWarp c slot fun w => { w with wait := .results k.ids, waitOp := wop }
        else s
      s.endMoves c slot (siteOf wp 62 o 0 3) p ms true o.brk

def execTretRetry (o : Ops) (s : State) : Host.Outcome State Fault Refusal := s.tret 0 o
def execTretSkip (o : Ops) (s : State) : Host.Outcome State Fault Refusal := s.tret 1 o
def execTretFixretry (o : Ops) (s : State) : Host.Outcome State Fault Refusal := s.tret 2 o
def execTretKill (o : Ops) (s : State) : Host.Outcome State Fault Refusal := s.tret 3 o

/-! ### System registers (05:R97 Table 6, 21:R330 Table 9) -/

/-- PLACE. -/
def placeWord (c slot gslot : Nat) : Nat :=
  slot % 32 + (c % 4) * 2 ^ 5 + (clusterOf c % 40) * 2 ^ 8 + (dieOf c) * 2 ^ 14 + gslot * 2 ^ 16 + slot * 2 ^ 21

/-- The value of system register `n` in a thread. -/
def State.sysReg (s : State) (c slot : Nat) (wp : Warp) (th : Thread) (n : Nat) : Nat :=
  let ctx := s.ctx? wp.ctx
  match n with
  | 0 => wp.status
  | 1 => th.fp
  | 2 => th.s
  | 3 => th.depth
  | 4 => th.meetA.toNat
  | 5 => th.meetD
  | 6 => wp.pbase.toNat
  | 7 => wp.p
  | 8 => wp.plim
  | 9 => wp.wpriv.toNat
  | 10 => wp.win + wp.winBase * 2 ^ 8
  | 11 => wp.ctx + (match ctx with | some x => x.depth | none => 0) * 2 ^ 16
  | 12 => s.time.toNat
  | 13 => placeWord c slot wp.gslot
  | 14 => (match ctx with | some x => x.hbase.toNat | none => 0)
  | 15 => (match ctx with | some x => x.uibase.toNat | none => 0)
  | _ => (s.groupOf c wp).uipend.toNat

/-- SYSR, for each participant. -/
def execSysr (o : Ops) (s : State) : Host.Outcome State Fault Refusal :=
  s.issue 62 o false fun c slot wp r p s =>
    let n := bits (wrap o.w2 32) 0 8
    let rs := p.vals.filterMap fun x => (wp.thread? x.1).map fun th => (x.1, s.sysReg c slot wp th n, (0 : XFlags))
    let s := s.modWarp c slot fun w => w.writeAll (Ops.dst o r) rs
    s.endMoves c slot (siteOf wp 62 o 0 3) p [] false o.brk

/-- SYSW, elected: STATUS at once; a context register lands later. -/
def execSysw (o : Ops) (s : State) : Host.Outcome State Fault Refusal :=
  s.issue 62 o true fun c slot wp _ p s =>
    let wop := 62 + o.x * 64
    let site := siteOf wp 62 o 0 3
    match p.vals with
    | [] => s.endMoves c slot site p [] false o.brk
    | x :: _ =>
      let v := x.2.b
      let n := bits (wrap o.w2 32) 0 8
      if n = 0 then (s.modWarp c slot fun w => w.setStatus v).endMoves c slot site p [] false o.brk
      else if !goodTarget v then s.endMoves c slot site p [(x.1, .flt fBadTarget 0 v)] false o.brk
      else
        let s := match s.ctx? wp.ctx with
          | some k => s.setCtx wp.ctx
              (if n = 14 then { k with hbase := BitVec.ofNat 64 v } else { k with uibase := BitVec.ofNat 64 v })
          | none => s
        let s := s.modWarp c slot fun w => { w with wait := .results [], waitOp := wop }
        s.endMoves c slot site p [] false o.brk

/-! ### User interrupts (21:R324 to R326) -/

/-- The mask after IMASK by T. -/
def imaskOn (t : Nat) (old new : Word) : Word := if t = 0 then new else if t = 1 then old ||| new else old &&& ~~~new

/-- IMASK, elected: the old mask to every participant. -/
def execImask (o : Ops) (s : State) : Host.Outcome State Fault Refusal :=
  s.issue 62 o true fun c slot wp r p s =>
    let site := siteOf wp 62 o 0 3
    match p.vals with
    | [] => s.endMoves c slot site p [] false o.brk
    | x :: _ =>
      let g := s.groupOf c wp
      let s := match s.group? c wp.gslot with
        | some g => s.setGroup c wp.gslot { g with imask := imaskOn o.t g.imask (BitVec.ofNat 32 x.2.b) }
        | none => s
      let s := s.modWarp c slot fun w => w.writeAll (Ops.dst o r) (p.parts.map fun t => (t, g.imask.toNat, (0 : XFlags)))
      s.endMoves c slot site p [] false o.brk

/-- IRET, for each participant. -/
def execIret (o : Ops) (s : State) : Host.Outcome State Fault Refusal :=
  s.issue 62 o false fun c slot wp _ p s =>
    let out := p.vals.map fun x =>
      match wp.thread? x.1 with
      | none => (x.1, Move.next)
      | some th =>
        if wp.irq ≠ some (x.1, th.depth) then (x.1, .flt fIrqState 0 0)
        else
          match th.link with
          | .trap resume _ :: _ => (x.1, .to resume.toNat)
          | _ => (x.1, .flt fLinkMismatch 0 0)
    let back := out.filterMap fun x => match x.2 with | .to pc => some (x.1, pc) | _ => none
    let s := s.modWarp c slot fun w =>
      back.foldl (fun (w : Warp) x => { (w.modThread x.1 fun th => th.leaveTrap (BitVec.ofNat 64 x.2)) with irq := none }) w
    s.endMoves c slot (siteOf wp 62 o 0 3) p out true o.brk

/-- The lowest pending vector that the mask lets through. -/
def Group.nextVec (g : Group) : Option Nat := (List.range 32).find? fun v => (g.uipend &&& g.imask).getLsbD v

/-- The thread of a warp that receives an interrupt: the lowest-numbered that is alive and not held, where some such thread is
not at handler privilege (21:R324, R325). -/
def Warp.receiver (w : Warp) : Option Nat :=
  if (w.select fun th => th.alive && !th.held && th.trap.isNone).isEmpty then none
  else (w.select fun th => th.alive && !th.held).head?

/-- Is the warp in an interrupt: does the thread that took it live? -/
def Warp.inIrq (w : Warp) : Bool := match w.irq with
  | some x => (match w.thread? x.1 with | some th => th.alive | none => false)
  | none => false

/-- Does a thread wait for the spill engine or a link record, so that it enters no handler yet? -/
def Warp.entering (w : Warp) (t : Nat) : Bool := match w.thread? t with | some th => decide (th.twait ≠ .none) | none => false

/-- How a warp that waits receives an interrupt (21 Table 4): not yet, its wait ends, or it ends and the instruction at
which it waits is executed again. -/
inductive Receive
  | notYet | ends | again
deriving DecidableEq, Repr

def Wait.receive : Wait → Receive
  | .none => .ends
  | .sleep _ => .ends
  | .mxwait _ _ => .again
  | .pwait _ _ _ _ => .again
  | .lswait _ _ _ _ => .again
  | .barrier _ arrived => if arrived then .notYet else .again
  | .regs _ => .notYet
  | .rows _ => .notYet
  | .engine => .notYet
  | .spill => .notYet
  | .results _ => .notYet
  | .pbar => .notYet
  | .cpyw _ => .notYet
  | .page _ _ => .notYet
  | .mailbox _ => .notYet
  | .oplog => .notYet
  | .ordered _ _ _ => .notYet
  | .stopping _ _ => .notYet

/-- The wait ends with no result written; the threads of the waiting instruction return to it, where the hold test is
made again (05:R78). -/
def Warp.endWait (w : Warp) (stamp : Word) : Warp :=
  let w := if w.wait.receive = .again then
      w.back.foldl (fun (w : Warp) t => w.modThread t fun th => Thread.testHold { th with pc := th.pc - BitVec.ofNat 64 w.backLen }) w
    else w
  if w.wait = .none then w else { w with wait := .none, waitOp := 0, stamp := stamp }

/-- The lowest-numbered alive warp of a group. -/
def State.lowestWarp (s : State) (c gslot : Nat) : Option Nat :=
  (rangeFrom (8 * gslot) 8).find? fun w => match s.warp? c w with
    | some wp => decide (wp.gslot = gslot) && wp.threads.any (·.alive)
    | none => false

/-- Enter the interrupt handler in thread `t`; an entry that fails leaves the vector pending and kills the thread (one whose
rows are still to be spilled may yet fail: `State.spillFails`). -/
def State.enterIrq (s : State) (c slot t vec : Nat) (ui : DWord) : State :=
  match s.warp? c slot with
  | none => s
  | some wp =>
    match wp.thread? t, s.group? c wp.gslot with
    | some th, some g =>
      let (code, raiser) := g.uicode.getD vec (0, 0)
      let ws := [code, BitVec.ofNat 32 vec] ++ toWords th.pc.toNat 2 ++ [BitVec.ofNat 32 raiser] ++ List.replicate 11 0
      (match s.enterFrame c slot t th.pc ui ws none with
       | (s, some (sub, addr)) =>
         let site : Site := ⟨th.pc, 0, 0, 0, 0, 3⟩
         (s.reflect c slot t wp.ctx [site.record ⟨t, fFrameSpill, sub, addr⟩ false none slot th.depth]).afterMove c slot [t]
       | (s, none) =>
         let s := s.setGroup c wp.gslot { g with uipend := BitVec.ofNat 32 (setBits g.uipend.toNat vec 1 0), uicode := g.uicode.del vec }
         let s := s.modWarp c slot fun w => ({ w with irq := some (t, th.depth + 1), refused := [] }).splitCopy [t] th.copy
         s.afterMove c slot [t])
    | _, _ => s

/-- INTERRUPT_DELIVERY to a warp, where every condition of 21:R324 holds. -/
def execInterruptDelivery (core slot : Nat) (s : State) : Host.Outcome State Fault Refusal :=
  .next <|
    match s.warp? core slot with
    | none => s
    | some wp =>
      let back := wp.endWait (s.laneNow core slot + 1)
      match s.group? core wp.gslot, back.receiver with
      | some g, some t =>
        let ui := match s.ctx? wp.ctx with | some x => x.uibase | none => 0
        (match g.nextVec with
         | none => s
         | some vec =>
           if ui = 0 || wp.inIrq || back.entering t || s.lowestWarp core wp.gslot ≠ some slot || wp.wait.receive = .notYet ||
               (s.core core).laneRun.get? (slot % 32) = some slot || (s.cluster (clusterOf core)).stopping wp.ctx then s
           else
             (s.setWarp core slot back).enterIrq core slot t vec ui)
      | _, _ => s

/-! ### Mailboxes (09:R160, 21:R331, R332) -/

/-- The scalar core that T selects. -/
def Core.scalar (k : Core) (storer : Bool) : Scalar := if storer then k.storer else k.loader
def Core.setScalar (k : Core) (storer : Bool) (x : Scalar) : Core := if storer then { k with storer := x } else { k with loader := x }

/-- Commands that a mailbox holds at most. -/
def mailboxSize : Nat := 32

/-- A command enters the mailbox: the last 64 tickets of a context are remembered, and what an earlier command of the same
ticket left is gone. -/
def Scalar.post (x : Scalar) (cmd : LsCommand) : Scalar :=
  { x with mailbox := x.mailbox ++ [cmd], ticket := (x.ticket + 1) % 65536,
           posted := (cmd.ctx, cmd.ticket) :: ((x.posted.filter fun p => decide (p.1 = cmd.ctx)).take 63 ++
             x.posted.filter fun p => decide (p.1 ≠ cmd.ctx)),
           retired := x.retired.filter fun r => !(decide (r.1 = cmd.ctx) && decide (r.2.1 = cmd.ticket)) }

/-- LSPOST, elected. -/
def execLspost (o : Ops) (s : State) : Host.Outcome State Fault Refusal :=
  s.issueTx 62 o true fun c slot wp r p s =>
    let wop := 62 + o.x * 64
    let site := siteOf wp 62 o 0 3
    match p.vals with
    | [] => s.endMoves c slot site p [] false o.brk
    | x :: _ =>
      let g := s.groupOf c wp
      let sa : Int := (x.2.a : Int) + o.w2
      let bad := fun (code addr : Nat) => s.endMoves c slot site p [(x.1, .flt code 0 addr)] false o.brk
      match scratchCheck g.scratchCount 32 sa with
      | some (code, addr) => bad code addr
      | none =>
        let k := s.core c
        let at_ := 128 * g.scratchBase + sa.toNat
        let sc := k.scalar (o.t == 1)
        let own := s.imageWaits c slot wp (List.range 32) sa.toNat 32
        if !own.isEmpty then s.yieldBefore c slot (.ordered [] own []) wop
        else if k.scratchBad at_ 32 then bad fDataPoison sa.toNat
        else if sc.mailbox.length ≥ mailboxSize then s.yieldBefore c slot (.mailbox (o.t == 1)) wop
        else
          let cmd : LsCommand := ⟨k.scratch.read at_ 32, wp.ctx, wp.gslot, slot, sc.ticket, s.warpAccesses c slot wp.uid⟩
          let s := s.setCore c (k.setScalar (o.t == 1) (sc.post cmd))
          let s := s.modWarp c slot fun w => w.writeAll (Ops.dst o r) (p.parts.map fun t => (t, sc.ticket, (0 : XFlags)))
          s.endMoves c slot site p [] false o.brk

/-- The status of a ticket: 0x100 for one not among the context's last 64, none while its command has not retired. -/
def Scalar.statusOf (x : Scalar) (ctx ticket : Nat) : Option Nat :=
  if !x.posted.contains (ctx, ticket) then some 0x100
  else (x.retired.find? fun r => decide (r.1 = ctx) && decide (r.2.1 = ticket)).map (·.2.2)

/-- A warp that waits for a ticket of its context has its status. -/
def Warp.lsTold (w : Warp) (storer : Bool) (ctx ticket st : Nat) : Warp :=
  match w.wait with
  | .lswait b n none ws => if w.ctx = ctx && b = storer && n = ticket then { w with wait := .lswait b n (some st) ws } else w
  | _ => w

/-- The warps of a core that wait for a ticket of its scalar core have the status once the command retires, saved ones too,
whatever tickets are posted after (21:R332). -/
def State.tellTicket (s : State) (core : Nat) (storer : Bool) (ctx ticket st : Nat) : State :=
  { s with
    warps := s.warps.map fun (e : Nat × Warp) => if e.1 / 256 = core then (e.1, e.2.lsTold storer ctx ticket st) else e
    clusters := s.clusters.map fun (k : Nat × Cluster) => (k.1, { k.2 with saved := k.2.saved.map fun v =>
      { v with warps := v.warps.map fun w => if w.1 = core then (w.1, w.2.1, w.2.2.lsTold storer ctx ticket st) else w } }) }

/-- LSWAIT, elected. -/
def execLswait (o : Ops) (s : State) : Host.Outcome State Fault Refusal :=
  s.issue 62 o true fun c slot wp r p s =>
    let wop := 62 + o.x * 64
    let site := siteOf wp 62 o 0 3
    match p.vals with
    | [] => s.endMoves c slot site p [] false o.brk
    | x :: _ =>
      let ticket := bits x.2.b 0 16
      let dst := Ops.dst o r
      let s := match ((s.core c).scalar (o.t == 1)).statusOf wp.ctx ticket with
        | some st => s.electedResult c slot wp wop p dst st
        | none =>
          s.modWarp c slot fun w => { w with wait := .lswait (o.t == 1) ticket none (wp.waiters p.parts dst), waitOp := wop, back := p.exec, backLen := o.form.len }
      s.endMoves c slot site p [] false o.brk

end Sys2Proof.Machine
end

