-- ==== Sys2Proof/Machine/Slicek.lean ====
section
/-! DEFINITION. What the slice kernels do: admission of cards, launches and their completion, placement, castling
successors, tempos and the pre-emption of clusters, pages, and the slice-core control registers (01:R17, R18, R373;
05:R96; 09:R144, R145; 13:R201; 20:R296, R299 to R312; 21:R334, R335). -/

namespace Sys2Proof.Machine

/-! ### Cards: who is signalled, where errors are recorded (20:R301, R302; 23:R339) -/

/-- The function that owns the queues of a context: the VF bound to it or an ancestor, else the PF. -/
def State.ownerFn (s : State) (ctx : Nat) : HostFn :=
  match s.hdie.tdis.find? fun e => decide (e.2.bind_ ≠ 0) && s.descends e.2.bind_ ctx with
  | some e => .vf e.1
  | none => .pf

/-- A card whose IRQ bit is set signals its vector. -/
def State.signalCard (s : State) (ctx x : Nat) : State := if bit x 9 then s.signal (s.ownerFn ctx) (bits x 16 11) else s

/-- HEAD moves past `n` slots. -/
def State.consume (s : State) (q n : Nat) : State :=
  match s.queues.get? q with
  | none => s
  | some d =>
    let used := (List.range n).map fun i => (d.head + i) % d.size
    { s with queues := s.queues.set q { d with head := (d.head + n) % d.size, host := d.host.filter fun i => !used.contains i } }

/-- Write a record: at a card's own address where that is a translatable multiple of 32, else at ERRREC (20 Table 6). None
while a page is resolved, unless `hard`. The address used is given. -/
def State.recordAt (s : State) (q : Nat) (d : Queue) (own : Nat) (bs : List Byte) (hard : Bool) : Option (Nat × State) :=
  let viaErr := if d.errrec = 0 then some (0, s) else
    match s.devWrite none d.ctx d.errrec (sliceActor (q / 64)) bs with
    | .done s => some (d.errrec, s)
    | .bad => some (d.errrec, s)
    | .wait => if hard && s.unmapped d.ctx d.errrec then some (d.errrec, s) else none
  if own = 0 || own % 32 ≠ 0 then viaErr
  else
    match s.devWrite none d.ctx own (sliceActor (q / 64)) bs with
    | .done s => some (own, s)
    | .bad => viaErr
    | .wait => if hard && s.unmapped d.ctx own then viaErr else none

/-- Write an error record: at a LAUNCH's own CREC, or at ERRREC. -/
def State.errorRecord (s : State) (q : Nat) (d : Queue) (x : Option Nat) (slot status fcode : Nat) (hard : Bool) :
    Option (Nat × State) :=
  s.recordAt q d (match x with | some x => if bits x 0 8 = 1 then bits x 192 64 else 0 | none => 0)
    (launchRecord status fcode 0 s.time slot q) hard

/-- A rejected card: its record, then either its slots are consumed or the queue halts at it. -/
def State.rejectCard (s : State) (q : Nat) (d : Queue) (x : Option Nat) (slots status : Nat) (hard : Bool) : State :=
  match s.errorRecord q d x d.head status 0 hard with
  | none => s
  | some (addr, s) =>
    let s := match x with | some x => s.signalCard d.ctx x | none => s
    if d.hoe then ({ s with queues := s.queues.set q { d with halted := true, skip := slots } }).post 7 d.ctx addr none
    else s.consume q slots

/-! ### The card at HEAD (20:R300, R301) -/

/-- The card at HEAD, as slice core `i` reads it: none, not yet readable, unreadable, or its bits. -/
inductive HeadCard
  | none
  | wait
  | bad (slots : Nat) (x : Option Nat)
  | ok (x slots : Nat) (s : State)

def State.headCard (s : State) (i : Nat) (d : Queue) : HeadCard :=
  let at_ := fun (j : Nat) => d.base + 64 * ((d.head + j) % d.size)
  if !d.v || d.halted || d.used = 0 then .none
  else
    match s.homeRead i d.ctx (at_ 0) 64 with
    | .wait => .wait
    | .bad => .bad 1 Option.none
    | .ok bs s =>
      if !bit (ofBytes (bs.take 2)) 8 then .ok (ofBytes bs) 1 s
      else if d.used < 2 then .none
      else
        match s.homeRead i d.ctx (at_ 1) 64 with
        | .wait => .wait
        | .bad => .bad 2 (some (ofBytes bs))
        | .ok bs' s => .ok (ofBytes (bs ++ bs')) 2 s

/-- Is the opcode listed (20 Table 7)? -/
def cardListed (op : Nat) : Bool := decide (op ≤ 4) || (decide (0x10 ≤ op) && decide (op ≤ 0x18))

/-- Are EXT, the reserved bits and the counters of a listed card as its layout has them? `limit` bounds the counters. -/
def cardOk (x limit : Nat) : Bool :=
  let op := bits x 0 8
  let counters := (bits x 32 12 == 0 || decide (bits x 32 12 < limit)) && (bits x 44 12 == 0 || decide (bits x 44 12 < limit))
  let head := bits x 10 6 == 0 && bits x 27 5 == 0 && bits x 56 8 == 0 && counters && (bit x 8 == decide (0x10 ≤ op))
  let a := bits x 512 64
  let c := bits x 640 64
  let w2 := bits x 704 32
  head && (match op with
    | 0 => bits x 64 448 == 0
    | 1 => bits x 64 64 % 128 == 0 && bits x 192 64 % 32 == 0 && bits x 256 16 != 0 && bits x 274 2 == 0 && bits x 279 1 == 0 &&
        decide (bits x 288 9 ≤ 256) && bits x 297 215 == 0
    | 2 => bits x 64 64 == 0 && bits x 144 368 == 0
    | 3 => bits x 64 64 == 0 && bits x 256 256 == 0
    | 4 => bits x 64 64 == 0 && bits x 224 32 == 0 && bits x 261 251 == 0
    | _ =>
      let k := op - 0x10
      bits x 64 448 == 0 && bits x 736 288 == 0 &&
      (decide (w2 = 0) || (k == 7 && decide (w2 < 4)) || (k == 8 && decide (w2 ≤ 2))) &&
      (decide (c = 0) || k == 4 || k == 8) && (decide (a = 0) || !(k == 5 || k == 6)))

/-- What acting on a card gives: it stays at HEAD, it is rejected, it completes failed with a record, or it completes. -/
inductive CardAct
  | stay (s : State)
  | reject (status : Nat)
  | failed (s : State) (status fcode : Nat)
  | done (s : State)

/-- A card completes: its counter falls (but for SETC, whose counter is the one it sets), its vector is signalled. -/
def State.cardDone (s : State) (q : Nat) (d : Queue) (x slots : Nat) : State :=
  let s := if bits x 0 8 = 2 then s else s.decCounter d.ctx q (bits x 44 12)
  (s.consume q slots).signalCard d.ctx x

/-- An item of a queue has completed: the phases that count it hear of it (20:R306). -/
def State.queueArrive (s : State) (q : Nat) (fail : Bool) : State :=
  s.phaseArrive (fun _ _ => true) (fun w => destKind w == 3 && decide (destId w = q)) fail

/-- One admission step of queue `q` for a card of opcode `op` (20:R300, R301, R304). A LAUNCH that completes failed counts for
phases. `hard`: pages that are not present will not
be. -/
def State.cardStep (s : State) (q op : Nat) (hard : Bool) (act : State → Queue → Nat → CardAct) : State :=
  match s.queues.get? q with
  | none => s
  | some d =>
    match s.headCard (q / 64) d with
    | .none => s
    | .wait => s
    | .bad slots x => s.rejectCard q d x slots 2 hard
    | .ok x slots s =>
      let waitc := bits x 32 12
      let sigc := bits x 44 12
      let failed := fun (s : State) (status fcode : Nat) (note : Bool) =>
        match s.errorRecord q d (some x) d.head status fcode hard with
        | none => s
        | some (addr, s) =>
          let s := (if note then s.post 5 d.ctx addr none else s).cardDone q d x slots
          if op = 1 then s.queueArrive q true else s
      if !cardListed (bits x 0 8) then s.rejectCard q d (some x) slots 3 hard
      else if bits x 0 8 ≠ op then s
      else if !cardOk x (s.counterLimit d.ctx) then s.rejectCard q d (some x) slots 2 hard
      else if s.counterBad d.ctx q waitc then failed (s.poisonJob (q / 64) (s.counterOf d.ctx waitc)) 7 0 true
      else if op ≠ 2 && s.counterBad d.ctx q sigc then failed (s.poisonJob (q / 64) (s.counterOf d.ctx sigc)) 7 0 true
      else if waitc ≠ 0 && (s.slice (q / 64)).dc.getD (s.counterOf d.ctx waitc) 0 ≠ 0 then s
      else
        match act s d x with
        | .stay s => s
        | .reject status => s.rejectCard q d (some x) slots status hard
        | .failed s status fcode => failed s status fcode false
        | .done s => s.cardDone q d x slots

/-! ### NOP, SETC, WRITE, INTR -/

/-- NOP. -/
def actNop (s : State) (_d : Queue) (_x : Nat) : CardAct := .done s

def execCardNop (queue : Nat) (s : State) : Host.Outcome State Fault Refusal := .next (s.cardStep queue 0 false actNop)

/-- SETC sets its counter, which is poisoned no more. -/
def State.setCounter (s : State) (ctx queue k v : Nat) : State :=
  if k = 0 then s
  else
    let sl := s.slice (queue / 64)
    let n := s.counterOf ctx k
    s.setSlice (queue / 64) { sl with dc := sl.dc.set n v, dcPoison := sl.dcPoison.filter (· ≠ n) }

def actSetc (queue : Nat) (s : State) (d : Queue) (x : Nat) : CardAct :=
  .done (s.setCounter d.ctx queue (bits x 44 12) (bits x 128 16))

def execCardSetc (queue : Nat) (s : State) : Host.Outcome State Fault Refusal := .next (s.cardStep queue 2 false (actSetc queue))

/-- Write bytes that may cross into a second page: both pages are translated before either is written. -/
def State.devWriteOver (s : State) (ctx va actor : Nat) (bs : List Byte) : DevWrite :=
  let n := 4096 - va % 4096
  if bs.length ≤ n then s.devWrite none ctx va actor bs
  else
    match s.devWrite none ctx va actor (bs.take n) with
    | .done s => s.devWrite none ctx (va + n) actor (bs.drop n)
    | r => r

/-- WRITE: 8 bytes. -/
def actWrite (queue : Nat) (hard : Bool) (s : State) (d : Queue) (x : Nat) : CardAct :=
  let va := bits x 128 64
  if va ≥ 2 ^ 57 then .failed s 1 4
  else
    match s.devWriteOver d.ctx va (sliceActor (queue / 64)) (toBytes (bits x 192 64) 8) with
    | .wait => if hard && (s.unmapped d.ctx va || s.unmapped d.ctx (va + 7)) then .failed s 1 4 else .stay s
    | .bad => .failed s 1 4
    | .done s => .done s

def execCardWrite (queue : Nat) (s : State) : Host.Outcome State Fault Refusal :=
  .next (s.cardStep queue 3 false (actWrite queue false))

/-- INTR: a card that the host wrote raises as the host; another as the queue's context. -/
def actIntr (s : State) (d : Queue) (x : Nat) : CardAct :=
  let raiser := if d.host.contains d.head then 0xFFFF else d.ctx
  .done ((s.raiseVec d.ctx (bits x 128 64) (bits x 256 5) (bits x 192 32) raiser).getD s)

def execCardIntr (queue : Nat) (s : State) : Host.Outcome State Fault Refusal := .next (s.cardStep queue 4 false actIntr)

/-! ### LAUNCH (20:R301, R302, Table 8; 16:R250) -/

/-- Are the regions that a launch names LOCKED and its context's, on every die of the claim? -/
def State.regionsOk (s : State) (ctx lo cnt : Nat) : Bool :=
  match s.ctx? ctx with
  | none => false
  | some c => decide (lo + cnt ≤ 256) && c.claim.dies.all fun d => (rangeFrom lo cnt).all fun r =>
      let w := (s.die d).regions.getD r WsRegion.blank
      w.v && w.locked && decide (w.ctx = ctx)

/-- Change NAMED of the regions of a launch. -/
def State.nameRegions (s : State) (ctx lo cnt : Nat) (up : Bool) : State :=
  match s.ctx? ctx with
  | none => s
  | some c => c.claim.dies.foldl (fun s d =>
      let die := s.die d
      s.setDie d { die with regions := (rangeFrom lo cnt).foldl (fun (m : Map WsRegion) r =>
        let w := m.getD r WsRegion.blank
        m.set r { w with named := if up then w.named + 1 else w.named - 1 }) die.regions }) s

/-- What the checks of a LAUNCH give. -/
inductive LaunchCheck
  | wait
  | reject (status : Nat)
  | ok (h : KHdr) (s : State)

/-- The kernel header, the fit and the regions of a LAUNCH card that is well formed; slice core `i` reads. -/
def State.launchCheck (s : State) (i ctx x : Nat) : LaunchCheck :=
  match s.homeRead i ctx (bits x 64 64) 128 with
  | .wait => .wait
  | .bad => .reject 2
  | .ok bs s =>
    let h := KHdr.parse (ofBytes bs)
    if !h.ok (ofBytes bs) || h.task then .reject 2
    else if !s.fits ctx (bits x 272 2 + 1) h then .reject 4
    else if bits x 288 9 ≠ 0 && !s.regionsOk ctx (bits x 280 8) (bits x 288 9) then .reject 5
    else .ok h s

/-- The launch that a card describes. -/
def launchOf (ctx queue slot x : Nat) (h : KHdr) (now : DWord) : Launch :=
  { ctx := ctx, queue := queue, slot := slot, hdrVa := bits x 64 64, hdr := h, arg := BitVec.ofNat 64 (bits x 128 64),
    phx := bits x 256 16, grp := bits x 272 2 + 1, wrp := bits x 276 3 + 1, crec := bits x 192 64, irq := bit x 9,
    vec := bits x 16 11, waitc := bits x 32 12, sigc := bits x 44 12, wslo := bits x 280 8, wscnt := bits x 288 9,
    wave := [], placed := 0, done := 0, failed := [], fcode := 0, depPoison := false, admitted := now }

/-- A launch is admitted: its private areas are charged, its regions named, its context's constant-window lines leave
the caches (05:R95; 09:R154; 16:R250). -/
def State.launch (s : State) (l : Launch) : Nat × State :=
  let (id, s) := s.takeId
  let s := match s.ctx? l.ctx with
    | some c => s.setCtx l.ctx { c with memUsed := c.memUsed + l.phx * l.grp * l.wrp * warpArea }
    | none => s
  let s := s.nameRegions l.ctx l.wslo l.wscnt true
  (id, { s with launches := s.launches.set id l, cores := s.cores.map fun (e : Nat × Core) =>
    (e.1, { e.2 with ccache := e.2.ccache.filter fun y => decide (y.1 ≠ l.ctx) }) })

/-- LAUNCH: the card leaves its slot when the launch is admitted; its counter and vector wait for its completion. -/
def actLaunch (queue : Nat) (hard : Bool) (s : State) (d : Queue) (x : Nat) : CardAct :=
  match s.launchCheck (queue / 64) d.ctx x with
  | .wait => if hard && s.unmapped d.ctx (bits x 64 64) then .reject 2 else .stay s
  | .reject st => .reject st
  | .ok h s =>
    let l := launchOf d.ctx queue d.head x h s.time
    if !s.areaFits d.ctx (l.phx * l.grp * l.wrp) then .stay s else .stay ((s.launch l).2.consume queue 1)

def execCardLaunch (queue : Nat) (s : State) : Host.Outcome State Fault Refusal :=
  .next (s.cardStep queue 1 false (actLaunch queue false))

/-! ### Admin cards (20:R301; 21:R327) -/

/-- An admin card acts as its CTX instruction, executed by the queue's context; a status other than DONE stands in FCODE
of a record at ERRREC. It stays at HEAD until its invalidation or its saves have ended. -/
def actAdmin (queue op : Nat) (hard : Bool) (s : State) (d : Queue) (x : Nat) : CardAct :=
    match s.shootdowns.find? fun e => decide (e.2.queue = some queue) with
    | some (id, e) => if e.ranges.isEmpty then .done { s with shootdowns := s.shootdowns.del id } else .stay s
    | none =>
      let a := bits x 512 64
      let w2 := bits x 704 32
      let n := ctxBlock (op - 0x10) a w2
      let go := fun (s : State) (block : Nat) =>
        let out := s.ctxDo (op - 0x10) d.ctx a (bits x 576 64) (bits x 640 64) w2 block
        if out.wait then CardAct.stay s
        else if out.status ≠ 0 then CardAct.failed out.s 1 out.status
        else
          let fin := fun (s : State) =>
            match out.stop, out.ranges with
            | some child, _ => if s.allSaved child then CardAct.done s else .stay s
            | none, some rs => .stay (s.startShootdown ⟨rs, [], 0, some queue, none⟩)
            | none, none => .done s
          match out.wr with
          | none => fin out.s
          | some (va, bs) =>
            match out.s.devWrite none d.ctx va (sliceActor (queue / 64)) bs with
            | .done s => fin s
            | .wait => if hard && s.unmapped d.ctx va then .failed s 1 9 else .stay s
            | .bad => .failed s 1 9
      if a % ctxAlign (op - 0x10) a w2 ≠ 0 then .failed s 1 9
      else if n = 0 then go s 0
      else
        match s.homeRead (queue / 64) d.ctx a n with
        | .wait => if hard && s.unmapped d.ctx a then .failed s 1 9 else .stay s
        | .bad => .failed s 1 9
        | .ok bs s => go s (ofBytes bs)

def State.adminCard (s : State) (queue op : Nat) : State := s.cardStep queue op false (actAdmin queue op false)

def execCardCtxnew (queue : Nat) (s : State) : Host.Outcome State Fault Refusal := .next (s.adminCard queue 0x10)
def execCardCtxgrant (queue : Nat) (s : State) : Host.Outcome State Fault Refusal := .next (s.adminCard queue 0x11)
def execCardCtxrevoke (queue : Nat) (s : State) : Host.Outcome State Fault Refusal := .next (s.adminCard queue 0x12)
def execCardCtxmap (queue : Nat) (s : State) : Host.Outcome State Fault Refusal := .next (s.adminCard queue 0x13)
def execCardCtxunmap (queue : Nat) (s : State) : Host.Outcome State Fault Refusal := .next (s.adminCard queue 0x14)
def execCardCtxrun (queue : Nat) (s : State) : Host.Outcome State Fault Refusal := .next (s.adminCard queue 0x15)
def execCardCtxstop (queue : Nat) (s : State) : Host.Outcome State Fault Refusal := .next (s.adminCard queue 0x16)
def execCardCtxq (queue : Nat) (s : State) : Host.Outcome State Fault Refusal := .next (s.adminCard queue 0x17)
def execCardCtxqattach (queue : Nat) (s : State) : Host.Outcome State Fault Refusal := .next (s.adminCard queue 0x18)

/-! ### A page that a card needs cannot be resolved (20:R301) -/

/-- What acting on a card of an opcode gives when its pages will not be present. -/
def actHard (queue op : Nat) : State → Queue → Nat → CardAct :=
  match op with
  | 0 => actNop
  | 1 => actLaunch queue true
  | 2 => actSetc queue
  | 3 => actWrite queue true
  | 4 => actIntr
  | op => actAdmin queue op true

/-- The card at HEAD: the slots it would have, and its bits where its first slot can be read. -/
def State.headBits (s : State) (i : Nat) (d : Queue) : Option Nat :=
  match s.homeRead i d.ctx (d.base + 64 * (d.head % d.size)) 64 with
  | .ok bs _ => some (ofBytes bs)
  | .wait => none
  | .bad => none

/-- Does the card at HEAD wait for a page: of its slots, its header or block, the place it writes, or its error record? -/
def State.cardWaits (s : State) (j : Nat) (d : Queue) : Bool :=
  let gone := fun va => s.unmapped d.ctx va
  let slot := fun (i : Nat) => d.base + 64 * ((d.head + i) % d.size)
  d.v && !d.halted && decide (d.used ≠ 0) &&
  (gone (slot 0) ||
   (match s.headBits j d with
    | none => false
    | some x =>
      let op := bits x 0 8
      (bit x 8 && decide (2 ≤ d.used) && gone (slot 1)) ||
      (decide (op = 1) && (gone (bits x 64 64) || (decide (bits x 192 64 ≠ 0) && gone (bits x 192 64)))) ||
      (decide (op = 3) && (gone (bits x 128 64) || gone (bits x 128 64 + 7))) ||
      (decide (0x10 ≤ op) && (match s.headCard j d with | .ok y _ _ => gone (bits y 512 64) | _ => false)) ||
      (decide (d.errrec ≠ 0) && gone d.errrec)))

/-- Does admission of a queue wait for a page, for a wave that is due or for its card? -/
def State.queueWaits (s : State) (q : Nat) (d : Queue) : Bool := s.waveWaits q || s.cardWaits (q / 64) d

/-- The verdict reaches the queue: a wave whose header cannot be read is not placed, an unreadable card is rejected, another
takes its step without the page. -/
def State.cardLate (s : State) (q : Nat) : State :=
  match s.queues.get? q, s.waveWaits q with
  | none, _ => s
  | some _, true => (s.admitHead q true).getD s
  | some d, false =>
    let slot := fun (i : Nat) => d.base + 64 * ((d.head + i) % d.size)
    if s.unmapped d.ctx (slot 0) then s.rejectCard q d none 1 2 true
    else
      match s.headBits (q / 64) d with
      | none => s
      | some x =>
        if bit x 8 && decide (2 ≤ d.used) && s.unmapped d.ctx (slot 1) then s.rejectCard q d (some x) 2 2 true
        else s.cardStep q (bits x 0 8) true (actHard q (bits x 0 8))

/-! ### Completion (20:R302, Table 10) -/

/-- Is everything that the threads of a launch began done: stores, engine operations, copies and collectives, also where it is
saved? -/
def State.launchDone (s : State) (id : Nat) (l : Launch) : Bool :=
  decide (l.done = l.phx) && s.acc.all (fun a => decide (a.2.launch ≠ id)) &&
  s.clusters.all (fun k => k.2.ops.all (fun o => decide (o.2.launch ≠ id)) &&
    (k.2.saved.all fun v => v.ops.all (fun o => decide (o.2.launch ≠ id)) && v.replays.all fun a => decide (a.2.launch ≠ id)) &&
    k.2.rest.all fun v => v.ops.all (fun o => decide (o.2.launch ≠ id)) && v.replays.all fun a => decide (a.2.launch ≠ id)) &&
  s.dies.all (fun d => d.2.engines.all fun e => (e.2.queue ++ e.2.replay).all fun c => decide (c.launch ≠ id)) &&
  s.colls.all fun c => decide (c.2.launch ≠ id)

/-- A launch or wave completes: record, at CREC or where that cannot be written at ERRREC; counter, vector; phases that name
its queue hear of it (20:R302, R306). `hard`: a page that is not present will not be. -/
def State.completeLaunch (s : State) (id : Nat) (l : Launch) (hard : Bool) : State :=
  if !s.launchDone id l then s
  else
    let status := if l.depPoison then 7 else if l.failed.isEmpty then 0 else 1
    let bs := launchRecord status l.fcode l.failed.length s.time l.slot l.queue
    let d := { s.queues.getD l.queue Queue.blank with ctx := l.ctx }
    match if l.crec = 0 then some s else (s.recordAt l.queue d l.crec bs hard).map (·.2) with
    | none => s
    | some s =>
      let s := (s.nameRegions l.ctx l.wslo l.wscnt false).decCounter l.ctx l.queue l.sigc
      let s := if l.irq then s.signal (s.ownerFn l.ctx) l.vec else s
      { (s.queueArrive l.queue (status ≠ 0)) with launches := s.launches.del id }

/-- Does the completion of a launch wait for the page of its record? -/
def State.launchWaits (s : State) (id : Nat) (l : Launch) : Bool :=
  let d := s.queues.getD l.queue Queue.blank
  s.launchDone id l && decide (l.crec ≠ 0) &&
    (s.unmapped l.ctx l.crec || (decide (d.errrec ≠ 0) && s.unmapped l.ctx d.errrec))

def execLaunchCompletion (id : Nat) (s : State) : Host.Outcome State Fault Refusal :=
  .next <|
    match s.launches.get? id with
    | none => s
    | some l => s.completeLaunch id l false

/-! ### Placement (09:R144, R145; 13:R201; 05:R96; 07:R129) -/

/-- The lowest start of `n` units free within [lo, lo + cnt), where `used` are taken. -/
def lowestRun (lo cnt n : Nat) (used : List (Nat × Nat)) : Option Nat :=
  if n = 0 then some lo
  else if cnt < n then none
  else
    let starts := (lo :: used.map fun u => u.1 + u.2).filter fun b => decide (lo ≤ b) && decide (b + n ≤ lo + cnt) &&
      !used.any fun u => overlap b n u.1 u.2
    minOf starts

/-- The windows of a lane of a core. -/
def State.laneRows (s : State) (c lane : Nat) : List (Nat × Nat) :=
  (List.range 8).filterMap fun i => (s.warp? c (lane + 32 * i)).map fun w => (w.winBase, w.win)

/-- PBASE of a warp slot: the segments of a context's slots are apart (05:R94; log entry 71). -/
def slotPbase (ctx c slot : Nat) : DWord := BitVec.ofNat 64 ((Config.pbase ctx).toNat % 2 ^ 49 * 2 ^ 7 + (256 * c + slot) * 2 ^ 31)

/-- WPRIV of a warp slot: its part of the slice kernels' memory, which no program reaches (05:R95; log entry 10). -/
def State.slotWpriv (s : State) (c slot : Nat) : DWord := BitVec.ofNat 64 (s.kern + (256 * c + slot) * 0x24000)

/-- Is an access to the private segment of a slot still to be performed, by a warp that has left it? -/
def State.segmentBusy (s : State) (ctx c slot : Nat) : Bool :=
  let lo := (slotPbase ctx c slot).toNat
  s.acc.any fun e => decide (e.2.ctx = ctx) && e.2.vas.any fun va => decide (lo ≤ va) && decide (va < lo + 2 ^ 31)

/-- The warp slots and window bases of a group in group slot `g`, at the lowest offset that fits. -/
def State.fitWarps (s : State) (c ctx : Nat) (q : Quota) (g nw win : Nat) : Option (Nat × List (Nat × Nat)) :=
  let at_ := fun (o : Nat) =>
    let xs := (List.range nw).map fun j =>
      let slot := 8 * g + (o + j) % 8
      if s.segmentBusy ctx c slot then none
      else (lowestRun q.rlo q.rcnt win (s.laneRows c (slot % 32))).map fun b => (slot, b)
    if xs.all (·.isSome) then some (o, xs.filterMap id) else none
  (List.range 8).findSome? at_

/-- The scratchpad rows taken in a core: those of each phalanx of its cluster until it ends, for its last exit may keep them
(07:R134), and those that an access of a warp that has ended still reaches. -/
def State.scratchRows (s : State) (c : Nat) : List (Nat × Nat) :=
  ((s.cluster (clusterOf c)).phxs.flatMap fun p => ((p.2.places.zip p.2.rows).filter fun x => decide (x.1.1 = c)).map (·.2)) ++
  (s.acc.filter fun e => e.2.kind.inScratch && decide (e.2.core = c)).map fun e => ((e.2.pas.headD 0 - scratchPa c 0) / 128, 1)

/-- A group's place: core, group slot, offset, warp slots with window bases, scratchpad base. -/
structure Place where
  core : Nat
  gslot : Nat
  offset : Nat
  warps : List (Nat × Nat)
  scratch : Nat
deriving DecidableEq, Repr

/-- Place a group in a core by its quota register. -/
def State.fitGroup (s : State) (c : Nat) (q : Quota) (nw : Nat) (h : KHdr) : Option Place :=
  match lowestRun q.slo q.scnt h.scr (s.scratchRows c) with
  | none => none
  | some b => (rangeFrom q.glo q.gcnt).findSome? fun g =>
      if (s.group? c g).isSome then none
      else (s.fitWarps c q.ctx q g nw h.w).map fun x => ⟨c, g, x.1, x.2, b⟩

/-- The quota register of a context in a core. -/
def Core.quota? (k : Core) (x : Nat) : Option (Nat × Quota) := k.quotas.find? fun e => e.2.v && decide (e.2.ctx = x)

/-- A frame register of a thread at entry (05 Table 7). -/
def entryWord (v0 v1 v2 v3 : Nat) (arg : DWord) (i : Nat) : Nat :=
  match i with
  | 0 => v0
  | 1 => v1
  | 2 => v2
  | 3 => v3
  | 4 => arg.toNat % 2 ^ 32
  | 5 => arg.toNat / 2 ^ 32
  | _ => 0

/-- A thread at entry; the whole window is zero and full but for v0 to v5. -/
def entryThread (pc : DWord) (win v0 v1 v2 v3 : Nat) (arg : DWord) (alive : Bool) : Thread :=
  { pc := pc, fp := 0, s := 16, depth := 0, meetA := 0, meetD := 0, link := [], linkRes := 0,
    cells := (List.range win).map fun i => Cell.of (entryWord v0 v1 v2 v3 arg i), lo := 0, refill := [], twait := .none,
    preds := 0, alive := alive, held := false, copy := 0, trap := none, gambit := Gambit.none }

/-- The uniform file at entry: g0:g1 the argument base, g2 to g4 group count, warps per group, phalanx size. -/
def entryUniform (arg : DWord) (groups warps phx : Nat) : UCopy :=
  { vals := (toWords arg.toNat 2 ++ [BitVec.ofNat 32 groups, BitVec.ofNat 32 warps, BitVec.ofNat 32 phx] ++ List.replicate 59 0),
    conflict := 0, resident := true }

/-- The loop-nest unit, closed. -/
def LoopNest.closed : LoopNest := ⟨List.replicate 4 0, List.replicate 4 0, 4, List.replicate 16 ⟨0, List.replicate 4 0⟩⟩

/-- Does the part of a leaf on this device hold the physical address? -/
def State.leafHolds (s : State) (f : Leaf) (a : Nat) : Bool :=
  if f.stripe = 0 then decide (f.pa ≤ a) && decide (a < f.pa + f.size)
  else
    let set_ := s.hdie.stripes.getD f.stripe []
    let h := (set_.getD 0 0).toNat
    let glog := bits h 24 5
    let self := bits h 16 4
    let mbase := bits (set_.getD (1 + self) 0).toNat 12 40 * 4096
    let d := a - mbase
    let o := (((d >>> glog) * bits h 8 5 + self) <<< glog) + d % 2 ^ glog
    bit h 0 && decide (mbase ≤ a) && decide (f.pa ≤ o) && decide (o < f.pa + f.size)

/-- A warp's private segment holds nothing of the warp that was in its slot before: it is zero (05:R94; log entry 71). -/
def State.clearPrivate (s : State) (ctx va n : Nat) : State :=
  match s.ctx? ctx with
  | none => s
  | some c =>
    let fs := (c.leaves.filter fun f => f.v && overlap f.va f.size va n).map fun f =>
      f.piece (max f.va va) (min (f.va + f.size) (va + n) - max f.va va)
    { s with mem := s.mem.filter fun x => !fs.any fun f => s.leafHolds f x.1 }

/-- Warp `j` of group `gi` of a launch, in its slot. A wave gives each thread its task's argument pointer. -/
def State.entryWarp (s : State) (l : Launch) (id uid gi j gslot base : Nat) (c slot : Nat) : Warp :=
  let wave := !l.wave.isEmpty
  let thread := fun (t : Nat) =>
    if wave then entryThread l.hdr.entry l.hdr.w t t 0 0 (match l.wave[t]? with | some k => k.arg | none => 0) (decide (t < l.wave.length))
    else entryThread l.hdr.entry l.hdr.w ((gi * l.wrp + j) * 32 + t) (32 * j + t) gi j l.arg true
  { uid := uid, ctx := l.ctx, gslot := gslot, widx := j, winBase := base, win := l.hdr.w, pbase := slotPbase l.ctx c slot, p := l.hdr.p,
    plim := l.hdr.plim, wpriv := s.slotWpriv c slot, xf := 0, threads := (List.range 32).map thread,
    copies := [(0, if wave then entryUniform 0 1 1 1 else entryUniform l.arg (l.phx * l.grp) l.wrp l.grp)], meets := [],
    ln := LoopNest.closed, kb := l.hdr.kb, ks := l.hdr.ks, stamp := s.laneNow c slot, wait := .none, waitOp := 0, back := [],
    backLen := 0, run := 0, irq := none, fences := [], launch := id, refused := [] }

/-- A core whose scratchpad rows are zero, empty and clean. -/
def Core.clearRows (k : Core) (lo n : Nat) : Core :=
  let out := fun (r : Nat) => decide (r < lo) || decide (lo + n ≤ r)
  { k with scratch := k.scratch.filter (fun c => out (c.1 / 128)), flags := k.flags.filter out,
           scratchPoison := k.scratchPoison.filter fun r => out (r / 16) }

/-- A group takes its place: its rows are cleared unless a castling exit kept them, the core forgets the instruction
lines of its context (03:R53), its warps stand at their entry, their private segments empty. -/
def State.putGroup (s : State) (l : Launch) (id gi part phx : Nat) (pl : Place) (kept : Bool) : State :=
  let (guid, s) := s.takeId
  let k := s.core pl.core
  let k := if kept then k else k.clearRows pl.scratch l.hdr.scr
  let s := s.setCore pl.core { k with icache := k.icache.filter fun y => decide (y.1 ≠ l.ctx) }
  let g : Group :=
    { uid := guid, part := part, warps := l.wrp, offset := pl.offset, scratchBase := pl.scratch, scratchCount := l.hdr.scr,
      bars := List.replicate 16 ⟨0, 0⟩, imask := 0, uipend := 0, uicode := [], deps := List.replicate 8 DepSlot.zero,
      gidx := gi, ctx := l.ctx, phx := phx, launch := id }
  let s := s.setGroup pl.core pl.gslot g
  ((List.range pl.warps.length).zip pl.warps).foldl (fun (s : State) x =>
    let (uid, s) := s.takeId
    let w := s.entryWarp l id uid gi x.1 pl.gslot x.2.2 pl.core x.2.1
    (s.clearPrivate l.ctx w.pbase.toNat (128 * w.p)).setWarp pl.core x.2.1 w) s

/-- Put several groups, from group index `gi` on. -/
def State.putGroups (s : State) (l : Launch) (id gi part phx : Nat) (kept : Bool) : List Place → State
  | [] => s
  | p :: ps => State.putGroups (s.putGroup l id gi part phx p kept) l id (gi + 1) part phx kept ps

/-- The places of `n` groups on distinct cores of cluster `k`, in ascending core number. -/
def State.fitGroups (s : State) (ctx nw : Nat) (h : KHdr) : Nat → List Nat → List Place
  | 0, _ => []
  | _, [] => []
  | n + 1, c :: cs =>
    match ((s.core c).quota? ctx).bind fun q => s.fitGroup c q.2 nw h with
    | some p => p :: State.fitGroups s ctx nw h n cs
    | none => State.fitGroups s ctx nw h (n + 1) cs

/-- Tile memory without the registers [lo, lo + n). -/
def Cluster.clearTiles (c : Cluster) (lo n : Nat) : Cluster :=
  let out := fun (r : Nat) => decide (r < lo) || decide (lo + n ≤ r)
  { c with tiles := c.tiles.filter (fun x => out (x.1 / 16384)), tilePoison := c.tilePoison.filter fun x => out (128 * x / 16384) }

/-- Place the next phalanx of a launch on cluster `k`, or not at all. The tile registers of a phalanx that has ended are free,
also while its engine operations still run (log entry 63). -/
def State.placePhalanx (s : State) (k id : Nat) (l : Launch) : Option State :=
  let cl := s.cluster k
  match (s.core (4 * k)).quota? l.ctx, cl.phxs.free 0 128 with
  | some (part, q), some e =>
    let ps := s.fitGroups l.ctx l.wrp l.hdr l.grp (rangeFrom (4 * k) 4)
    (match lowestRun q.tlo q.tcnt l.hdr.til (cl.phxs.map fun p => (p.2.tbase, p.2.tcount)) with
     | none => none
     | some tb =>
       if ps.length < l.grp then none
       else
         let ph : Phalanx :=
           { ctx := l.ctx, part := part, groups := l.grp, places := ps.map fun p => (p.core, p.gslot),
             rows := ps.map fun p => (p.scratch, l.hdr.scr), tbase := tb, tcount := l.hdr.til, live := l.grp * l.wrp, arr := 0,
             gen := false, castle := 0, launch := id, kept := false }
         let cl := cl.clearTiles tb l.hdr.til
         let s := s.setCluster k { cl with phxs := cl.phxs.set e ph }
         let s := { s with launches := s.launches.set id { l with placed := l.placed + 1 } }
         some (s.putGroups l id (l.placed * l.grp) part e false ps))
  | _, _ => none

/-! ### Dispatch (01:R373; 20:R307, R308) -/

/-- The stride of a participant's effective tickets. -/
def strideOf (eff : Nat) : Nat := 2 ^ 20 / max 1 eff

/-- The tickets of a participant on a cluster. -/
def State.ticketsOf (s : State) (k x : Nat) : Nat := ((s.sharers k).find? fun e => decide (e.1 = x)).map (·.2) |>.getD 1

/-- Is something of the context saved from the cluster: a phalanx, what a phalanx left, a copy or a collective? -/
def State.savedIn (s : State) (k x : Nat) : Bool :=
  ((s.cluster k).saved.any fun v => decide (v.phx.ctx = x)) || ((s.cluster k).rest.any fun v => decide (v.ctx = x)) ||
  (s.dies.any fun d => d.2.engines.any fun e => e.2.replay.any fun c => decide (c.ctx = x) && decide (c.cluster = k)) ||
  s.colls.any fun c => c.2.saved && decide (c.2.ctx = x) && decide (c.2.cluster = k)

/-- May the context place work on the cluster: it takes part there, holds it or finds it empty, nothing of it waits to be
restored first, and no clock plan is being applied (24:R364)? -/
def State.mayPlace (s : State) (k x : Nat) : Bool :=
  let cl := s.cluster k
  cl.stop.isNone && cl.gangWait.isNone && decide (s.hdie.planst ≠ 3) && (cl.holds.isNone || decide (cl.holds = some x)) &&
  ((s.sharers k).any fun e => decide (e.1 = x)) && !s.savedIn k x

/-- The pass at which a participant enters or returns (20:R308). -/
def Cluster.enterPass (c : Cluster) (x : Nat) (going : List Nat) : Nat :=
  match minOf (going.map fun y => c.passes.getD y 0), c.passes.get? x with
  | some m, some p => max m p
  | some m, none => m
  | none, some p => p
  | none, none => 0

/-- The first participant whose work reaches an empty cluster takes it at once. -/
def State.takeCluster (s : State) (k x : Nat) : State :=
  let cl := s.cluster k
  match cl.holds with
  | some _ => s
  | none =>
    let p := if cl.present.contains x then cl.passes.getD x 0 else cl.enterPass x cl.present
    s.setCluster k { cl with holds := some x, passes := cl.passes.set x (p + strideOf (s.ticketsOf k x)),
                             present := if cl.present.contains x then cl.present else x :: cl.present }

/-- Is a launch older than another by admission, ties going to the lower queue (01:R373)? -/
def olderLaunch (a b : Nat × Launch) : Bool :=
  decide (a.2.admitted < b.2.admitted) ||
  (decide (a.2.admitted = b.2.admitted) &&
    (decide (a.2.queue < b.2.queue) || (decide (a.2.queue = b.2.queue) && decide (a.1 < b.1))))

/-- Insert by age. -/
def insertLaunch (x : Nat × Launch) : List (Nat × Launch) → List (Nat × Launch)
  | [] => [x]
  | y :: ys => if olderLaunch x y then x :: y :: ys else y :: insertLaunch x ys

/-- Launches with a phalanx to place, the oldest first; no launch of a queue passes an older one. -/
def State.waitingLaunches (s : State) : List (Nat × Launch) :=
  (s.launches.filter fun e => decide (e.2.placed < e.2.phx) && s.runnable e.2.ctx &&
    !s.launches.any fun o => decide (o.1 < e.1) && decide (o.2.queue = e.2.queue) && decide (o.2.placed < o.2.phx)).foldr insertLaunch []

/-- Place a phalanx of a launch on the lowest-numbered cluster that can hold it, within the context's claim as it now is
(20:R291). -/
def State.dispatchOn (s : State) (e : Nat × Launch) : Option State :=
  match s.ctx? e.2.ctx with
  | none => none
  | some c => c.claim.clusters.findSome? fun k =>
      if s.mayPlace k e.2.ctx then ((s.programQuota e.2.ctx k).placePhalanx k e.1 e.2).map fun s => s.takeCluster k e.2.ctx else none

def execPhalanxDispatch (s : State) : Host.Outcome State Fault Refusal :=
  .next ((s.waitingLaunches.findSome? s.dispatchOn).getD s)

/-! ### Castling successors (07:R134, 20:R303) -/

/-- What a castling phalanx's card gives. -/
inductive Castle
  | wait
  | reject (status : Nat) (x : Option Nat)
  | go (s : State) (l : Launch) (ps : List Place)

/-- The groups of a successor in the cores, group slots and rows that its predecessor held. -/
def State.fitSuccessor (s : State) (ph : Phalanx) (nw : Nat) (h : KHdr) : List ((Nat × Nat) × (Nat × Nat)) → Option (List Place)
  | [] => some []
  | ((c, g), (b, _)) :: rest =>
    match (s.core c).quota? ph.ctx with
    | none => none
    | some q =>
      if (s.group? c g).isSome then none
      else
        match s.fitWarps c ph.ctx q.2 g nw h.w with
        | none => none
        | some x => (State.fitSuccessor s ph nw h rest).map fun ps => ⟨c, g, x.1, x.2, b⟩ :: ps

/-- The card of a castling phalanx: as it was read when the last thread exited, else as it is read now. -/
def State.readCard? (s : State) (ph : Phalanx) (old : Launch) : HomeRead :=
  match ph.card with
  | some bs => .ok bs s
  | none => s.homeRead (old.queue / 64) ph.ctx ph.castle.toNat 64

/-- Judge the card of a castling phalanx; `old` is its predecessor's launch. -/
def State.castle (s : State) (ph : Phalanx) (old : Launch) : Castle :=
  if ph.castle.toNat % 64 ≠ 0 then .reject 2 none
  else
    match s.readCard? ph old with
    | .wait => .wait
    | .bad => .reject 2 none
    | .ok bs s =>
      let x := ofBytes bs
      if !cardListed (bits x 0 8) then .reject 3 (some x)
      else if bits x 0 8 ≠ 1 then (if bit x 8 == decide (0x10 ≤ bits x 0 8) then .reject 10 (some x) else .reject 2 (some x))
      else if !cardOk x (s.counterLimit ph.ctx) then .reject 2 (some x)
      else if s.counterBad ph.ctx old.queue (bits x 44 12) then .reject 7 (some x)
      else
        match s.launchCheck (old.queue / 64) ph.ctx x with
        | .wait => .wait
        | .reject st => .reject st (some x)
        | .ok h s =>
          let l := launchOf ph.ctx old.queue 0 x h s.time
          if l.phx ≠ 1 || l.waitc ≠ 0 || l.grp ≠ ph.groups || h.scr ≠ old.hdr.scr || h.til ≠ ph.tcount then .reject 10 (some x)
          else
            match s.fitSuccessor ph l.wrp h (ph.places.zip ph.rows) with
            | none => .reject 10 (some x)
            | some ps => if s.areaFits ph.ctx (l.grp * l.wrp) then .go s l ps else .wait

/-- Does an operation that the phalanx issued still run? Every engine operation touches a register that is kept; a copy or
collective touches no kept row or register after its issue (07:R134). -/
def State.keptBusy (s : State) (k : Nat) (ph : Phalanx) : Bool :=
  (s.cluster k).ops.any fun o => decide (o.2.launch = ph.launch) && ph.places.any fun q => decide (q = (o.2.core, o.2.gslot))

/-- Does the start of a successor wait for the page of its card or of its kernel header? -/
def State.castleWaits (s : State) (k : Nat) (ph : Phalanx) : Bool :=
  ph.kept && ph.castle.toNat % 64 == 0 &&
  (match s.launches.get? ph.launch with
   | none => false
   | some old =>
     (ph.card.isNone && s.unmapped ph.ctx ph.castle.toNat) ||
     (!s.keptBusy k ph && match s.readCard? ph old with
       | .ok bs _ => decide (bits (ofBytes bs) 0 8 = 1) && s.unmapped ph.ctx (bits (ofBytes bs) 64 64)
       | .wait => false
       | .bad => false))

/-- The successor is rejected: a record, and what was kept is freed. -/
def State.castleRejected (s : State) (k e : Nat) (ph : Phalanx) (old : Launch) (status : Nat) (x : Option Nat) (hard : Bool) : State :=
  match s.errorRecord old.queue (s.queues.getD old.queue Queue.blank) x 0 status 0 hard with
  | none => s
  | some (_, s) =>
    let s := match x with | some x => s.signalCard ph.ctx x | none => s
    let cl := s.cluster k
    (s.setCluster k { cl with phxs := cl.phxs.del e }).phalanxDone ph.launch

/-- A castling phalanx has ended: its card is read, if the last exit could not read it, and its successor starts in its place
or is rejected, once its operations have completed. While its context is being pre-empted it is saved instead. -/
def execSuccessorStart (cluster entry : Nat) (s : State) : Host.Outcome State Fault Refusal :=
  .next <|
    match (s.cluster cluster).phxs.get? entry with
    | none => s
    | some ph =>
      match s.launches.get? ph.launch with
      | none => s
      | some old =>
        if !ph.kept || (s.cluster cluster).stopping ph.ctx then s
        else if s.keptBusy cluster ph then
          (match ph.card, s.readCard? ph old with
           | none, .ok bs s =>
             let cl := s.cluster cluster
             s.setCluster cluster { cl with phxs := cl.phxs.set entry { ph with card := some bs } }
           | _, _ => s)
        else
          match s.castle ph old with
          | .wait => s
          | .reject st x => s.castleRejected cluster entry ph old st x false
          | .go s l ps =>
            let (id, s) := s.launch { l with placed := 1 }
            let s := s.phalanxDone ph.launch
            let cl := s.cluster cluster
            let ph := { ph with live := l.grp * l.wrp, arr := 0, gen := false, castle := 0, launch := id, kept := false, card := none }
            let s := s.setCluster cluster { cl with phxs := cl.phxs.set entry ph }
            s.putGroups l id 0 ph.part entry true ps

/-! ### Tempos (20:R307, R308, R311, R312) -/

/-- Has the context work on the cluster: a phalanx that waits at dispatch, or one, or what one left, that awaits restore
(20:R307; log entry 45)? -/
def State.hasWork (s : State) (k x : Nat) : Bool :=
  (s.launches.any fun l => decide (l.2.ctx = x) && decide (l.2.placed < l.2.phx)) || s.savedIn k x

/-- The participants of a boundary, with their effective tickets. -/
def State.participants (s : State) (k : Nat) : List (Nat × Nat) := (s.sharers k).filter fun e => s.hasWork k e.1

/-- The participant with the smallest pass, ties to the lowest id. -/
def winnerOf (passes : Map Nat) (ps : List Nat) : Option Nat :=
  ps.foldl (fun w x => match w with
    | none => some x
    | some y =>
      let a := passes.getD x 0
      let b := passes.getD y 0
      if a < b || (decide (a = b) && decide (x < y)) then some x else some y) none

/-- Is the context gang-scheduled? -/
def State.isGang (s : State) (x : Nat) : Bool := match s.ctx? x with | some c => c.claim.gang | none => false

/-- The clusters of a context's claim. -/
def State.clustersOf (s : State) (x : Nat) : List Nat := match s.ctx? x with | some c => c.claim.clusters | none => []

/-- Does every cluster of a gang's claim hold it, restored? -/
def State.gangReady (s : State) (x : Nat) : Bool :=
  (s.clustersOf x).all fun k =>
    let cl := s.cluster k
    decide (cl.holds = some x) && cl.stop.isNone && !s.savedIn k x

/-- The latest release time set for a gang, or the boundary it won. -/
def State.gangTime (s : State) (x k : Nat) : DWord :=
  (s.clustersOf x).foldl (fun (m : DWord) j => match (s.cluster j).gangWait with
    | some r => if m < r then r else m
    | none => m) (s.cluster k).boundary

/-- The boundary at or before now. -/
def State.boundaryOf (s : State) (k : Nat) : DWord := BitVec.ofNat 64 (alignDown s.time.toNat (s.tempoOn k))

/-- The boundary after now. -/
def State.nextBoundary (s : State) (k : Nat) : DWord := s.boundaryOf k + BitVec.ofNat 64 (s.tempoOn k)

/-- A context enters a cluster as its winner; a gang waits there for its start barrier, one of a late die until its next
boundary (20:R312). -/
def State.enterCluster (s : State) (k : Nat) (next : Option Nat) : State :=
  let cl := s.cluster k
  let wait := match next with
    | some x =>
      if s.isGang x then
        let r := s.gangTime x k
        let b := s.nextBoundary k
        some (if cl.gangWait.isSome && r < s.time then b else r)
      else none
    | none => none
  s.setCluster k { cl with holds := next, stop := none, gangWait := wait }

/-- The start barrier of a gang releases on every cluster; with `late` the boundary counts as decided there. -/
def State.gangStart (s : State) (x : Nat) (late : Option DWord) : State :=
  (s.clustersOf x).foldl (fun s k =>
    let cl := s.cluster k
    s.setCluster k { cl with gangWait := none, boundary := late.getD cl.boundary }) s

/-- The barrier releases as soon as every cluster holds the gang, unless a die was late. -/
def State.gangCheck (s : State) (x k : Nat) : State :=
  if s.isGang x && s.gangReady x && decide ((s.gangTime x k) ≤ (s.cluster k).boundary) then s.gangStart x none else s

/-- The decision at a boundary. -/
def State.decide_ (s : State) (k : Nat) (b : DWord) : State :=
  let cl := s.cluster k
  let ps := s.participants k
  let ids := ps.map (·.1)
  let going := ids.filter fun x => cl.present.contains x
  let passes := ids.foldl (fun (m : Map Nat) x => if going.contains x then m else m.set x (cl.enterPass x going)) cl.passes
  match winnerOf passes ids with
  | none =>
    let empty := !cl.phxs.any fun p => decide (some p.2.ctx = cl.holds)
    s.setCluster k { cl with boundary := b, present := [], holds := if empty then none else cl.holds }
  | some x =>
    let passes := passes.set x (passes.getD x 0 + strideOf (s.ticketsOf k x))
    let s := s.setCluster k { cl with boundary := b, present := ids, passes := passes }
    match cl.holds with
    | none => (s.enterCluster k (some x)).gangCheck x k
    | some h =>
      if h = x then s
      else
        let s := s.requestStop k h (some x)
        s.setCluster k { s.cluster k with won := b }

/-- TEMPO_BOUNDARY: a cluster that is still being saved, or in which a gang starts, decides nothing. -/
def execTempoBoundary (cluster : Nat) (s : State) : Host.Outcome State Fault Refusal :=
  .next <|
    let cl := s.cluster cluster
    let b := s.boundaryOf cluster
    if b ≤ cl.boundary then s
    else if cl.stop.isSome then s.setCluster cluster { cl with boundary := b }
    else
      match cl.gangWait, cl.holds with
      | some _, some x =>
        if s.gangReady x && decide (s.gangTime x cluster ≤ b) then s.gangStart x (some b) else s.setCluster cluster { cl with boundary := b }
      | _, _ => s.decide_ cluster b

/-- The budget of a save and the deadline of a die, in dt. -/
def saveBudget : Nat := 32500

/-- Is cluster `k` still being saved for gang `x` past its deadline, and not yet marked late? -/
def State.lateCluster (s : State) (x k : Nat) : Bool :=
  let cl := s.cluster k
  (match cl.stop with | some (_, some y) => decide (y = x) | _ => false) && cl.gangWait.isNone &&
  decide (cl.won.toNat + saveBudget < s.time.toNat)

/-- A die has not saved by T + 32,500 dt, T being the boundary that the gang won: it is late, once, and the gang starts at
T + TEMPO, or where that has passed at the die's next boundary (20:R312). -/
def State.lateDie (s : State) (ctx die : Nat) : State :=
  let ks := s.clustersOf ctx
  let late := ks.filter fun k => dieOfCluster k = die && s.lateCluster ctx k
  match late with
  | [] => s
  | k :: _ =>
    if !s.isGang ctx then s
    else
      let r := (s.cluster k).won + BitVec.ofNat 64 (s.tempoOn k)
      let r := if r < s.time then s.nextBoundary k else r
      let s := ks.foldl (fun s j =>
        let cl := s.cluster j
        if cl.gangWait.isSome || (dieOfCluster j = die && cl.stop.isSome) then s.setCluster j { cl with gangWait := some r } else s) s
      s.count (cLateSave + 32 * die) 1

def execLateDieDeadline (ctx die : Nat) (s : State) : Host.Outcome State Fault Refusal := .next (s.lateDie ctx die)

/-! ### Saving and restoring (20:R309, Table 13; 16:R254; 13:R222; 09:R160) -/

/-- The warps of a context in a cluster: key and warp. -/
def State.warpsIn (s : State) (k x : Nat) : List (Nat × Warp) :=
  s.warps.filter fun e => decide (clusterOf (e.1 / 256) = k) && decide (e.2.ctx = x)

/-- Has a scalar core taken a command of the context that has not retired? -/
def Scalar.serving (k : Scalar) (x : Nat) : Bool := match k.cur with | some (m, failed) => decide (m.ctx = x) && !failed | none => false

/-- Has every item of the context in flight in the cluster landed, or been recorded (20 Table 13)? -/
def State.quiescent (s : State) (k x : Nat) : Bool :=
  let ws := s.warpsIn k x
  let mine := fun (core uid : Nat) => clusterOf core = k && ws.any fun e => decide (e.2.uid = uid)
  s.acc.all (fun e => !(decide (e.2.ctx = x) && decide (clusterOf e.2.core = k)) || e.2.pas.isEmpty) &&
  s.results.all (fun r => !mine r.2.core r.2.uid || !r.2.ready || r.2.faulted) &&
  s.commits.all (fun c => !mine c.2.core c.2.uid) &&
  (match (s.cluster k).busy with
   | some id => (match (s.cluster k).ops.get? id with | some o => decide (o.ctx ≠ x) | none => true)
   | none => true) &&
  (rangeFrom (4 * k) 4).all (fun c => !(s.core c).loader.serving x && !(s.core c).storer.serving x) &&
  ws.all fun e => e.2.threads.all fun th => !th.alive || (decide (th.twait = .none) && th.refill.isEmpty)

/-- The rows of a phalanx, those of its ended groups too, with flags and poison. -/
def State.saveRows (s : State) (ph : Phalanx) : List SavedRows :=
  (ph.places.zip ph.rows).map fun x =>
    let core := s.core x.1.1
    let (b, n) := x.2
    let inside := fun (r : Nat) => decide (b ≤ r) && decide (r < b + n)
    ⟨x.1.1, b, n, core.scratch.read (128 * b) (128 * n), (core.flags.filter inside).map (· - b), (core.scratchPoison.filter fun r => inside (r / 16)).map (· - 16 * b)⟩

/-- Engine operations as they are saved: their lines are fetched anew (13:R222). -/
def savedOps (ops : Map EngOp) : Map EngOp := ops.map fun o => (o.1, { o.2 with fetched := [], pins := [] })

/-- Operations that satisfy `p` leave the table of a cluster, their pins released. -/
def State.takeOps (s : State) (k : Nat) (p : EngOp → Bool) : Map EngOp × State :=
  let ops := (s.cluster k).ops.filter fun o => p o.2
  let s := ops.foldl (fun (s : State) o => s.dropFetched k o.1 o.2 fun _ => false) s
  let cl := s.cluster k
  (savedOps ops, s.setCluster k { cl with ops := cl.ops.filter fun o => !p o.2 })

/-- One phalanx is taken out of its cluster, with the operations of its groups: of one that stands for what a castling exit
keeps, those of its last launch there (13:R222). -/
def State.savePhalanx (s : State) (k e : Nat) (ph : Phalanx) : Saved × State :=
  let gs := (ph.places.filterMap fun p => (s.group? p.1 p.2).map fun g => (p, g)).filter fun y => decide (y.2.phx = e) && decide (y.2.ctx = ph.ctx)
  let inGroup := fun (key : Nat) (w : Warp) => gs.any fun y => decide (y.1.1 = key / 256) && decide (y.1.2 = w.gslot)
  let ws := s.warps.filter fun w => inGroup w.1 w.2
  let uids := ws.map (·.2.uid)
  let guids := gs.map (·.2.uid)
  let (ops, s) := s.takeOps k fun o => guids.contains o.group ||
    (ph.kept && decide (o.launch = ph.launch) && ph.places.contains (o.core, o.gslot))
  let cl := s.cluster k
  let inside := fun (r : Nat) => decide (128 * ph.tbase ≤ r) && decide (r < 128 * (ph.tbase + ph.tcount))
  let sv : Saved :=
    { phx := ph, groups := gs.map fun y => ⟨y.1.1, y.1.2, y.2⟩, rows := s.saveRows ph, warps := ws.map fun w => (w.1 / 256, w.1 % 256, w.2),
      tiles := cl.tiles.read (16384 * ph.tbase) (16384 * ph.tcount), tileBad := (cl.tilePoison.filter inside).map (· - 128 * ph.tbase),
      ops := ops, replays := s.acc.filter fun a => uids.contains a.2.uid }
  let s := s.setCluster k { cl with phxs := cl.phxs.del e }
  let s := ws.foldl (fun (s : State) w => s.setCore (w.1 / 256) ((s.core (w.1 / 256)).leaveRows (w.1 % 256) w.2)) s
  (sv, { s with warps := s.warps.filter (fun w => !inGroup w.1 w.2), acc := s.acc.filter (fun a => !uids.contains a.2.uid),
                groups := s.groups.filter fun g => !guids.contains g.2.uid })

/-- What the context's phalanxes have left in the cluster: accesses of warps that exited, operations of groups that ended, and
the mailbox commands. -/
def State.saveRest (s : State) (k x : Nat) (cmds : List (Nat × Bool × LsCommand)) : List SavedRest × State :=
  let (ops, s) := s.takeOps k fun o => decide (o.ctx = x)
  let mine := fun (a : Access) => decide (a.ctx = x) && decide (clusterOf a.core = k)
  let accs := s.acc.filter fun a => mine a.2
  let r : SavedRest := ⟨x, ops, accs, cmds⟩
  (if ops.isEmpty && accs.isEmpty && cmds.isEmpty then [] else [r], { s with acc := s.acc.filter fun a => !mine a.2 })

/-- The commands of a context that a mailbox still holds leave it. -/
def State.saveCommands (s : State) (k x : Nat) : List (Nat × Bool × LsCommand) × State :=
  (rangeFrom (4 * k) 4).foldl (fun (acc : List (Nat × Bool × LsCommand) × State) c =>
    let core := acc.2.core c
    let mine := fun (m : LsCommand) => decide (m.ctx = x)
    let out := (core.loader.mailbox.filter mine).map (fun m => (c, false, m)) ++ (core.storer.mailbox.filter mine).map fun m => (c, true, m)
    (acc.1 ++ out, acc.2.setCore c { core with
      loader := { core.loader with mailbox := core.loader.mailbox.filter fun m => !mine m },
      storer := { core.storer with mailbox := core.storer.mailbox.filter fun m => !mine m } })) ([], s)

/-- The copies and collectives of a context's phalanxes in a cluster become replay entries. -/
def State.saveCopies (s : State) (k x : Nat) : State :=
  let mine := fun (c : Copy) => decide (c.ctx = x) && decide (c.cluster = k)
  { s with
    dies := s.dies.map (fun (d : Nat × Die) => (d.1, { d.2 with engines := d.2.engines.map fun (e : Nat × CopyEngine) =>
      (e.1, { e.2 with queue := e.2.queue.filter (fun c => !mine c), replay := e.2.replay ++ (e.2.queue.filter mine).map fun c => { c with ahead := [] } }) }))
    colls := s.colls.map fun (c : Nat × Coll) => (c.1, if c.2.ctx = x && c.2.cluster = k then { c.2 with saved := true } else c.2) }

/-- Sleepers and open gambits of a context that is stopping (16:R243, 10:R184). -/
def State.settleStop (s : State) (k x : Nat) : State :=
  s.wake (s.sleepers.filter fun y => match s.acc.get? y.access with
    | some a => decide (a.ctx = x) && decide (clusterOf a.core = k)
    | none => false)

/-- What stands in the save area of a saved phalanx: its table entry, the rows of its warps with their full and poison bits,
their uniform copies, loop-nest units and thread state, its groups, scratchpad rows and tile registers (20:R309; the order,
log entry 108). -/
def Thread.saveBytes (th : Thread) : List Byte :=
  (th.cells.flatMap fun c => toBytes c.val.toNat 4) ++
  toBytes ((List.range th.cells.length).zip th.cells |>.foldl (fun n x => n + (if x.2.full then 2 ^ x.1 else 0)) 0) 16 ++
  toBytes ((List.range th.cells.length).zip th.cells |>.foldl (fun n x => n + (if x.2.poison = .none then 0 else 2 ^ x.1)) 0) 16 ++
  toBytes th.pc.toNat 8 ++ toBytes th.fp 4 ++ toBytes th.s 1 ++ toBytes th.depth 2 ++ toBytes th.lo 4 ++
  toBytes th.meetA.toNat 8 ++ toBytes th.meetD 2 ++ toBytes th.preds.toNat 1 ++ toBytes th.copy 1

def Warp.saveBytes (w : Warp) : List Byte :=
  toBytes w.uid 8 ++ toBytes w.widx 1 ++ toBytes w.winBase 1 ++ toBytes w.win 1 ++ toBytes w.pbase.toNat 8 ++ toBytes w.p 4 ++
  toBytes w.plim 4 ++ toBytes w.xf.toNat 4 ++ (w.threads.flatMap Thread.saveBytes) ++
  (w.copies.flatMap fun c => toBytes c.1 1 ++ (c.2.vals.flatMap fun v => toBytes v.toNat 4) ++ toBytes c.2.conflict.toNat 8) ++
  ((w.ln.n ++ w.ln.trip).flatMap fun v => toBytes v.toNat 4) ++ toBytes w.ln.level 1 ++
  (w.ln.coef.flatMap fun k => toBytes k.base.toNat 8 ++ k.strides.flatMap fun v => toBytes v.toNat 4)

def Saved.bytes (v : Saved) : List Byte :=
  toBytes v.phx.ctx 2 ++ toBytes v.phx.groups 1 ++ toBytes v.phx.tbase 1 ++ toBytes v.phx.tcount 1 ++ toBytes v.phx.live 2 ++
  toBytes v.phx.arr 2 ++ toBytes v.phx.castle.toNat 8 ++
  (v.groups.flatMap fun g => toBytes g.core 2 ++ toBytes g.gslot 1 ++ toBytes g.group.imask.toNat 4 ++ toBytes g.group.uipend.toNat 4) ++
  (v.rows.flatMap fun r => toBytes r.core 2 ++ toBytes r.base 2 ++ toBytes r.count 2 ++ r.bytes ++
    (r.flags.flatMap fun j => toBytes j 2) ++ (r.bad.flatMap fun j => toBytes j 2)) ++
  (v.warps.flatMap fun w => toBytes w.1 2 ++ toBytes w.2.1 1 ++ w.2.2.saveBytes) ++ v.tiles ++ (v.tileBad.flatMap fun j => toBytes j 2)

/-- The phalanxes that a context leaves in a cluster are written to its 4 MiB of the context's save area (20:R309, Table 1). -/
def State.writeSave (s : State) (k x : Nat) (svs : List Saved) : State :=
  match s.ctx? x with
  | none => s
  | some c =>
    if !c.saveTaken then s
    else { s with mem := s.mem.write (c.saveArea.toNat + 2 ^ 22 * k) ((svs.flatMap Saved.bytes).take (2 ^ 22)) }

/-- Every resident phalanx of the context is saved, in the order of the table, with what its phalanxes have left there. -/
def State.saveAll (s : State) (k x : Nat) : State :=
  let ps := (s.cluster k).phxs.filter fun p => decide (p.2.ctx = x)
  let (svs, s) := ps.foldl (fun (acc : List Saved × State) p =>
    (let (sv, s) := acc.2.savePhalanx k p.1 p.2
     (acc.1 ++ [sv], s))) (([] : List Saved), s)
  let (cmds, s) := s.saveCommands k x
  let (rest, s) := s.saveRest k x cmds
  let s := s.saveCopies k x
  let gone := svs.flatMap fun v => v.warps.map fun w => (w.1, w.2.1)
  let s := (rangeFrom (4 * k) 4).foldl (fun (s : State) c =>
    let s := s.flushL1 c x
    let core := s.core c
    s.setCore c { core with
      ccache := core.ccache.filter (fun l => decide (l.1 ≠ x)), laneRun := core.laneRun.filter fun r => !gone.contains (c, r.2) }) s
  let s := s.writeSave k x svs
  let cl := s.cluster k
  s.setCluster k { cl with saved := cl.saved ++ svs, rest := cl.rest ++ rest }

/-- CONTEXT_SAVE: after quiescence. A save past its budget is counted; then the next context enters. -/
def execContextSave (cluster : Nat) (s : State) : Host.Outcome State Fault Refusal :=
  .next <|
    match (s.cluster cluster).stop with
    | none => s
    | some (x, next) =>
      let s := s.settleStop cluster x
      if !s.quiescent cluster x then s
      else
        let s := match next with | some y => s.lateDie y (dieOfCluster cluster) | none => s
        let late := decide ((s.cluster cluster).stopAt.toNat + saveBudget < s.time.toNat) &&
          !(match next with | some y => s.isGang y | none => false)
        let s := s.saveAll cluster x
        let s := if late then s.count (cLateSave + 32 * dieOfCluster cluster) 1 else s
        let s := s.enterCluster cluster next
        match next with
        | some y => s.gangCheck y cluster
        | none => s

/-- Saved accesses are in flight again; one whose translation is gone faults late, and is reported (20:R296). -/
def State.requeueAccs (s : State) (rs : Map Access) : State :=
  let s := { s with acc := rs.foldl (fun (m : Map Access) a => m.set a.1 { a.2 with revoked := false }) s.acc }
  (rs.filter (·.2.revoked)).foldl (fun (s : State) a =>
    match s.acc.get? a.1 with
    | some acc => (s.lateFault a.1 acc fTranslation 1 acc.va).post 3 acc.ctx (handleOf acc.entry acc.thread) none
    | none => s) s

/-- Saved operations return to the reservation table; one whose translation is gone fails, and is reported. -/
def State.requeueOps (s : State) (k : Nat) (ops : Map EngOp) : State :=
  let cl := s.cluster k
  let s := s.setCluster k { cl with ops := ops.foldl (fun (m : Map EngOp) o => m.set o.1 { o.2 with revoked := false }) cl.ops }
  (ops.filter (·.2.revoked)).foldl (fun (s : State) o => (s.opEnd k o.1 (some 6)).post 3 o.2.ctx 0 none) s

/-- Saved commands are posted again, in their order. -/
def State.requeueCommands (s : State) (cs : List (Nat × Bool × LsCommand)) : State :=
  cs.foldl (fun (s : State) m =>
    let core := s.core m.1
    let sc := core.scalar m.2.1
    s.setCore m.1 (core.setScalar m.2.1 { sc with mailbox := sc.mailbox ++ [m.2.2] })) s

/-- Saved rows return to their core. -/
def State.restoreRows (s : State) (r : SavedRows) : State :=
  let core := (s.core r.core).clearRows r.base r.count
  s.setCore r.core { core with
    scratch := core.scratch.write (128 * r.base) r.bytes, flags := core.flags ++ r.flags.map (· + r.base),
    scratchPoison := core.scratchPoison ++ r.bad.map (· + 16 * r.base) }

/-- A saved phalanx returns to its slots, under a free entry of the table. -/
def State.restorePhalanx (s : State) (k : Nat) (sv : Saved) : State :=
  let cl := s.cluster k
  let e := (cl.phxs.free 0 128).getD 127
  let cl := cl.clearTiles sv.phx.tbase sv.phx.tcount
  let s := s.setCluster k { cl with
    phxs := cl.phxs.set e sv.phx, tiles := cl.tiles.write (16384 * sv.phx.tbase) sv.tiles,
    tilePoison := cl.tilePoison ++ sv.tileBad.map (· + 128 * sv.phx.tbase) }
  let s := sv.rows.foldl (fun (s : State) r => s.restoreRows r) s
  let s := sv.groups.foldl (fun (s : State) g => s.setGroup g.core g.gslot { g.group with phx := e }) s
  let s := sv.warps.foldl (fun (s : State) w => s.setWarp w.1 w.2.1 { w.2.2 with run := 0, stamp := s.laneNow w.1 w.2.1 }) s
  (s.requeueOps k sv.ops).requeueAccs sv.replays

/-- What a saved context left beside its phalanxes returns. -/
def State.restoreRest (s : State) (k : Nat) (r : SavedRest) : State :=
  ((s.requeueOps k r.ops).requeueAccs r.replays).requeueCommands r.commands

/-- Replay entries of copies are queued again in their order, collectives go on; one whose translation is gone fails as
REVOKED, and is reported. -/
def State.restoreCopies (s : State) (k x : Nat) : State :=
  let mine := fun (c : Copy) => decide (c.ctx = x) && decide (c.cluster = k)
  let mineC := fun (c : Coll) => decide (c.ctx = x) && decide (c.cluster = k)
  let reports := (s.dies.flatMap fun d => d.2.engines.flatMap fun e =>
    (e.2.replay.filter fun c => mine c && c.revoked && c.status.isNone).map fun c => copyHandle c.seq e.1 d.1) ++
    (s.colls.filter fun c => mineC c.2 && c.2.revoked && c.2.status.isNone).map fun c => c.2.handle.toNat
  let end_ := fun (bad : Bool) (st : Option Nat) => if bad && st.isNone then some 12 else st
  let back := fun (c : Copy) => { c with status := end_ c.revoked c.status, revoked := false }
  let s := { s with
    dies := s.dies.map (fun (d : Nat × Die) => (d.1, { d.2 with engines := d.2.engines.map fun (e : Nat × CopyEngine) =>
      (e.1, { e.2 with queue := e.2.queue ++ (e.2.replay.filter mine).map back, replay := e.2.replay.filter fun c => !mine c }) }))
    colls := s.colls.map fun (c : Nat × Coll) =>
      (c.1, if mineC c.2 then { c.2 with saved := false, status := end_ c.2.revoked c.2.status, revoked := false } else c.2) }
  s.report (reports.map fun h => (x, h))

/-- Once the clocks of a plan run and every holder that was pre-empted for it has been restored, the plan has been applied
(24:R364, step 4). -/
def State.planDone (s : State) : State :=
  let h := s.hdie
  if h.planst = 3 && h.relocked && !s.clusters.any fun k => k.2.stop.isSome ||
      (match k.2.holds with | some x => s.savedIn k.1 x && s.runnable x | none => false)
  then { s with hdie := { h with planst := if h.plan.isEmpty then 0 else 1, relocked := false } }
  else s

/-- CONTEXT_RESTORE: what is saved of the holder returns, in issue order; then a gang may start. While a plan is applied none
is restored until the clocks run again. -/
def execContextRestore (cluster : Nat) (s : State) : Host.Outcome State Fault Refusal :=
  .next <|
    let cl := s.cluster cluster
    match cl.holds with
    | none => s
    | some x =>
      if cl.stop.isSome || !s.savedIn cluster x || !s.runnable x || (decide (s.hdie.planst = 3) && !s.hdie.relocked) then s
      else
        let svs := cl.saved.filter fun v => decide (v.phx.ctx = x)
        let rest := cl.rest.filter fun v => decide (v.ctx = x)
        let s := s.setCluster cluster { cl with
          saved := cl.saved.filter (fun v => decide (v.phx.ctx ≠ x)), rest := cl.rest.filter fun v => decide (v.ctx ≠ x) }
        let s := svs.foldl (fun (s : State) v => s.restorePhalanx cluster v) s
        let s := rest.foldl (fun (s : State) v => s.restoreRest cluster v) s
        ((s.restoreCopies cluster x).gangCheck x cluster).planDone

/-! ### Pages that the slice kernel supplies (20:R292, R293, R299) -/

/-- Is the page one of the seven sizes, aligned, in memory? -/
def pageOk (p : PageIn) : Bool :=
  pageSizes.contains p.size && p.va % p.size == 0 && p.pa % p.size == 0 && decide (p.va + p.size ≤ 2 ^ 57) &&
  regionOf p.pa = .ram && regionOf (p.pa + p.size - 1) = .ram

/-- The page becomes present in the context, within its budget, where nothing is mapped yet. The root's map is fixed. -/
def State.pageIn (s : State) (ctx : Nat) (p : PageIn) : State :=
  match s.ctx? ctx with
  | none => s
  | some c =>
    let f : Leaf := ⟨p.va, p.size, p.size, p.pa, true, p.r, p.w, p.x, false, false, false, 0, 0, none⟩
    if ctx = 0 || !c.alive || !pageOk p || s.hidden p.pa p.size || c.leaves.any fun g => g.v && overlap g.va g.size p.va p.size then s
    else if c.memUsed + f.cost + ((s.children ctx).map fun e => e.2.claim.mem).sum > c.claim.mem then s
    else
      let s := s.setLeaves (ctx % 64) ctx (c.leaves.flatMap (fun g => g.cut p.va p.size) ++ [f])
      match s.ctx? ctx with
      | none => s
      | some c => s.setCtx ctx { c with memUsed := c.memUsed + f.cost }

/-- A host's answer to a page request is applied only under the context's current generation (20:R299). -/
def execPageRequestResponse (ctx gen : Nat) (page : PageIn) (s : State) : Host.Outcome State Fault Refusal :=
  .next <|
    match s.ctx? ctx with
    | none => s.count cStalePrr 1
    | some c => if c.gen = gen then s.pageIn ctx page else s.count cStalePrr 1

/-! ### Slice-core control registers (21:R334, R335) -/

/-- The image of a quota register (09 Table 4). -/
def Quota.image (q : Quota) : Nat :=
  (if q.v then 1 else 0) + q.ctx * 2 ^ 16 + q.glo * 2 ^ 32 + q.gcnt * 2 ^ 40 + q.rlo * 2 ^ 48 + q.rcnt * 2 ^ 56 +
  q.slo * 2 ^ 64 + q.scnt * 2 ^ 80 + q.tlo * 2 ^ 96 + q.tcnt * 2 ^ 104

def Quota.parse (x : Nat) : Quota :=
  ⟨bit x 0, bits x 16 16, bits x 32 5, bits x 40 6, bits x 48 7, bits x 56 8, bits x 64 11, bits x 80 12, bits x 96 5, bits x 104 6⟩

/-- Would the register break 09:R143: a count beyond the core's total, or, if it is valid, a range beyond the core, or one that
meets another valid register's? -/
def Core.quotaBad (k : Core) (i : Nat) (q : Quota) : Bool :=
  decide (32 < q.gcnt) || decide (128 < q.rcnt) || decide (2048 < q.scnt) || decide (32 < q.tcnt) ||
  q.v && (decide (32 < q.glo + q.gcnt) || decide (128 < q.rlo + q.rcnt) || decide (2048 < q.slo + q.scnt) || decide (32 < q.tlo + q.tcnt) ||
    k.quotas.any fun e => decide (e.1 ≠ i) && e.2.v &&
      !(rangeApart (q.glo, q.gcnt) (e.2.glo, e.2.gcnt) && rangeApart (q.rlo, q.rcnt) (e.2.rlo, e.2.rcnt) &&
        rangeApart (q.slo, q.scnt) (e.2.slo, e.2.scnt) && rangeApart (q.tlo, q.tcnt) (e.2.tlo, e.2.tcnt)))

/-- The image of an L2 context entry (16 Table 7). -/
def L2Ctx.image (e : L2Ctx) : Nat :=
  (if e.v then 1 else 0) + e.ctx * 2 ^ 16 + e.rate * 2 ^ 32 + e.depth * 2 ^ 44 + e.tok * 2 ^ 64 + e.ways * 2 ^ 80 + e.occ * 2 ^ 96

/-- An L2 context entry as an image gives it: its bucket is full (16 Table 7). -/
def L2Ctx.parse (x occ : Nat) : L2Ctx := ⟨bit x 0, bits x 16 16, bits x 32 12, bits x 44 13, bits x 44 13, 0, bits x 80 16, occ⟩

/-- The image of a weight-store region (16 Table 6). -/
def WsRegion.image (r : WsRegion) : Nat := (if r.v then 1 else 0) + (if r.locked then 2 else 0) + r.ctx * 2 ^ 16 + r.named * 2 ^ 32

/-- The entries of 21 Table 12. -/
inductive KEntry
  | quota (core i : Nat)
  | l2 (slice i : Nat)
  | region (die i : Nat)
  | queue (q : Nat)
  | desc (die i : Nat)
  | tlb
  | none

/-- The entry that KSEL selects; a code, unit or entry that Table 12 does not list selects none. -/
def kEntry (ksel : Nat) : KEntry :=
  let u := bits ksel 8 16
  let e := bits ksel 24 24
  match bits ksel 0 8 with
  | 1 => if u < 640 && e < 8 then .quota u e else .none
  | 2 => if u < 256 && e < 64 then .l2 u e else .none
  | 3 => if u < 4 && e < 256 then .region u e else .none
  | 4 => if u = 0 && e < 4096 then .queue e else .none
  | 5 => if u < 4 && e < 4096 then .desc u e else .none
  | 6 => if u = 0 && e = 0 then .tlb else .none
  | _ => .none

/-- The image of an entry: none where it has none. -/
def State.kImage (s : State) : KEntry → Option Nat
  | .quota c i => some (match (s.core c).quotas.get? i with | some q => q.image | Option.none => 0)
  | .l2 j i => some (match (s.l2slice j).ctxs.get? i with | some e => e.image | Option.none => 0)
  | .region d i => some ((s.die d).regions.getD i WsRegion.blank).image
  | .queue q => some (match s.queues.get? q with | some d => d.image | Option.none => 0)
  | .desc d i => some ((s.die d).descs.getD i 0).toNat
  | .tlb => Option.none
  | .none => Option.none

/-- The slice that alone may write the entry: the home of its context, of its queue; none for an entry of no context. -/
def State.kOwner (s : State) : KEntry → Option Nat
  | .quota c i => match (s.core c).quotas.get? i with | some q => if q.v then some (q.ctx % 64) else Option.none | Option.none => Option.none
  | .l2 j i => match (s.l2slice j).ctxs.get? i with
    | some e => if i ≠ 0 && e.v then some (e.ctx % 64) else Option.none
    | Option.none => Option.none
  | .region d i => match (s.die d).regions.get? i with | some r => if r.v then some (r.ctx % 64) else Option.none | Option.none => Option.none
  | .queue q => some (q / 64)
  | .desc d i => let x := ((s.die d).descs.getD i 0).toNat; if bit x 0 then some (bits x 16 16 % 64) else Option.none
  | .tlb => Option.none
  | .none => Option.none

/-- Has the partition a group resident in the core? -/
def State.partResident (s : State) (core i : Nat) : Bool :=
  (List.range 32).any fun g => match s.group? core g with | some y => decide (y.part = i) | Option.none => false

/-- The ranges of a quota register. -/
def Quota.ranges (q : Quota) : List Nat := [q.glo, q.gcnt, q.rlo, q.rcnt, q.slo, q.scnt, q.tlo, q.tcnt]

/-- Write an entry from an image: none where the write breaks 09:R143 or there is no such entry. Reserved bits are
ignored. A region that passes to another context is zero; entry 0 of a slice is always valid. -/
def State.kWrite (s : State) (x : Nat) : KEntry → Option State
  | .quota c i =>
    let k := s.core c
    let q := Quota.parse x
    let old := k.quotas.getD i ⟨false, 0, 0, 0, 0, 0, 0, 0, 0, 0⟩
    if k.quotaBad i q || (s.partResident c i && (decide (old.ranges ≠ q.ranges) || (old.v && !q.v))) then Option.none
    else some (s.setCore c { k with quotas := k.quotas.set i q })
  | .l2 j i =>
    let l := s.l2slice j
    let occ := (l.lines.filter fun e => !e.2.zero && decide (e.2.by_ = i)).length
    let e := L2Ctx.parse x occ
    some (s.setL2 j { l with ctxs := l.ctxs.set i { e with v := e.v || decide (i = 0) } })
  | .region d i =>
    let s := s.giveRegion d i (if bit x 0 then some (bits x 16 16) else Option.none)
    let die := s.die d
    some (s.setDie d { die with regions := die.regions.set i ⟨bit x 0, bit x 1, bits x 16 16, bits x 32 16⟩ })
  | .queue q =>
    let old := s.queues.getD q Queue.blank
    some { s with queues := s.queues.set q { Queue.parse x with skip := old.skip, host := old.host } }
  | .desc d i =>
    let s := s.startAllDue
    let die := s.die d
    some (s.setDie d { die with descs := die.descs.set i (BitVec.ofNat 512 (setBits (bits x 0 290) 8 8 0)) })
  | .tlb => Option.none
  | .none => Option.none

/-- The slice core starts a command: KSEL is loaded, its reserved bits are not. -/
def State.kStart (s : State) (i : Nat) (ksel : DWord) : State :=
  s.setSlice i { s.slice i with ksel := BitVec.ofNat 64 (bits ksel.toNat 0 48) }

/-- What KCMD reads back. -/
def State.kAnswer (s : State) (i n : Nat) : State := s.setSlice i { s.slice i with kcmd := n }

/-- May the slice core start a command? It has one in progress at a time. -/
def State.kIdle (s : State) (i : Nat) : Bool := decide (i < 64) && decide ((s.slice i).kcmd ≠ 1)

/-- KCMD 1 on the entry that KSEL selects. -/
def State.kRead (s : State) (i : Nat) : State :=
  match s.kImage (kEntry (s.slice i).ksel.toNat) with
  | none => s.kAnswer i 2
  | some x => (s.setSlice i { s.slice i with kdat := BitVec.ofNat 512 x }).kAnswer i 0

/-- KSEL is written, and then KCMD 1. -/
def execKcmdRead (slice : Nat) (ksel : DWord) (s : State) : Host.Outcome State Fault Refusal :=
  .next (if !s.kIdle slice then s else (s.kStart slice ksel).kRead slice)

/-- Write an entry by a slice core. -/
def State.kDo (s : State) (i x : Nat) (e : KEntry) : State :=
  if (match s.kOwner e with | some o => decide (o ≠ i) | none => false) then s.kAnswer i 3
  else
    match s.kWrite x e with
    | none => s.kAnswer i 2
    | some s => s.kAnswer i 0

/-- KSEL and KDAT are written, and then KCMD 2. -/
def execKcmdWrite (slice : Nat) (ksel : DWord) (kdat : BitVec 512) (s : State) : Host.Outcome State Fault Refusal :=
  .next <|
    if !s.kIdle slice then s
    else
      let s := s.kStart slice ksel
      (s.setSlice slice { s.slice slice with kdat := kdat }).kDo slice kdat.toNat (kEntry ksel.toNat)

/-- The bytes and poisoned lines of a frame are copied to a new one. -/
def State.moveFrame (s : State) (old size new : Nat) : State :=
  let from_ := s.mem.filter fun c => decide (old ≤ c.1) && decide (c.1 < old + size)
  { s with mem := from_.foldl (fun (m : Memory) c => m.write (c.1 - old + new) [c.2])
             (s.mem.filter fun c => !(decide (new ≤ c.1) && decide (c.1 < new + size)))
           poison := (s.poison.filter fun l => !(decide (new ≤ 128 * l) && decide (128 * l < new + size))) ++
             (s.poison.filter fun l => decide (old ≤ 128 * l) && decide (128 * l < old + size)).map fun l => l - old / 128 + new / 128 }

/-- The siblings of a record that stood in an overflow pool take entries of another slice's pool: none where it is full. -/
def VerRec.rehomed (r : VerRec) (used : List Nat) : Option VerRec :=
  r.pooled.foldl (fun (o : Option VerRec) x => o.bind fun n =>
    (freeEntry (used ++ n.pooled.map (·.1)) 0 poolSize).map fun e => { n with pooled := n.pooled ++ [(e, x.2)] })
    (some { r with pooled := [] })

/-- The version records of a frame's words go with it, their images staying in the shadow region (16:R246, R248). -/
def State.moveVers (s : State) (old size new : Nat) : Option State :=
  (s.vers.filter fun v => decide (old ≤ v.1) && decide (v.1 < old + size)).foldl (fun (o : Option State) v => o.bind fun s =>
    let l := s.l2slice (channelOf v.1)
    let s := s.setL2 (channelOf v.1) { l with pool := poolAfter l.pool v.2 { v.2 with pooled := [] } }
    let to_ := v.1 - old + new
    let l := s.l2slice (channelOf to_)
    (v.2.rehomed l.pool).map fun r =>
      let s := s.setL2 (channelOf to_) { l with pool := l.pool ++ r.pooled.map (·.1) }
      let m := match s.shadowOf v.1 with | some a => s.mem.write a r.image | none => s.mem
      { s with vers := (s.vers.del v.1).set to_ r, mem := m }) (some s)

/-- Does a leaf map part of a frame? -/
def Leaf.inFrame (f : Leaf) (a n : Nat) : Bool := f.v && decide (f.stripe = 0) && overlap f.pa f.size a n

/-- The part of a leaf in a frame, in the context's addresses. -/
def Leaf.frameRange (f : Leaf) (ctx a n : Nat) : Nat × Nat × Nat :=
  let lo := max f.pa a
  (ctx, f.va + (lo - f.pa), min (f.pa + f.size) (a + n) - lo)

/-- The addresses of every context that map a frame (20:R293). -/
def State.frameRanges (s : State) (a n : Nat) : List (Nat × Nat × Nat) :=
  s.ctxs.flatMap fun e => (e.2.leaves.filter fun f => f.inFrame a n).map fun f => f.frameRange e.1 a n

/-- May a frame move as asked: a page of one of the seven sizes, mapped by no striped leaf, whose entries are found by their
offset in the stripe set; and for its last step, blocked in every entry that maps it, with that invalidation complete? -/
def State.moveOk (s : State) (m : PageMove) : Bool :=
  pageSizes.contains m.size && m.old % m.size == 0 && m.new % m.size == 0 && regionOf m.old = .ram && regionOf m.new = .ram &&
  !s.hidden m.old m.size && !s.hidden m.new m.size &&
  (s.ctxs.all fun e => e.2.leaves.all fun f => !f.v || decide (f.stripe = 0) ||
    (rangeFrom 0 (m.size / 4096)).all fun i => !s.leafHolds f (m.old + 4096 * i)) &&
  (m.wblk || ((s.ctxs.all fun e => e.2.leaves.all fun f => !f.inFrame m.old m.size || f.wblk) &&
    (s.frameRanges m.old m.size).all fun r => !s.shootdowns.any fun d =>
      d.2.ranges.any fun x => decide (x.1 = r.1) && overlap x.2.1 x.2.2 r.2.1 r.2.2))

/-- A leaf, split where it reaches beyond a frame, the part in the frame as a migration step leaves it. -/
def Leaf.moved (f : Leaf) (m : PageMove) : List Leaf :=
  if !f.inFrame m.old m.size then [f]
  else
    let lo := max f.pa m.old - f.pa
    let hi := min (f.pa + f.size) (m.old + m.size) - f.pa
    let g := f.piece (f.va + lo) (hi - lo)
    let to_ := g.pa - m.old + m.new
    (if lo = 0 then [] else [f.piece f.va lo]) ++
      [if m.wblk then { g with wblk := true } else { g with wblk := false, pa := to_, page := fitPage g.page [g.va, g.size, to_] }] ++
      (if hi = f.size then [] else [f.piece (f.va + hi) (f.size - hi)])

/-- A table write of the slice kernel on every leaf that maps a frame (23:R347): WBLK set, or the page copied, with its version
records, and the new frame written with WBLK clear. The root's own map, the identity, stays. With it go the ranges whose
translations are to be invalidated. -/
def State.moveLeaves (s : State) (by_ : Nat) (m : PageMove) : List (Nat × Nat × Nat) × State :=
  if !s.moveOk m then ([], s)
  else
    match (if m.wblk then some s else s.moveVers m.old m.size m.new) with
    | none => ([], s)
    | some s1 =>
      let s1 := if m.wblk then s1 else s1.moveFrame m.old m.size m.new
      (s.frameRanges m.old m.size,
       s1.ctxs.foldl (fun (s : State) e =>
         if e.2.leaves.any fun f => f.inFrame m.old m.size then s.setLeaves by_ e.1 (e.2.leaves.flatMap fun f => f.moved m) else s) s1)

/-- KCMD 3: the entry that KSEL selects loses its V; or the TLB entries of the range in KDAT go, and KCMD reads busy until
nothing translated through them is left (16:R259), with those of `more`. -/
def State.kInvalidate (s : State) (i : Nat) (more : List (Nat × Nat × Nat)) : State :=
  match kEntry (s.slice i).ksel.toNat with
  | .tlb =>
    let x := (s.slice i).kdat.toNat
    let rs := (bits x 0 64, bits x 64 64, bits x 128 64) :: more
    ((s.kAnswer i 1).dropTlb rs).startShootdown ⟨rs, [], 0, none, some i⟩
  | e =>
    match s.kImage e with
    | none => s.kAnswer i 2
    | some x => s.kDo i (setBits x 0 1 0) e

/-- KSEL and KDAT are written, and then KCMD 3. The table write that the slice kernel made before it comes with it. -/
def execKcmdInvalidate (slice : Nat) (ksel : DWord) (kdat : BitVec 512) (edit : Option PageMove) (s : State) :
    Host.Outcome State Fault Refusal :=
  .next <|
    if !s.kIdle slice then s
    else
      let (rs, s) := match edit with | some m => s.moveLeaves slice m | none => ([], s)
      let s := s.kStart slice ksel
      (s.setSlice slice { s.slice slice with kdat := kdat }).kInvalidate slice rs

/-- KEVT: the oldest event leaves; a migration notice leaves its die's queue (23:R346). -/
def State.kevtPop (s : State) (slice : Nat) : State :=
  let sl := s.slice slice
  match sl.kevt with
  | [] => s
  | e :: rest =>
    let s := s.setSlice slice { sl with kevt := rest }
    let die := s.die (slice / 16)
    if bits e.toNat 0 8 = 2 then s.setDie (slice / 16) { die with noticeCount := die.noticeCount - 1 } else s

def execKevtPop (slice : Nat) (s : State) : Host.Outcome State Fault Refusal := .next (s.kevtPop slice)

/-- What a slice core reads in a CSR (21 Table 11, R334): none where it has no such CSR. -/
def State.csrValue (s : State) (i n : Nat) : Option DWord :=
  let sl := s.slice i
  if n = 0x7C0 then some sl.ksel
  else if 0x7C1 ≤ n && n ≤ 0x7C8 then some (BitVec.ofNat 64 (bits sl.kdat.toNat (64 * (n - 0x7C1)) 64))
  else if n = 0x7C9 then some (BitVec.ofNat 64 sl.kcmd)
  else if n = 0x7CA then some (sl.kevt.headD 0)
  else if n = 0x7CB then some (BitVec.ofNat 64 (i % 16 + i / 16 * 16))
  else if n = 0xC01 then some s.time
  else none

/-- KCMD is written (21 Table 11): a command starts, of what KSEL and KDAT hold, unless one is in progress. -/
def State.kRun (s : State) (i cmd : Nat) : State :=
  if !s.kIdle i then s
  else if cmd = 1 then s.kRead i
  else if cmd = 2 then s.kDo i (s.slice i).kdat.toNat (kEntry (s.slice i).ksel.toNat)
  else if cmd = 3 then s.kInvalidate i []
  else s

/-- A slice core reads a CSR into `Slice.got`, or writes one (21:R334). KEVT is popped by its read; KID, KEVT and the time are
not written. -/
def State.csr (s : State) (i n : Nat) (write : Option DWord) : State :=
  if 64 ≤ i then s
  else
    match write with
    | none =>
      (match s.csrValue i n with
       | none => s
       | some v =>
         let s := if n = 0x7CA then s.kevtPop i else s
         s.setSlice i { s.slice i with got := v })
    | some v =>
      if n = 0x7C0 then s.kStart i v
      else if 0x7C1 ≤ n && n ≤ 0x7C8 then
        s.setSlice i { s.slice i with kdat := BitVec.ofNat 512 (setBits (s.slice i).kdat.toNat (64 * (n - 0x7C1)) 64 v.toNat) }
      else if n = 0x7C9 then s.kRun i v.toNat
      else s

end Sys2Proof.Machine
end

