-- ==== Sys2Proof/Machine/Scalar.lean ====
section
/-! DEFINITION. The loader and storer cores: fetching their instructions, the Xlm instructions, RV32IMC, traps and program loads
(09:R159, R160; 10:R185 to R187; log entry 14). -/

namespace Sys2Proof.Machine

/-! ### Registers and stores -/

/-- Bytes of the instruction store and of the data store (09:R159). -/
def istoreSize : Nat := 16384
def dstoreSize : Nat := 4096

/-- x[i]; x0 is zero. -/
def Scalar.x (k : Scalar) (i : Nat) : Nat := if i = 0 then 0 else wordAt k.xs i

/-- Write x[i]; a write of x0 is discarded. -/
def Scalar.setX (k : Scalar) (i v : Nat) : Scalar := if i = 0 then k else { k with xs := setAt k.xs i (BitVec.ofNat 32 v) }

/-- The pc moves on by `n` bytes. -/
def Scalar.advance (k : Scalar) (n : Nat) : Scalar := { k with pc := k.pc + BitVec.ofNat 32 n }

def State.scalarAt (s : State) (c : Nat) (storer : Bool) : Scalar := (s.core c).scalar storer

/-- A scalar core's new state; the warps that wait for a command that has just retired have its status (21:R332). -/
def State.setScalarAt (s : State) (c : Nat) (storer : Bool) (k : Scalar) : State :=
  let old := (s.scalarAt c storer).retired
  (k.retired.filter fun r => !old.contains r).foldl (fun (s : State) r => s.tellTicket c storer r.1 r.2.1 r.2.2)
    (s.setCore c ((s.core c).setScalar storer k))

/-- The scalar core in focus executes: without one there is no issuer. -/
def State.scalarIssue (s : State) (f : Nat → Bool → Scalar → State) : Host.Outcome State Fault Refusal :=
  match s.focus with
  | .scalar c storer => .next (f c storer (s.scalarAt c storer))
  | .device => .fault .noIssuer
  | .warp _ _ => .fault .noIssuer

/-! ### Retiring and halting (09:R159, R160; 10:R187) -/

/-- A command retires with a status, which is kept while LSWAIT can ask for it. -/
def Scalar.retire (k : Scalar) (m : LsCommand) (status : Nat) : Scalar :=
  { k with retired := (m.ctx, m.ticket, status) :: k.retired.filter fun r => k.posted.contains (r.1, r.2.1) }

/-- The hardware retires the current command failed and marks it so. -/
def Scalar.failCur (k : Scalar) (status : Nat) : Scalar :=
  match k.cur with
  | some (m, false) => { k.retire m status with cur := some (m, true) }
  | _ => k

/-- LS_HALT. -/
def lsHalt : Nat := 0xFF

/-- A trap: the core halts, the current command and every command in its mailbox retire failed with LS_HALT, the current one
staying current until LM.DONE (10:R186), and the slice core that owns the cluster's claim hears of it (21 Table 11, KIND 3; the payload is free, log entry 7). -/
def State.scalarHalt (s : State) (c : Nat) (storer : Bool) : State :=
  let k := (s.scalarAt c storer).failCur lsHalt
  let k := k.mailbox.foldl (fun (k : Scalar) m => k.retire m lsHalt) k
  let s := s.setScalarAt c storer { k with halted := true, mailbox := [] }
  let (v, s) := s.takeFree 56
  s.postEvent (s.holder (clusterOf c) % 64) 3 v

/-! ### The current command (10:R186, R187) -/

/-- The group of a command, while its slot holds a group of the command's context. -/
def State.cmdGroup (s : State) (c : Nat) (m : LsCommand) : Option Group :=
  match s.group? c m.gslot with
  | some g => if g.ctx = m.ctx then some g else none
  | none => none

/-- Do rows `lo` to `lo + n` − 1 lie in the rows of the command's group? -/
def State.cmdRows (s : State) (c : Nat) (m : LsCommand) (lo n : Nat) : Bool :=
  match s.cmdGroup c m with
  | some g => rangeIn (lo, n) (g.scratchBase, g.scratchCount)
  | none => false

/-- Do the scratchpad bytes `a` to `a + n` − 1 lie there? -/
def State.cmdBytes (s : State) (c : Nat) (m : LsCommand) (a n : Nat) : Bool :=
  match s.cmdGroup c m with
  | some g => decide (128 * g.scratchBase ≤ a) && decide (a + n ≤ 128 * (g.scratchBase + g.scratchCount))
  | none => false

/-! ### Copies (10:R186, R187) -/

/-- A copy in chunks that stay within a line: the address, the offset and the number of bytes of each. -/
def copyChunks : Nat → Nat → Nat → Nat → List (Nat × Nat × Nat)
  | 0, _, _, _ => []
  | n + 1, a, off, left =>
    if left = 0 then []
    else
      let k := min left (128 - a % 128)
      (a, off, k) :: copyChunks n (a + k) (off + k) (left - k)

/-- What translating the chunks of a copy gives. -/
inductive CopyXlat
  | wait
  | ok (pas : List (Nat × Nat × Nat × Bool))
  | bad (pas : List (Nat × Nat × Nat × Bool))

/-- Translate chunks: those before one that cannot be reached are given. -/
def State.copyXlat (s : State) (c ctx : Nat) (write : Bool) : List (Nat × Nat × Nat) → CopyXlat
  | [] => .ok []
  | (a, off, n) :: rest =>
    match s.engXlat c ctx a write with
    | .wait => .wait
    | .bad => .bad []
    | .ok pa ver =>
      if s.awayShut ctx pa then .bad []
      else match State.copyXlat s c ctx write rest with
      | .wait => .wait
      | .ok xs => .ok ((pa, off, n, ver) :: xs)
      | .bad xs => .bad ((pa, off, n, ver) :: xs)

/-- One chunk of LM.G2S, through the core's L1: poison of the line is delivered to the row's pieces. -/
def State.g2sChunk (s : State) (c ctx xs : Nat) (x : Nat × Nat × Nat × Bool) : State :=
  let pa := x.1
  let n := x.2.2.1
  let (bs, bad, s) := ((s.publishFor (some c) [pa / 128]).coreLine c pa ctx false false 0).physRead (some c) pa n
  s.setCore c ((s.core c).putScratch (xs + x.2.1) bs bad)

/-- One chunk of LM.S2G, through the core's L1 and performed at its home; the poison of a row goes with its bytes. The actor id of a scalar core is
free (16 Table 3 gives none). -/
def State.s2gChunk (s : State) (c ctx xs : Nat) (x : Nat × Nat × Nat × Bool) : State :=
  let pa := x.1
  let n := x.2.2.1
  let k := s.core c
  let bs := k.scratch.read (xs + x.2.1) n
  let bad := k.scratchBad (xs + x.2.1) n
  let s := s.coreLine c pa ctx true (n = 128) 0
  if s.expanderLost pa then s
  else if x.2.2.2 then
    let (actor, s) := s.takeFree 22
    (State.verBytes actor 17 s pa bs).1
  else
    let s := if n = 128 then s.clearPoison pa else s
    let s := (s.physWrite pa bs).1
    if bad then s.poisonLine pa else s

/-- Global address and scratchpad address of a copy, checked; none where a condition of 10:R187 is broken. -/
def State.copyOk (s : State) (c : Nat) (k : Scalar) (m : LsCommand) (ga len : Nat) : Bool :=
  len % 4 == 0 && decide (4 ≤ len) && decide (len ≤ 4096) && ga % 4 == 0 && decide (ga < 2 ^ 57) && k.xsa % 4 == 0 &&
  s.cmdBytes c m k.xsa len

/-- The global address of a copy. -/
def Scalar.globalAddr (k : Scalar) (rs1 : Nat) : Nat := wrap ((k.xb.toNat + k.x rs1 : Nat) : Int) 64

/-- LM.G2S and LM.S2G, through the core's TLB. While a page is resolved, or a word is held by a gambit, the instruction waits. -/
def State.lmCopy (s : State) (c : Nat) (storer : Bool) (k : Scalar) (out : Bool) (rs1 rs2 : Nat) : State :=
  let done := fun (s : State) (k : Scalar) => s.setScalarAt c storer (k.advance 4)
  match k.cur with
  | some (m, false) =>
    let ga := k.globalAddr rs1
    let len := k.x rs2
    if !s.copyOk c k m ga len then done s (k.failCur 0xFE)
    else
      let s := (copyChunks 34 ga 0 len).foldl (fun (s : State) y => (s.through c m.ctx y.1).2) s
      let go := fun (s : State) (xs : List (Nat × Nat × Nat × Bool)) (k : Scalar) =>
        let rs := xs.map fun x => (x.1, x.2.2.1)
        let ids := if out then s.neededOf c rs none else []
        let seen := if out then s.settleRanges (some c) rs else []
        if s.reserved (rs ++ seen ++ s.rangesOf ids ++ s.publishRanges (some c) (linesOf rs)) then s
        else
          let s := if out then (s.globalAll c ids).settleSeen (some c) rs else s
          done (xs.foldl (fun (s : State) x => if out then s.s2gChunk c m.ctx k.xsa x else s.g2sChunk c m.ctx k.xsa x) s) k
      match s.copyXlat c m.ctx out (copyChunks 34 ga 0 len) with
      | .wait => s
      | .ok xs => go s xs { k with xsa := (k.xsa + len) % 2 ^ 18 }
      | .bad xs =>
        let (n, s) := s.takeFree 8
        go s (xs.take n) (k.failCur 0xFD)
  | _ => done s k

/-- Is the scalar core waiting for a page in a copy, and for which address of which context? -/
def State.scalarWaits (s : State) (c : Nat) (storer : Bool) : Option (Nat × Nat) :=
  let k := s.scalarAt c storer
  if k.halted then none
  else
    match k.cur with
    | some (m, false) =>
      let find := fun (out : Bool) (rs1 rs2 : Nat) =>
        let ga := k.globalAddr rs1
        if !s.copyOk c k m ga (k.x rs2) then none
        else ((copyChunks 34 ga 0 (k.x rs2)).find? fun y => match s.engXlat c m.ctx y.1 out with
          | .wait => true
          | .bad => false
          | .ok _ _ => false).map fun y => (m.ctx, y.1)
      match rvDecode (k.istore.read k.pc.toNat 4) with
      | .xlm (.lmG2s rs1 rs2) => find false rs1 rs2
      | .xlm (.lmS2g rs1 rs2) => find true rs1 rs2
      | _ => none
    | _ => none

/-- The page that a copy waits for cannot be resolved: the command fails; bytes before the failing line may have been
written. -/
def State.scalarPageFails (s : State) (c : Nat) (storer : Bool) : State :=
  match s.scalarWaits c storer with
  | none => s
  | some _ => s.setScalarAt c storer (((s.scalarAt c storer).failCur 0xFD).advance 4)

/-! ### Xlm -/

/-- LM.TAKE is illegal for this address, or while a command is held. -/
def Scalar.takeIllegal (k : Scalar) (a : Nat) : Bool := a % 32 != 0 || decide (4064 < a) || k.cur.isSome

def execLmTake (rd rs1 : Nat) (s : State) : Host.Outcome State Fault Refusal :=
  s.scalarIssue fun c storer k =>
    let a := k.x rs1
    if k.takeIllegal a then s.scalarHalt c storer
    else
      match k.mailbox with
      | [] => s
      | m :: rest =>
        let stopping := match (s.cluster (clusterOf c)).stop with | some (x, _) => decide (x = m.ctx) | none => false
        if stopping || !m.after_.all s.doneG then s
        else
          let k := { k with mailbox := rest, cur := some (m, false), dstore := k.dstore.write a m.bytes }
          s.setScalarAt c storer ((k.setX rd (m.ticket + m.wslot * 2 ^ 16 + m.gslot * 2 ^ 24)).advance 4)

def execLmMeta (rd : Nat) (s : State) : Host.Outcome State Fault Refusal :=
  s.scalarIssue fun c storer k =>
    let v := match k.cur with
      | some (m, _) => (match s.cmdGroup c m with | some g => g.scratchBase + g.scratchCount * 2 ^ 16 | none => 0)
      | none => 0
    s.setScalarAt c storer ((k.setX rd v).advance 4)

def execLmDone (rd rs1 : Nat) (s : State) : Host.Outcome State Fault Refusal :=
  s.scalarIssue fun c storer k =>
    let k' := match k.cur with
      | none => k.setX rd 2
      | some (_, true) => { k with cur := none }.setX rd 1
      | some (m, false) => { k.retire m (min (bits (k.x rs1) 0 8) 0xEF) with cur := none }.setX rd 0
    s.setScalarAt c storer (k'.advance 4)

def execLmBase (rs1 rs2 : Nat) (s : State) : Host.Outcome State Fault Refusal :=
  s.scalarIssue fun c storer k =>
    s.setScalarAt c storer ({ k with xb := BitVec.ofNat 64 (k.x rs1 + k.x rs2 * 2 ^ 32) }.advance 4)

def execLmSaddr (rs1 : Nat) (s : State) : Host.Outcome State Fault Refusal :=
  s.scalarIssue fun c storer k => s.setScalarAt c storer ({ k with xsa := bits (k.x rs1) 0 18 }.advance 4)

def execLmG2s (rs1 rs2 : Nat) (s : State) : Host.Outcome State Fault Refusal :=
  s.scalarIssue fun c storer k => s.lmCopy c storer k false rs1 rs2

def execLmS2g (rs1 rs2 : Nat) (s : State) : Host.Outcome State Fault Refusal :=
  s.scalarIssue fun c storer k => s.lmCopy c storer k true rs1 rs2

/-- LM.FLAG: rows outside the command's group fail the command. -/
def State.lmFlag (s : State) (c : Nat) (storer : Bool) (k : Scalar) (rs1 rs2 : Nat) (full : Bool) : State :=
  match k.cur with
  | some (m, false) =>
    if s.cmdRows c m (k.x rs1) (k.x rs2) then
      (s.setCore c ((s.core c).setFlags (rangeFrom (k.x rs1) (min (k.x rs2) 2048)) full)).setScalarAt c storer (k.advance 4)
    else s.setScalarAt c storer ((k.failCur 0xFE).advance 4)
  | _ => s.setScalarAt c storer (k.advance 4)

def execLmFlagEmpty (rs1 rs2 : Nat) (s : State) : Host.Outcome State Fault Refusal :=
  s.scalarIssue fun c storer k => s.lmFlag c storer k rs1 rs2 false

def execLmFlagFull (rs1 rs2 : Nat) (s : State) : Host.Outcome State Fault Refusal :=
  s.scalarIssue fun c storer k => s.lmFlag c storer k rs1 rs2 true

/-- LM.WAITF: the core stays at the instruction until the flag has the value. A row outside the command's group is not
read (09:R142): the command fails as for a flag instruction. -/
def State.lmWaitf (s : State) (c : Nat) (storer : Bool) (k : Scalar) (rs1 : Nat) (full : Bool) : State :=
  match k.cur with
  | some (m, false) =>
    if !s.cmdRows c m (k.x rs1) 1 then s.setScalarAt c storer ((k.failCur 0xFE).advance 4)
    else if (s.core c).full (k.x rs1) = full then s.setScalarAt c storer (k.advance 4)
    else s
  | _ => s.setScalarAt c storer (k.advance 4)

def execLmWaitfEmpty (rs1 : Nat) (s : State) : Host.Outcome State Fault Refusal :=
  s.scalarIssue fun c storer k => s.lmWaitf c storer k rs1 false

def execLmWaitfFull (rs1 : Nat) (s : State) : Host.Outcome State Fault Refusal :=
  s.scalarIssue fun c storer k => s.lmWaitf c storer k rs1 true

def execLmTime (rd : Nat) (s : State) : Host.Outcome State Fault Refusal :=
  s.scalarIssue fun c storer k => s.setScalarAt c storer ((k.setX rd (bits s.time.toNat 0 32)).advance 4)

def execLmTimeh (rd : Nat) (s : State) : Host.Outcome State Fault Refusal :=
  s.scalarIssue fun c storer k => s.setScalarAt c storer ((k.setX rd (bits s.time.toNat 32 32)).advance 4)

/-! ### RV32IMC (log entry 14) -/

/-- Two's complement of a signed result. -/
def rvWrap (v : Int) : Nat := wrap v 32

/-- Signed division of RISC-V: by zero −1, the overflow keeps the dividend. -/
def rvDiv (a b : Nat) : Nat := if b = 0 then 2 ^ 32 - 1 else rvWrap (tdiv (sext a 32) (sext b 32))
def rvRem (a b : Nat) : Nat := if b = 0 then a else rvWrap (Int.tmod (sext a 32) (sext b 32))

/-- The result of an instruction that computes: none for the others. -/
def rvAlu (op : RvOp) (a b : Nat) (imm : Int) : Option Nat :=
  let i := wrap imm 32
  let sh := i % 32
  let sb := b % 32
  match op with
  | .addi => some (rvWrap (a + imm))
  | .slti => some (if sext a 32 < imm then 1 else 0)
  | .sltiu => some (if a < i then 1 else 0)
  | .xori => some (a ^^^ i)
  | .ori => some (a ||| i)
  | .andi => some (a &&& i)
  | .slli => some (a <<< sh % 2 ^ 32)
  | .srli => some (a >>> sh)
  | .srai => some (rvWrap (sext a 32 >>> sh))
  | .add => some (rvWrap (a + b : Nat))
  | .sub => some (rvWrap ((a : Int) - b))
  | .sll => some (a <<< sb % 2 ^ 32)
  | .slt => some (if sext a 32 < sext b 32 then 1 else 0)
  | .sltu => some (if a < b then 1 else 0)
  | .xor => some (a ^^^ b)
  | .srl => some (a >>> sb)
  | .sra => some (rvWrap (sext a 32 >>> sb))
  | .or => some (a ||| b)
  | .and => some (a &&& b)
  | .mul => some (rvWrap (a * b : Nat))
  | .mulh => some (rvWrap ((sext a 32 * sext b 32) >>> 32))
  | .mulhsu => some (rvWrap ((sext a 32 * (b : Int)) >>> 32))
  | .mulhu => some (a * b / 2 ^ 32)
  | .div => some (rvDiv a b)
  | .divu => some (if b = 0 then 2 ^ 32 - 1 else a / b)
  | .rem => some (rvRem a b)
  | .remu => some (if b = 0 then a else a % b)
  | .lui => some i
  | _ => none

/-- Is the branch taken? -/
def rvTaken (op : RvOp) (a b : Nat) : Option Bool :=
  match op with
  | .beq => some (decide (a = b))
  | .bne => some (decide (a ≠ b))
  | .blt => some (decide (sext a 32 < sext b 32))
  | .bge => some (decide (sext b 32 ≤ sext a 32))
  | .bltu => some (decide (a < b))
  | .bgeu => some (decide (b ≤ a))
  | _ => none

/-- Bytes of a data access, its direction and extension; none for another instruction. -/
def rvMem (op : RvOp) : Option (Nat × Bool × Bool) :=
  match op with
  | .lb => some (1, false, true)
  | .lh => some (2, false, true)
  | .lw => some (4, false, true)
  | .lbu => some (1, false, false)
  | .lhu => some (2, false, false)
  | .sb => some (1, true, false)
  | .sh => some (2, true, false)
  | .sw => some (4, true, false)
  | _ => none

/-- One ordinary instruction: the next registers, or none for a trap. -/
def Scalar.rv (k : Scalar) (i : RvInstr) : Option Scalar :=
  let a := k.x i.rs1
  let b := k.x i.rs2
  let next := k.advance i.len
  let target := fun (base : Nat) => BitVec.ofNat 32 (rvWrap (base + i.imm))
  match rvAlu i.op a b i.imm, rvTaken i.op a b, rvMem i.op with
  | some v, _, _ => some (next.setX i.rd v)
  | none, some t, _ => some (if t then { k with pc := target k.pc.toNat } else next)
  | none, none, some (n, store, sx) =>
    let at_ := rvWrap (a + i.imm)
    if at_ + n > dstoreSize then none
    else if store then some { next with dstore := k.dstore.write at_ (toBytes b n) }
    else
      let v := ofBytes (k.dstore.read at_ n)
      some (next.setX i.rd (if sx then rvWrap (sext v (8 * n)) else v))
  | none, none, none =>
    match i.op with
    | .auipc => some (next.setX i.rd (target k.pc.toNat).toNat)
    | .jal => some ({ k with pc := target k.pc.toNat }.setX i.rd next.pc.toNat)
    | .jalr => some ({ k with pc := target a &&& 0xFFFFFFFE }.setX i.rd next.pc.toNat)
    | .fence => some next
    | _ => none

/-- ECALL, EBREAK and a data access beyond the data store trap. -/
def execRv32imcInstruction (i : RvInstr) (s : State) : Host.Outcome State Fault Refusal :=
  s.scalarIssue fun c storer k =>
    match k.rv i with
    | some k => s.setScalarAt c storer k
    | none => s.scalarHalt c storer

/-! ### Fetch, traps and program loads -/

/-- What the scalar core fetches: an odd pc or one beyond the store is no instruction. -/
def Scalar.fetch (k : Scalar) : RvFetch :=
  let pc := k.pc.toNat
  if pc % 2 = 1 || pc + 2 > istoreSize then .illegal else rvDecode (k.istore.read pc 4)

/-- Does the instruction at the pc trap? -/
def Scalar.traps (k : Scalar) : Bool :=
  match k.fetch with
  | .illegal => true
  | .rv i => (k.rv i).isNone
  | .xlm i => (match i with | .lmTake _ rs1 => k.takeIllegal (k.x rs1) | _ => false)

/-- An RV32 trap of a scalar core whose instruction raises one. -/
def execScalarCoreTrap (core : Nat) (storer : Bool) (s : State) : Host.Outcome State Fault Refusal :=
  .next <|
    let k := s.scalarAt core storer
    if k.halted || !k.traps then s else s.scalarHalt core storer

/-- The slice core loads a context's program: it starts at address 0 of the store. x1 to x31, the data store and a command
already taken stay as they were (log entry 14). -/
def execScalarCoreProgramLoad (core : Nat) (storer : Bool) (_ctx : Nat) (program : List Byte) (s : State) :
    Host.Outcome State Fault Refusal :=
  .next <|
    if core ≥ 640 || program.length > istoreSize then s
    else
      let k := s.scalarAt core storer
      s.setScalarAt core storer
        { k with istore := Memory.write [] 0 program, pc := 0, xb := 0, xsa := 0, halted := false }

end Sys2Proof.Machine
end

