-- ==== Sys2Proof/Machine/Events.lean ====
section
/-! DEFINITION. The events of the core, the spill engine, the lanes, the homes and the walkers (05:R80, R85, R89 to R92; 09:R146,
R148; 11:R194, R196, R374; 16:R242 to R245, R256, R258; 18:R282, R284). An event that is not enabled changes nothing (log
entry 3). -/

namespace Sys2Proof.Machine

/-! ### Results -/

/-- Is the warp in the save area of a cluster? Its results land after it is restored. -/
def State.isSaved (s : State) (core uid : Nat) : Bool :=
  (s.cluster (clusterOf core)).saved.any fun v => v.warps.any fun w => decide (w.2.2.uid = uid)

/-- May the result land? -/
def State.mayLand (s : State) (r : Result) (isDiv : Bool) : Bool :=
  r.ready && r.isDiv == isDiv && !r.faulted && !s.isSaved r.core r.uid

/-- RESULT_ARRIVAL. -/
def execResultArrival (id : Nat) (s : State) : Host.Outcome State Fault Refusal :=
  .next <|
    match s.results.get? id with
    | none => s
    | some r => if s.mayLand r false then s.landResult id else s

/-- DIV_RESULT: the results of one instruction land in ascending thread index (06:R106). -/
def execDivResult (id : Nat) (s : State) : Host.Outcome State Fault Refusal :=
  .next <|
    match s.results.get? id with
    | none => s
    | some r =>
      let earlier := s.results.any fun e => decide (e.1 < id) && decide (e.2.batch = r.batch)
      if s.mayLand r true && !earlier then s.landResult id else s

/-! ### The spill engine (05:R85, R89 to R92) -/

/-- SPILL_CLAIM: the rows are claimed once no producer of them pends and their private words can be written. A thread that
stood before its instruction for a page goes on once the page is present. -/
def execSpillClaim (core slot thread : Nat) (s : State) : Host.Outcome State Fault Refusal :=
  .next <|
    match s.warp? core slot with
    | none => s
    | some wp =>
      match wp.thread? thread with
      | none => s
      | some th =>
        match th.twait with
        | .spill lo from_ to_ ws _ =>
          if (s.spillMissing wp core thread th to_).isNone && s.claimReady core slot wp.uid thread th.lo lo from_ to_ wp.win then
            s.claim core slot thread lo from_ to_ ws
          else s
        | .page va _ _ =>
          if s.absent core wp.ctx va then s else s.setWarp core slot (wp.setThread thread { th with twait := .none })
        | .none => s
        | .link => s

/-- FRAME_REFILL: the highest row that a return left to be refilled arrives from its private word, with its poison. -/
def execFrameRefill (core slot thread : Nat) (poisoned : Bool) (s : State) : Host.Outcome State Fault Refusal :=
  .next <|
    match s.warp? core slot with
    | none => s
    | some wp =>
      match wp.thread? thread with
      | none => s
      | some th =>
        match th.refill with
        | [] => s
        | j :: rest =>
          let va := wp.privAddr thread (wp.spillWord j)
          match s.publishAt core wp.ctx va 4 with
          | none => s
          | some u =>
            match u.plainRead core wp.ctx va 4 with
            | (.ok bs, u) =>
              if poisoned then s
              else u.setWarp core slot (wp.setThread thread { th.setCell j (Cell.of (ofBytes bs)) with refill := rest })
            | (.poison, u) =>
              if !poisoned then s
              else u.setWarp core slot (wp.setThread thread { th.setCell j ⟨(th.cell j).val, true, .fill⟩ with refill := rest })
            | (.wait, _) => s
            | (.deny _, _) => s

/-- LINK_RECORD_REFILL: up to four records return, and the thread that waited for one goes on. -/
def execLinkRecordRefill (core slot thread : Nat) (s : State) : Host.Outcome State Fault Refusal :=
  .next <|
    match s.warp? core slot with
    | none => s
    | some wp =>
      match wp.thread? thread with
      | none => s
      | some th =>
        if th.twait = .link then
          let n := th.link.length - th.linkRes
          let s := (List.range (min n (4 - th.linkRes))).foldl (fun (s : State) i =>
            s.areaLines core wp (0x4000 + 512 * (n - 1 - i) + 16 * thread) 16 false) s
          s.setWarp core slot (wp.setThread thread { th with twait := .none, linkRes := min 4 th.link.length })
        else s

/-- UNIFORM_COPY_RETURN: a copy that an instruction needs returns; with four resident already, the resident copy of the
highest index that it does not need makes room. -/
def execUniformCopyReturn (core slot copy : Nat) (s : State) : Host.Outcome State Fault Refusal :=
  .next <|
    match s.warp? core slot with
    | none => s
    | some wp =>
      match wp.copies.get? copy with
      | none => s
      | some c =>
        if c.resident || !wp.copiesNeeded.contains copy then s
        else
          let res := wp.copies.filter fun e => e.2.resident
          let cs := if res.length < 4 then wp.copies else
            match (res.filter fun e => !wp.copiesNeeded.contains e.1).getLast? with
            | some e => wp.copies.set e.1 { e.2 with resident := false }
            | none => wp.copies
          let s := s.areaLines core wp (512 * copy) 264 false
          (s.setWarp core slot { wp with copies := cs.set copy { c with resident := true } }).spillArea core slot

/-! ### Lanes (09:R146) -/

/-- May the warp be chosen: it is ready, its context runs, and its cluster neither stops it nor waits for a gang? -/
def State.mayIssue (s : State) (core : Nat) (wp : Warp) : Bool :=
  let cl := s.cluster (clusterOf core)
  wp.ready && s.runnable wp.ctx && !cl.stopping wp.ctx && cl.gangWait.isNone

/-- Is warp `a` chosen before `b`: an older stamp, then the higher priority, then the lower slot? -/
def State.older (s : State) (now : Word) (a b : Nat × Warp) : Bool :=
  let age := fun (w : Warp) => (now + 1 - w.stamp).toNat
  if age a.2 ≠ age b.2 then decide (age b.2 < age a.2)
  else if s.prioOf a.2.ctx ≠ s.prioOf b.2.ctx then decide (s.prioOf b.2.ctx < s.prioOf a.2.ctx)
  else decide (a.1 < b.1)

/-- The first of some warps in that order. -/
def State.oldest (s : State) (now : Word) : List (Nat × Warp) → Option (Nat × Warp)
  | [] => none
  | x :: xs =>
    match State.oldest s now xs with
    | none => some x
    | some y => if s.older now x y then some x else some y

/-- LANE_ARBITRATION: at a run boundary the lane takes the ready warp with the oldest stamp. -/
def execLaneArbitration (core lane : Nat) (s : State) : Host.Outcome State Fault Refusal :=
  .next <|
    let k := s.core core
    if lane ≥ 32 || (k.laneRun.get? lane).isSome then s
    else
      let ws := (List.range 8).filterMap fun i =>
        match s.warp? core (lane + 32 * i) with
        | some wp => if s.mayIssue core wp then some (lane + 32 * i, wp) else none
        | none => none
      match s.oldest (k.laneAc.getD lane 0) ws with
      | none => s
      | some (slot, wp) => (s.setCore core { k with laneRun := k.laneRun.set lane slot }).setWarp core slot { wp with run := 0 }

/-! ### Yield causes clear (09:R146, Table 2) -/

/-- Has the wait of a warp ended, and what is written to the threads that wait? None while it goes on. -/
def State.waitOver (s : State) (c slot : Nat) (wp : Warp) : Option (List (Waiter × Nat)) :=
  let yes := some ([] : List (Waiter × Nat))
  let g := s.groupOf c wp
  match wp.wait with
  | .none => none
  | .regs needs =>
    if needs.all fun n => match wp.thread? n.1 with
      | some th => !th.alive || ((th.cell n.2).full && !s.rowPending c slot wp.uid n.1 n.2)
      | none => true
    then yes else none
  | .rows seen => if seen.any fun r => (s.core c).full r.1 != r.2 then yes else none
  | .engine => yes
  | .spill => if wp.threads.any Thread.runs && wp.copiesReady then yes else none
  | .results ids => if ids.all fun i => match s.results.get? i with | some r => r.faulted | none => true then yes else none
  | .sleep _ => none
  | .barrier _ _ => none
  | .pbar => none
  | .mxwait mask ws => if g.slotsIdle mask then some (ws.map fun w => (w, g.slotErrors mask)) else none
  | .cpyw _ => none
  | .pwait _ _ out ws => out.map fun v => ws.map fun w => (w, v)
  | .lswait _ _ out ws => out.map fun st => ws.map fun w => (w, st)
  | .page va fetch => if if fetch then s.nothingAt c wp.ctx va else s.absent c wp.ctx va then none else yes
  | .mailbox storer => if (s.scalarAt c storer).mailbox.length < mailboxSize then yes else none
  | .oplog => yes
  | .ordered tr loc glob =>
    let t := tr.all fun i => match s.acc.get? i with | some a => !a.pas.isEmpty | none => true
    if t && loc.all s.doneL && glob.all s.doneG then yes else none
  | .stopping child ws => if s.allSaved child then some (ws.map fun w => (w, 0)) else none

/-- WARP_READY: the yield cause clears, and the ready stamp is set for the ac after. A CPYW that was not late ends here
too. -/
def execWarpReady (core slot : Nat) (s : State) : Host.Outcome State Fault Refusal :=
  .next <|
    match s.warp? core slot with
    | none => s
    | some wp =>
      match wp.wait with
      | .cpyw ws =>
        if s.cpywReady core slot wp ws && ws.all (fun w => (s.cpywStatus wp.ctx w.2).isSome) then s.cpywEnds core slot ws else s
      | _ =>
        match s.waitOver core slot wp with
        | none => s
        | some outs =>
          let s := outs.foldl (fun (s : State) x => s.landWaiter core slot x.1 [BitVec.ofNat 32 x.2]) s
          s.modWarp core slot fun w => { w with wait := .none, waitOp := 0, stamp := s.laneNow core slot + 1 }

/-- SLEEP_EXPIRY (07:R136). -/
def execSleepExpiry (core slot : Nat) (s : State) : Host.Outcome State Fault Refusal :=
  .next <|
    match s.warp? core slot with
    | none => s
    | some wp =>
      match wp.wait with
      | .sleep t =>
        if t ≤ s.time then s.setWarp core slot { wp with wait := .none, waitOp := 0, stamp := s.laneNow core slot + 1 } else s
      | _ => s

/-- WAITV_TIMEOUT: a sleeper's timeout has passed; its outcome is 2 (10:R178). -/
def execWaitvTimeout (id : Nat) (s : State) : Host.Outcome State Fault Refusal :=
  .next <|
    match s.sleepers.find? fun x => decide (x.access = id), s.acc.get? id with
    | some x, some a =>
      if x.until_ ≤ s.time then
        { s.give a.result (toWords 2 1) with
          acc := s.acc.del id, sleepers := s.sleepers.filter fun y => decide (y.access ≠ id) }
      else s
    | _, _ => s

/-! ### Homes (16:R242 to R245, R256; 18:R282, R284) -/

/-- L2_PORT_GRANT: the request chosen is performed. -/
def execL2PortGrant (slice : Nat) (s : State) : Host.Outcome State Fault Refusal :=
  .next <|
    match s.portPick slice with
    | none => s
    | some id => s.perform id

/-- HOME_ACCESS: the next stage of an access; one that needs a port takes place when it grants it. Of the requests covered
by tokens the one that has arrived first is served, and which that is nothing orders (18:R287, log entry 75). -/
def execHomeAccess (id : Nat) (s : State) : Host.Outcome State Fault Refusal :=
  .next <|
    match s.acc.get? id with
    | none => s
    | some a =>
      match s.portOf a with
      | none => s.perform id
      | some j => if s.portGrants j a.ctx a.cost then s.perform id else s

/-- Room for a note in the set of a line in its home's directory: of eight entries one at least has none (16:R244), so the
eighth note waits until another has been published. -/
def State.roomNote (s : State) (line : Nat) : State :=
  let noted := (s.dirOthers line).filter fun e => e.2.note.isSome
  match noted.getLast? with
  | some e => if noted.length < 7 then s else s.publishLine e.1
  | none => s

/-- A note of a release of a core comes to a line of its home's directory, where it takes an entry. A note of another core that
stands there is published first; it does not come while that, or the room it needs, waits. -/
def State.noteAt (s : State) (core tag line : Nat) : State :=
  let s := match (s.dir.get? line).bind (·.note) with
    | some (c, _) => if c = core then s else s.publishLine line
    | none => s.roomNote line
  match (s.dir.get? line).bind (·.note) with
  | some (c, _) => if c = core then { s with dir := s.dir.set line { s.dir.getD line ⟨[], none, none⟩ with note := some (core, tag) } } else s
  | none =>
    if ((s.dirOthers line).filter fun e => e.2.note.isSome).length ≥ 7 then s
    else
      let s := if s.dir.has line then s else s.roomDir line
      { s with dir := s.dir.set line { s.dir.getD line ⟨[], none, none⟩ with note := some (core, tag) } }

/-- HOLDER_NOTE: the note of a synchronizing store's release arrives at the home of its line; one in the scratchpad has no
home. -/
def execHolderNote (id : Nat) (s : State) : Host.Outcome State Fault Refusal :=
  .next <|
    match s.acc.get? id with
    | none => s
    | some a =>
      match a.loc, (s.core a.core).tagOf id with
      | some _, some tag => if a.kind = .sts then s else (linesOf a.ranges).foldl (fun (s : State) l => s.noteAt a.core tag l) s
      | _, _ => s

/-- FORCED_PUBLISH. -/
def execForcedPublish (line : Nat) (s : State) : Host.Outcome State Fault Refusal := .next (s.publishLine line)

/-- DIRECTORY_RECALL: the line leaves every L1, and its entry is free; what its note names is published first. -/
def execDirectoryRecall (line : Nat) (s : State) : Host.Outcome State Fault Refusal :=
  .next <|
    if (s.dir.get? line).isNone then s
    else
      let s := (s.publishLine line).recallLine line
      match (s.dir.get? line).bind (·.note) with
      | none => { s with dir := s.dir.del line }
      | some _ => s

/-! ### Pages (11:R194, R196, R374; 16:R258) -/

/-- TABLE_WALK. -/
def execTableWalk (id : Nat) (s : State) : Host.Outcome State Fault Refusal := .next (s.walkAccess id)

/-- WBLK_WRITE_RELEASE: a write that waited at a write-blocked page is translated again, now to the new frame (23:R347). -/
def execWblkWriteRelease (id : Nat) (s : State) : Host.Outcome State Fault Refusal :=
  .next <|
    match s.acc.get? id with
    | none => s
    | some a => if a.wblk then s.walkAccess id else s

/-- A private word that a thread's claim or refill waits for, with the rows. -/
def State.spillWaits (s : State) (c : Nat) (wp : Warp) (t : Nat) (th : Thread) : Bool :=
  match th.twait with
  | .spill _ _ to_ _ _ => (s.spillMissing wp c t th to_).isSome
  | .page va _ _ => s.absent c wp.ctx va
  | .none => (match th.refill with
    | j :: _ => th.alive && (match s.plainRead c wp.ctx (wp.privAddr t (wp.spillWord j)) 4 with
      | (.wait, _) => true
      | (.deny _, _) => true
      | (.ok _, _) => false
      | (.poison, _) => false)
    | [] => false)
  | .link => false

/-- The lines that a copy moves next, and its record. -/
def State.copyWaits (s : State) (d e : Nat) : Option (Nat × Nat) :=
  match (s.copyEngine d e).queue with
  | [] => none
  | c :: _ =>
    let k := 4 * c.cluster
    if !c.started && !c.after_.all s.doneG then none
    else
      match c.status with
      | some _ => if s.absent k c.ctx c.crec then some (c.ctx, c.crec) else none
      | none =>
        let src := c.src + 128 * c.moved
        let dst := c.dst + 128 * c.moved
        if c.ssp = 0 && s.absent k c.ctx src then some (c.ctx, src)
        else if c.dsp = 0 && s.absent k c.ctx dst then some (c.ctx, dst)
        else none

/-- The page that a collective waits for. -/
def State.collWaits (s : State) (k : Coll) : Option Nat :=
  let core := 4 * k.cluster
  if k.saved || !k.after_.all s.doneG then none
  else
    match k.status with
    | some _ => if s.absent core k.ctx k.crec then some k.crec else none
    | none =>
      let dst := k.dst + 128 * min k.moved (k.total (s.members k) - 1)
      if s.absent core k.ctx dst then some dst else ((s.collNext k).map (·.1)).find? fun va => s.absent core k.ctx va

/-- The lines that an engine operation still has to read or write and whose page is absent. -/
def State.opWaits (s : State) (o : EngOp) : Option Nat :=
  if !o.started then none else
  match (o.wanted.filter fun l => decide (l < 2 ^ 60) && !o.fetched.has l).find? fun l => s.absent o.core o.ctx (128 * l) with
  | some l => some (128 * l)
  | none =>
    match o.kind with
    | .mxst _ ea _ => let a := ea + 128 * o.next
      if s.absent o.core o.ctx a then some a else none
    | _ => none

/-- The context of whatever waits for a page: none where nothing waits. -/
def State.pageContext (s : State) : WaitRef → Option Nat
  | .access id => match s.acc.get? id with | some a => if a.pas.isEmpty then some a.ctx else none | none => none
  | .warp c w =>
    match s.warp? c w with
    | none => none
    | some wp =>
      match wp.wait with
      | .page _ _ => some wp.ctx
      | _ => if (List.range wp.threads.length).any fun t => match wp.thread? t with
          | some th => s.spillWaits c wp t th
          | none => false
        then some wp.ctx else none
  | .op k id => match (s.cluster k).ops.get? id with | some o => if (s.opWaits o).isSome then some o.ctx else none | none => none
  | .copy d e => (s.copyWaits d e).map (·.1)
  | .scalar c st => (s.scalarWaits c st).map (·.1)
  | .coll id => match s.colls.get? id with | some k => if (s.collWaits k).isSome then some k.ctx else none | none => none
  | .queue q => match s.queues.get? q with | some d => if s.queueWaits q d then some d.ctx else none | none => none
  | .card k e => match (s.cluster k).phxs.get? e with | some p => if s.castleWaits k p then some p.ctx else none | none => none
  | .launch id => match s.launches.get? id with | some l => if s.launchWaits id l then some l.ctx else none | none => none

/-- PAGE_RESOLVED: the page becomes present. An access that waited in the operand log is replayed with its logged
sources; every other agent goes on by itself. -/
def execPageResolved (w : WaitRef) (page : PageIn) (s : State) : Host.Outcome State Fault Refusal :=
  .next <|
    match s.pageContext w with
    | none => s
    | some ctx =>
      let s := s.pageIn ctx page
      match w with
      | .access id => s.walkAccess id
      | _ => s

/-- A page for which a warp waited proves unresolvable: of the instruction's own words, every executing thread takes FETCH
(03:R52); else the warp issues its instruction again, and those that need the page take their fault then (11:R374,
05:R90). -/
def State.pageRefused (s : State) (c slot : Nat) (wp : Warp) (va : Nat) (fetch : Bool) : State :=
  let wp := { wp with wait := .none, waitOp := 0, stamp := s.laneNow c slot + 1 }
  if !fetch then s.setWarp c slot { wp with refused := va :: wp.refused }
  else
    let site : Site := ⟨wp.issuePc.getD 0, 4, 0, 0, 0, 3⟩
    let s := wp.executing.foldl (fun (s : State) t =>
      match (s.warp? c slot).bind (·.thread? t) with
      | none => s
      | some th => s.takeFault c slot (site.record ⟨t, fFetch, 1, va⟩ false none slot th.depth) th.pc site.len) (s.setWarp c slot wp)
    (s.modWarp c slot fun w => w.fork wp.executing).afterMove c slot wp.executing

/-- The thread as it was before its CALL, CALLI or FRAME. -/
def Thread.undone (th : Thread) (u : Undo) : Thread :=
  { th with pc := u.pc, fp := u.fp, s := u.s, depth := u.depth, link := u.link, linkRes := u.linkRes, twait := .none, held := false }

/-- A thread takes FRAME_SPILL, subcode PAGE, at its CALL, CALLI or FRAME (05:R90). -/
def State.spillFault (s : State) (c slot t va len op : Nat) : State :=
  match (s.warp? c slot).bind (·.thread? t) with
  | none => s
  | some th =>
    let site : Site := ⟨th.pc, len, op, 0, 0, 3⟩
    let free := s.unspilled c slot
    let s := s.splitOff c slot t
    let s := s.takeFault c slot (site.record ⟨t, fFrameSpill, 2, va⟩ false none slot th.depth) th.pc len
    ((s.afterMove c slot [t]).reissue c slot).breakRun c slot (t :: free)

/-- The entry of a user interrupt that fails leaves its vector pending, unless another has come meanwhile: `writes` are the
code, the vector and the raiser that the entry was to receive (21:R325). -/
def State.pendAgain (s : State) (c : Nat) (wp : Warp) (writes : List Word) : State :=
  let g := s.groupOf c wp
  let v := (writes.getD 1 0).toNat
  if bit g.uipend.toNat v then s
  else s.setGroup c wp.gslot { g with
    uipend := g.uipend ||| BitVec.ofNat 32 (2 ^ v), uicode := g.uicode.set v (writes.getD 0 0, (writes.getD 4 0).toNat) }

/-- A claim or refill of the spill engine meets a page that cannot be resolved (05:R90, R91). At a CALL, CALLI or FRAME the
thread takes FRAME_SPILL, subcode PAGE, with its FP, S, DEPTH, link stack and PC unchanged. A handler's entry fails: it is
reflected, the record of the fault first, then FRAME_SPILL; an interrupt's entry is reflected with FRAME_SPILL, and its vector
stays pending (21:R325). A row to be refilled arrives poisoned. -/
def State.spillFails (s : State) (c slot : Nat) (wp : Warp) (t : Nat) (th : Thread) : State :=
  match th.twait, th.refill with
  | .none, j :: rest => s.setWarp c slot (wp.setThread t { th.setCell j ⟨(th.cell j).val, true, .fill⟩ with refill := rest })
  | .page va len op, _ => (s.setWarp c slot (wp.setThread t { th with twait := .none })).spillFault c slot t va len op
  | .spill _ _ to_ _ (some u), _ =>
    let va := (s.spillMissing wp c t th to_).getD 0
    (s.setWarp c slot (wp.setThread t (th.undone u))).spillFault c slot t va u.len u.op
  | .spill _ _ to_ writes none, _ =>
    let va := (s.spillMissing wp c t th to_).getD 0
    let isIrq := decide (wp.irq = some (t, th.depth))
    let s := if isIrq then s.pendAgain c wp writes else s
    let free := s.unspilled c slot
    let spill := fun (r : FaultRecord) => { r with code := fFrameSpill, sub := 2, addr := BitVec.ofNat 64 va, handle := 0, size := 0, dir := 3 }
    let site : Site := ⟨th.pc, 0, 0, 0, 0, 3⟩
    let recs := match th.trap, isIrq with
      | some e, false => [e.record, spill e.record]
      | _, _ => [spill (site.record ⟨t, fFrameSpill, 2, va⟩ false none slot th.depth)]
    ((s.reflect c slot t wp.ctx recs).afterMove c slot [t]).breakRun c slot free
  | _, _ => s

/-- LATE_FAULT: a verdict of unresolvable reaches what waits for a page. -/
def execLateFault (w : WaitRef) (s : State) : Host.Outcome State Fault Refusal :=
  .next <|
    match s.pageContext w with
    | none => s
    | some ctx =>
      match w with
      | .access id =>
        (match s.acc.get? id with
         | none => s
         | some a =>
           match a.vas.find? fun va => s.absent a.core ctx va with
           | some va => s.lateFault id a fTranslation 1 va
           | none => s)
      | .warp c slot =>
        (match s.warp? c slot with
         | none => s
         | some wp =>
           match wp.wait with
           | .page va fetch => if if fetch then s.nothingAt c ctx va else s.absent c ctx va then s.pageRefused c slot wp va fetch else s
           | _ =>
             match (List.range wp.threads.length).find? fun t => match wp.thread? t with
               | some th => s.spillWaits c wp t th
               | none => false with
             | some t => (match wp.thread? t with | some th => s.spillFails c slot wp t th | none => s)
             | none => s)
      | .op k id => s.opEnd k id (some 6)
      | .copy d e => (match (s.copyEngine d e).queue with
        | c :: _ => (match c.status with
          | none => s.copyEnds d e c 6
          | some st => (s.copyEnds d e { c with crec := 0 } st).post 8 c.ctx (copyHandle c.seq e d) none)
        | [] => s)
      | .scalar c st => s.scalarPageFails c st
      | .coll id => (match s.colls.get? id with
        | some k => (match k.status with
          | none => s.collEnds id k 6
          | some st => (s.collEnds id { k with crec := 0 } st).post 8 k.ctx k.handle.toNat none)
        | none => s)
      | .queue q => s.cardLate q
      | .card k e => (match (s.cluster k).phxs.get? e with
        | some ph => (match s.launches.get? ph.launch with
          | some old =>
            let x := match s.readCard? ph old with | .ok bs _ => some (ofBytes bs) | .wait => none | .bad => none
            s.castleRejected k e ph old 2 x true
          | none => s)
        | none => s)
      | .launch id => (match s.launches.get? id with
        | some l => s.completeLaunch id l true
        | none => s)

end Sys2Proof.Machine
end

