-- ==== Sys2Proof/Machine/Fabric.lean ====
section
/-! DEFINITION. What reaches the package from outside through the H-die (chapter 23): the host's doorbells, BARs and
registers, trusted interfaces, the second tier, Ethernet ingest and Emaris peers. -/

namespace Sys2Proof.Machine

/-! ### Host ports (23:R336, R337; 24:R360, R361) -/

/-- Are the host ports enabled: stage 6 is reached? -/
def State.hostOpen (s : State) : Bool := decide (s.hdie.bootst = 6)

/-- Does BAR0 answer: at stage 6, in RECOVERY, after a trip? -/
def State.bar0Open (s : State) : Bool := s.hostOpen || decide (0xE1 ≤ s.hdie.bootst)

/-- A request of the host that the device does not perform now: with BAR0 alone exposed it is answered Unsupported Request;
a port that is not enabled answers nothing. -/
def State.notOpen (s : State) : State := if 0xE1 ≤ s.hdie.bootst then s.send .unsupported else s

/-- The context bound to VF `n`, while its TDI is locked or runs. -/
def State.boundCtx (s : State) (n : Nat) : Option Nat :=
  match s.hdie.tdis.get? n with
  | none => none
  | some t => if (t.state = 1 || t.state = 2) && !t.scrubbing && decide (t.bind_ ≠ 0) then some t.bind_ else none

/-- Does the function reach the doorbell page of queue `q`? The PF reaches all; a VF those of its context's subtree. -/
def State.ownsPage (s : State) (fn : HostFn) (q : Nat) : Bool :=
  match fn with
  | .pf => decide (q < 4096)
  | .vf n =>
    match s.boundCtx n, s.queues.get? q with
    | some x, some d => d.v && s.descends x d.ctx
    | _, _ => false

/-- TAIL moves, and the cards up to it arrive as the host's (23:R338); past HEAD − 1 it does not move. -/
def State.ringDoorbell (s : State) (q : Nat) (d : Queue) (value : Nat) : State :=
  let t := value % d.size
  let n := (t + d.size - d.tail) % d.size
  if d.free < n then s.count cDoorbellBad 1
  else
    let new := (List.range n).map fun i => (d.tail + i) % d.size
    { s with queues := s.queues.set q { d with tail := t, host := d.host.filter (fun i => !new.contains i) ++ new } }

/-- Does the PASID prefix of a doorbell write differ from the queue's, or is one missing that is needed? -/
def badPasid (pasid : Option Nat) (d : Queue) : Bool :=
  match pasid with
  | some p => decide (p ≠ d.pasid)
  | none => decide (d.pasid ≠ 0)

/-- What a doorbell read returns: HEAD and TAIL (23:R338). -/
def State.doorbellValue (s : State) (q : Nat) : Nat :=
  match s.queues.get? q with
  | some d => d.head + d.tail * 2 ^ 16
  | none => 0

/-- An access to a doorbell: a write or, without a value, a read. -/
def State.doorbell (s : State) (fn : HostFn) (pasid : Option Nat) (queue : Nat) (value : Option Word) : State :=
  if !s.hostOpen then s.notOpen
  else if !s.ownsPage fn queue then s.send .unsupported
  else
    match value, s.queues.get? queue with
    | none, _ => s.send (.readData (toBytes (s.doorbellValue queue) 4))
    | some _, none => s
    | some v, some d =>
      if !d.v then s
      else if badPasid pasid d then s.count cDoorbellBad 1
      else s.ringDoorbell queue d v.toNat

/-- DOORBELL_WRITE. -/
def execDoorbellWrite (fn : HostFn) (pasid : Option Nat) (queue : Nat) (value : Option Word) (s : State) :
    Host.Outcome State Fault Refusal :=
  .next (s.doorbell fn pasid queue value)

/-! ### BAR2 (23:R337; 17:R274) -/

/-- What an address of a BAR2 request reaches. -/
inductive HostXlat
  | bad
  | wait
  | ok (ctx pa : Nat) (ver : Bool)
deriving DecidableEq, Repr

/-- Does some leaf map the physical address as versioned data? -/
def State.anyVerPage (s : State) (pa : Nat) : Bool :=
  s.ctxs.any fun c => c.2.leaves.any fun f => f.v && f.ver && decide (f.pa ≤ pa) && decide (pa < f.pa + f.size)

/-- A request of `n` bytes: the PF's addresses are physical, memory that no translation maps being none (16:R246; log entry
109), a VF's virtual in its bound context. -/
def State.hostXlat (s : State) (fn : HostFn) (addr n : Nat) (rd wr : Bool) : HostXlat :=
  match fn with
  | .pf =>
    if addr + n ≤ 2 ^ 40 && regionOf addr = .ram && regionOf (addr + n - 1) = .ram && !s.hidden addr n then
      (if s.portOpen addr 0 then .ok 0 addr (s.anyVerPage addr) else .wait)
    else .bad
  | .vf i =>
    match s.boundCtx i with
    | none => .bad
    | some x =>
      if addr + n > 2 ^ 36 then .bad
      else
        match s.walk x addr with
        | none => .bad
        | some e =>
          if (rd && !e.r) || (wr && !e.w) then .bad
          else if wr && s.blocked x addr then .wait
          else
            match s.finalPa (e.trans addr) with
            | none => .bad
            | some pa =>
              if regionOf pa = .hole || regionOf pa = .registers then .bad else if s.portOpen pa x then .ok x pa e.ver else .wait

/-- The walk that a VF's request needs reads table entries (16:R258). -/
def State.hostWalk (s : State) (fn : HostFn) (addr : Nat) : State :=
  match fn with
  | .pf => s
  | .vf i => match s.boundCtx i with | some x => s.readTables x addr | none => s

/-- Is a request one that PCIe allows: bytes within one 4 KiB page? -/
def requestOk (addr n : Nat) : Bool := decide (n ≠ 0) && decide (addr % 4096 + n ≤ 4096)

/-- Bytes at a physical address, cut at line boundaries. -/
def lineParts : Nat → Nat → List Byte → List (Nat × List Byte)
  | 0, _, _ => []
  | n + 1, pa, bs =>
    if bs.isEmpty then []
    else
      let k := 128 - pa % 128
      (pa, bs.take k) :: lineParts n (pa + k) (bs.drop k)

/-- Bytes within one page are written at their homes for an agent of the H-die, after what other agents have seen there; on a
VER page as versioned stores with token 0. The flag: a word was refused, or the bytes were lost with their expander or
peer. -/
def State.homeWrite (s : State) (ctx actor pa : Nat) (ver : Bool) (bs : List Byte) : State × Bool :=
  let parts := lineParts 33 pa bs
  let s := parts.foldl (fun (s : State) x => (s.recallLine (x.1 / 128)).touchHome x.1 ctx x.2.length true)
    (s.settleSeen none [(pa, bs.length)])
  if ver && s.expanderLost pa then (s, true)
  else if ver then State.verBytes actor 514 s pa bs
  else
    parts.foldl (fun (acc : State × Bool) x =>
      (let s := if x.2.length = 128 then acc.1.clearPoison x.1 else acc.1
       let (s, lost) := s.physWrite x.1 x.2
       (s, acc.2 || lost))) (s, false)

/-- Bytes within one page are read at their homes for an agent of the H-die, after the publishes this forces. -/
def State.homeFetch (s : State) (ctx pa n : Nat) : List Byte × Bool × State :=
  let s := s.publishFor none (linesOf [(pa, n)])
  let s := (lineParts 33 pa (List.replicate n 0)).foldl (fun (s : State) x => s.touchHome x.1 ctx x.2.length false) s
  s.physRead none pa n

/-- Must a write of the H-die wait for a word that a commit holds? -/
def State.writeHeld (s : State) (pa n : Nat) : Bool := s.reserved (s.settleRanges none [(pa, n)])

/-- Must a read, or an access that reads and writes? -/
def State.homeHeld (s : State) (pa n : Nat) : Bool :=
  s.writeHeld pa n || s.reserved (s.publishRanges none (linesOf [(pa, n)]))

/-- The actor ids of the H-die's agents (16 Table 3, 17:R274). -/
def hostActor : Nat := 2 ^ 20 + 257
def ingestActor : Nat := 2 ^ 20 + 258

/-- HOST_BAR2_WRITE. -/
def execHostBar2Write (fn : HostFn) (addr : Nat) (data : List Byte) (s : State) : Host.Outcome State Fault Refusal :=
  .next <|
    if !s.hostOpen then s.notOpen
    else if !requestOk addr data.length then s
    else
      match s.hostXlat fn addr data.length false true with
      | .bad => s.send .unsupported
      | .wait => s
      | .ok ctx pa ver =>
        if s.writeHeld pa data.length then s
        else
          let (s, refused) := (s.hostWalk fn addr).homeWrite ctx hostActor pa ver data
          if ver && refused then s.count cVerDrop 1 else s

/-- HOST_BAR2_READ. -/
def execHostBar2Read (fn : HostFn) (addr len : Nat) (s : State) : Host.Outcome State Fault Refusal :=
  .next <|
    if !s.hostOpen then s.notOpen
    else if !requestOk addr len then s
    else
      match s.hostXlat fn addr len true false with
      | .bad => s.send .unsupported
      | .wait => s
      | .ok ctx pa _ =>
        if s.homeHeld pa len then s
        else
          let (bs, bad, s) := (s.hostWalk fn addr).homeFetch ctx pa len
          s.send (if bad then .error else .readData bs)

/-- FetchAdd, Swap and CAS (23:R336). -/
def hostAtomic (kind size old operand compare : Nat) : Nat :=
  match kind with
  | 0 => (old + operand) % 2 ^ (8 * size)
  | 1 => operand % 2 ^ (8 * size)
  | _ => if old = compare % 2 ^ (8 * size) then operand % 2 ^ (8 * size) else old

/-- An aligned atomic of an agent of the H-die at its home, the new bits being `f` of the old ones; on a VER page as an ATOM
(17:R274): a word of several siblings, or poison, completes it with an error. Else the old bytes. -/
def State.homeAtomic (s : State) (ctx pa size : Nat) (ver : Bool) (f : Nat → Nat) : Option (List Byte) × State :=
  let w := pa / 8 * 8
  if ver && decide ((s.verRec w).siblings.length > 1) then (none, s)
  else
    let (bs, bad, s) := s.homeFetch ctx pa size
    if bad then (none, s)
    else
      let s := (s.settleSeen none [(pa, size)]).recallLine (pa / 128)
      let new := toBytes (f (ofBytes bs)) size
      (some bs, if ver then s.setVer w (s.verRec w) ((s.verRec w).replace (ofBytes ((s.mem.write pa new).read w 8)) hostActor)
        else (s.physWrite pa new).1)

/-- HOST_ATOMICOP: an aligned operation at the home; on a VER page as an ATOM (17:R274), which a word of several siblings
completes with an error. -/
def execHostAtomicop (fn : HostFn) (addr size : Nat) (kind : Nat) (operand compare : Nat) (s : State) :
    Host.Outcome State Fault Refusal :=
  .next <|
    if !s.hostOpen then s.notOpen
    else if (size ≠ 4 && size ≠ 8) || addr % size ≠ 0 || kind > 2 then s.send .unsupported
    else
      match s.hostXlat fn addr size true true with
      | .bad => s.send .unsupported
      | .wait => s
      | .ok ctx pa ver =>
        if s.homeHeld pa size then s
        else
          match (s.hostWalk fn addr).homeAtomic ctx pa size ver fun old => hostAtomic kind size old operand compare with
          | (none, s) => s.send .error
          | (some bs, s) => s.send (.readData bs)

/-! ### MSI-X (23:R339) -/

/-- MSIX_UNMASK: a vector of a function's table is unmasked, and signalled if it pends, or masked. -/
def execMsixUnmask (fn : HostFn) (entry : MsixMask) (s : State) : Host.Outcome State Fault Refusal :=
  .next <|
    let t := s.msixOf fn
    let vec := entry.vec
    if !s.bar0Open || vec ≥ 2048 then s
    else if entry.mask then s.setMsix fn { t with unmasked := t.unmasked.filter (· ≠ vec) }
    else
      let on := if t.unmasked.contains vec then t.unmasked else vec :: t.unmasked
      let s' := s.setMsix fn ⟨on, t.pending.filter (· ≠ vec)⟩
      if t.pending.contains vec then s'.send (.msix fn vec) else s'

/-! ### Registers (23 Tables 2, 3; R342; 24:R365) -/

/-- A write of RQGO: 1 creates queue 0 from RQBASE, RQLOG and RQERR, once (20:R290). -/
def State.rqGo (s : State) (value : Nat) : State :=
  let h := s.hdie
  if !s.hostOpen || value ≠ 1 || s.queues.has 0 then s
  else if h.rqbase.toNat % 4096 ≠ 0 || h.rqbase.toNat ≥ 2 ^ 57 || h.rqlog < 4 || h.rqlog > 16 || h.rqerr.toNat % 32 ≠ 0 ||
      h.rqerr.toNat ≥ 2 ^ 57 then { s with hdie := { h with rqgo := 2 } }
  else
    let q : Queue := { v := true, hoe := true, halted := false, log2sz := h.rqlog, pasid := 0, ctx := 0, base := h.rqbase.toNat,
                       head := 0, tail := 0, gto := 2600, errrec := h.rqerr.toNat, skip := 0, host := [] }
    { s with queues := s.queues.set 0 q, hdie := { h with rqgo := 0 } }

/-- RQGO. -/
def execRqgo (value : Word) (s : State) : Host.Outcome State Fault Refusal := .next (s.rqGo value.toNat)

/-- Fields of a ring descriptor (23 Table 6). -/
def Ring.raw (r : Ring) : Nat := r.words.foldr (fun (w : DWord) (n : Nat) => w.toNat + 2 ^ 64 * n) 0
def Ring.v (r : Ring) : Bool := bit r.raw 0
def Ring.log2sz (r : Ring) : Nat := bits r.raw 32 5
def Ring.size (r : Ring) : Nat := 2 ^ r.log2sz
def Ring.slotBytes (r : Ring) : Nat := 2 ^ (11 + bits r.raw 37 3)
def Ring.pri (r : Ring) : Nat := bits r.raw 40 3
def Ring.base (r : Ring) : Nat := bits r.raw 64 64
def Ring.cb (r : Ring) : Nat := bits r.raw 128 64
def Ring.thresh (r : Ring) : Nat := bits r.raw 192 20
def Ring.pbudget (r : Ring) : Nat := bits r.raw 224 16
def Ring.nspawn (r : Ring) : Nat := bits r.raw 240 16
def Ring.sq (r : Ring) : Nat := bits r.raw 256 12
def Ring.shdr (r : Ring) : Nat := bits r.raw 320 64

/-- May the ring be used: its context is alive and every field in range? -/
def State.ringOk (s : State) (r : Ring) : Bool :=
  (match s.ctx? r.ctx with | some c => c.alive | none => false) && decide (4 ≤ r.log2sz) && decide (r.log2sz ≤ 20) &&
  decide (bits r.raw 37 3 ≤ 3) && r.base % 4096 == 0 && decide (r.base < 2 ^ 57) && r.cb % 128 == 0 && decide (r.cb < 2 ^ 57) &&
  decide (1 ≤ r.thresh) && decide (r.thresh < r.size)

def State.port (s : State) (p : Nat) : Port := s.hdie.ports.getD p Port.blank
def State.setPort (s : State) (p : Nat) (v : Port) : State := { s with hdie := { s.hdie with ports := s.hdie.ports.set p v } }
def State.ring (s : State) (p r : Nat) : Ring := (s.port p).rings.getD r Ring.blank
def State.setRing (s : State) (p r : Nat) (v : Ring) : State := s.setPort p { s.port p with rings := (s.port p).rings.set r v }

/-- A port with less in its buffer. -/
def State.release (s : State) (p n : Nat) : State := s.setPort p { s.port p with bufUsed := (s.port p).bufUsed - n }

/-- The bits of word `w` of a ring descriptor that are not reserved (23 Table 6). -/
def ringMask (w : Nat) : DWord :=
  match w with
  | 0 => 0x000007FFFFFF0001
  | 3 => 0xFFFFFFFF000FFFFF
  | 4 => 0x0000000000000FFF
  | 6 => 0
  | 7 => 0
  | _ => 0xFFFFFFFFFFFFFFFF

/-- Write word `w` of a ring descriptor; its reserved bits read 0 (00:R7). The frames that wait for a ring that stops leave the
port's buffer. -/
def State.ringWord (s : State) (p i w : Nat) (raw : DWord) : State :=
  let r := s.ring p i
  let value := raw &&& ringMask w
  if p ≥ 8 || i ≥ 64 || w ≥ 8 then s
  else if w ≠ 0 then (if r.v then s else s.setRing p i { r with words := setAt r.words w value })
  else
    let r' := { r with words := setAt r.words 0 value }
    if !bit value.toNat 0 then (if r.v then (s.setRing p i r'.stop).release p r.held else s.setRing p i r')
    else if !s.ringOk r' then (if r.v then s else (s.setRing p i r'.stop).release p r.held)
    else if r.v then s.setRing p i r'
    else (s.setRing p i { r' with
      seq := 0, head := 0, tail := 0, dfull := 0, dsize := 0, dfault := 0, sincePost := 0, waiting := [], episode := none,
      unsaid := [] }).release p r.held

/-- RING_DESCRIPTOR_WRITE. -/
def execRingDescriptorWrite (port ring word : Nat) (value : DWord) (s : State) : Host.Outcome State Fault Refusal :=
  .next (if s.hostOpen then s.ringWord port ring word value else s)

/-- Write a steering rule, or with index 64 the steering control, whose HCNT is 1 to 64. -/
def State.steerWord (s : State) (p i : Nat) (value : DWord) : State :=
  let pt := s.port p
  if p ≥ 8 then s
  else if i < 64 then s.setPort p { pt with rules := pt.rules.set i value }
  else if i = 64 && decide (1 ≤ bits value.toNat 8 7) && decide (bits value.toNat 8 7 ≤ 64) then s.setPort p { pt with control := value }
  else s

/-- STEERING_WRITE. -/
def execSteeringWrite (port index : Nat) (value : DWord) (s : State) : Host.Outcome State Fault Refusal :=
  .next (if s.hostOpen then s.steerWord port index value else s)

/-- Does a leaf name the stripe set? -/
def State.stripeNamed (s : State) (i : Nat) : Bool :=
  s.ctxs.any fun c => c.2.alive && c.2.leaves.any fun f => decide (f.stripe = i)

/-- Are N, SELF and GLOG of a valid header in range? -/
def stripeHeaderOk (x : Nat) : Bool :=
  !bit x 0 ||
  (decide (2 ≤ bits x 8 5) && decide (bits x 8 5 ≤ 16) && decide (bits x 16 4 < bits x 8 5) &&
   (bits x 24 5 == 12 || bits x 24 5 == 16 || bits x 24 5 == 21))

/-- Write word `w` of a stripe set that no leaf names. -/
def State.stripeWord (s : State) (i w : Nat) (value : DWord) : State :=
  if i = 0 || i ≥ 256 || w ≥ 32 || s.stripeNamed i || (w = 0 && !stripeHeaderOk value.toNat) then s
  else
    let old := s.hdie.stripes.getD i (List.replicate 32 0)
    { s with hdie := { s.hdie with stripes := s.hdie.stripes.set i (setAt old w value) } }

/-- STRIPE_SET_WRITE. -/
def execStripeSetWrite (set word : Nat) (value : DWord) (s : State) : Host.Outcome State Fault Refusal :=
  .next (if s.hostOpen then s.stripeWord set word value else s)

/-- An aligned 8-byte write of an H-die register by its offset (23 Table 3); TDI entries cannot be written. -/
def State.hdieWrite (s : State) (r : Nat) (value : DWord) : State :=
  if r = 0x10000 then
    (if 1 ≤ value.toNat && value.toNat < 65536 then { s with hdie := { s.hdie with migth := value.toNat } } else s)
  else if 0x100000 ≤ r && r < 0x108000 then s.ringWord ((r - 0x100000) / 4096) (r % 4096 / 64) (r % 64 / 8) value
  else if 0x110000 ≤ r && r < 0x111000 then s.steerWord ((r - 0x110000) / 512) (r % 512 / 8) value
  else if 0x111000 ≤ r && r < 0x111040 then s.steerWord ((r - 0x111000) / 8) 64 value
  else if 0x120000 ≤ r && r < 0x130000 then s.stripeWord ((r - 0x120000) / 256) (r % 256 / 8) value
  else s

/-- An H-die register read by its offset, 0 where none stands: also that of a TDI entry. -/
def State.hdieRead (s : State) (r : Nat) : Nat :=
  if r = 0x10000 then s.hdie.migth
  else if 0x100000 ≤ r && r < 0x108000 then ((s.ring ((r - 0x100000) / 4096) (r % 4096 / 64)).words.getD (r % 64 / 8) 0).toNat
  else if 0x110000 ≤ r && r < 0x111000 then ((s.port ((r - 0x110000) / 512)).rules.getD (r % 512 / 8) 0).toNat
  else if 0x111000 ≤ r && r < 0x111040 then (s.port ((r - 0x111000) / 8)).control.toNat
  else if 0x120000 ≤ r && r < 0x130000 then ((s.hdie.stripes.getD ((r - 0x120000) / 256) []).getD (r % 256 / 8) 0).toNat
  else if 0x140000 ≤ r && r < 0x141000 && r % 16 = 0 then
    let t := s.hdie.tdis.getD ((r - 0x140000) / 16) Tdi.blank
    t.state + t.bind_ * 2 ^ 16 + t.session.toNat * 2 ^ 32
  else 0

/-! ### Trusted interfaces (23:R343, R344) -/

/-- A TDI entry. -/
def State.tdi (s : State) (fn : Nat) : Tdi := s.hdie.tdis.getD fn Tdi.blank
def State.setTdi (s : State) (fn : Nat) (t : Tdi) : State := { s with hdie := { s.hdie with tdis := s.hdie.tdis.set fn t } }

/-- SPDM_KEY_EXCHANGE: a session is established, and its id recorded. -/
def execSpdmKeyExchange (fn : Nat) (session : Word) (s : State) : Host.Outcome State Fault Refusal :=
  .next <| if fn ≥ 255 then s else (s.setTdi fn { s.tdi fn with session := session }).send (.spdm fn)

/-- May the context be bound: a child of the root, alive, bound to no TDI? -/
def State.bindable (s : State) (ctx : Nat) : Bool :=
  (match s.child? 0 ctx with | some c => c.alive | none => false) && s.hdie.tdis.all fun t => decide (t.2.bind_ ≠ ctx)

/-- LOCK_INTERFACE: an error unless the TDI is unlocked, scrubbed and has a session. -/
def execLockInterface (fn ctx : Nat) (s : State) : Host.Outcome State Fault Refusal :=
  .next <|
    let t := s.tdi fn
    if fn < 255 && decide (s.hdie.bootst = 6) && decide (t.state = 0) && !t.scrubbing && decide (t.session ≠ 0) && s.bindable ctx then
      (s.setTdi fn { t with state := 1, bind_ := ctx }).send (.tdisp fn true)
    else s.send (.tdisp fn false)

/-- START_INTERFACE. -/
def execStartInterface (fn : Nat) (s : State) : Host.Outcome State Fault Refusal :=
  .next <|
    let t := s.tdi fn
    if fn < 255 && decide (t.state = 1) && !t.scrubbing then (s.setTdi fn { t with state := 2 }).send (.tdisp fn true)
    else s.send (.tdisp fn false)

/-- The accesses of contexts to the host window that are not performed are dropped: their completions would come after the
unlock. -/
def State.dropHostReads (s : State) (xs : List Nat) : State :=
  let mine := s.acc.filter fun e => xs.contains e.2.ctx && e.2.pas.any fun pa => decide (regionOf pa = .host)
  mine.foldl (fun (s : State) e => { (s.deadResult e.2.result) with acc := s.acc.del e.1 }) s

/-- The generation of contexts rises (20:R299). -/
def State.raiseGen (s : State) (xs : List Nat) : State :=
  { s with ctxs := s.ctxs.map fun (e : Nat × Ctx) => (e.1, if xs.contains e.1 then { e.2 with gen := (e.2.gen + 1) % 65536 } else e.2) }

/-- TDI_UNLOCK: the TDI leaves RUN or CONFIG_LOCKED for `next`; its subtree is stopped as by CTXSTOP. -/
def execTdiUnlock (fn : Nat) (next : Nat) (s : State) : Host.Outcome State Fault Refusal :=
  .next <|
    let t := s.tdi fn
    if (t.state ≠ 1 && t.state ≠ 2) || next > 3 || next = 2 || t.scrubbing then s
    else
      let xs := s.subtree t.bind_
      let s := s.setTdi fn { t with state := next, scrubbing := true }
      let s := ((s.dropHostReads xs).stopAll t.bind_).raiseGen xs
      match s.ctx? t.bind_ with
      | some c => s.setCtx t.bind_ { c with run := if c.run = 0 then 0 else 2 }
      | none => s

/-- The unfinished items of a context fail with TDI_UNLOCKED: each has its record and a report. -/
def State.failItems (s : State) (x : Nat) : State :=
  let s := (s.launches.filter fun e => decide (e.2.ctx = x)).foldl (fun (s : State) e =>
    let l := e.2
    let bs := launchRecord 8 l.fcode l.failed.length s.time l.slot l.queue
    let s := if l.crec = 0 then s else (s.putRecord l.queue x l.crec bs).getD s
    let s := if l.irq then s.signal (s.ownerFn x) l.vec else s
    let s := (s.nameRegions x l.wslo l.wscnt false).post 6 x l.crec none
    l.wave.foldl (fun (s : State) t => s.post 6 x t.arg.toNat none) s) s
  let tasks := s.slices.flatMap fun (e : Nat × Slice) => (e.2.tasks.filter fun t => decide (t.2.ctx = x) && (e.2.gather ++ e.2.waves.flatMap (·.tasks)).contains t.1).map (·.2)
  let s := tasks.foldl (fun (s : State) t => s.post 6 x t.arg.toNat none) s
  let copies := s.dies.flatMap fun (d : Nat × Die) => d.2.engines.flatMap fun (e : Nat × CopyEngine) =>
    ((e.2.queue ++ e.2.replay).filter fun c => decide (c.ctx = x)).map fun c => (d.1, e.1, c)
  let s := copies.foldl (fun (s : State) k =>
    let h := copyHandle k.2.2.seq k.2.1 k.1
    ((s.writeRecord (4 * k.2.2.cluster) x (copyActor k.1 k.2.1) k.2.2.crec h 8 k.2.2.moved s.time).getD s).post 6 x h none) s
  (s.colls.filter fun e => decide (e.2.ctx = x)).foldl (fun (s : State) e =>
    ((s.writeRecord (4 * e.2.cluster) x collActor e.2.crec e.2.handle.toNat 8 e.2.moved s.time).getD s).post 6 x e.2.handle.toNat none) s

/-- The pages of leaves, with their version shadows and records and their poison, are zero; the overflow entries of the records
are free (16:R248). -/
def State.zeroLeaves (s : State) (fs : List Leaf) : State :=
  let inside := fun (a : Nat) => fs.any fun f => f.v && (s.leafHolds f a ||
    (f.ver && decide (f.shadow ≤ a) && decide (a < f.shadow + 8 * f.size)))
  let s := (s.vers.filter fun v => inside v.1).foldl (fun (s : State) v =>
    let l := s.l2slice (channelOf v.1)
    s.setL2 (channelOf v.1) { l with pool := l.pool.filter fun e => !v.2.pooled.any fun p => decide (p.1 = e) }) s
  { s with mem := s.mem.filter (fun c => !inside c.1), poison := s.poison.filter (fun l => !inside (128 * l)),
           vers := s.vers.filter fun v => !inside v.1 }

/-- The granules of striped pages that stand at peers are written with zero there (23:R344, R356). -/
def State.zeroRemote (s : State) (fs : List Leaf) : State :=
  (fs.filter fun f => f.v && decide (f.stripe ≠ 0)).foldl (fun (s : State) f =>
    let set_ := s.hdie.stripes.getD f.stripe []
    let n := min f.page (2 ^ bits (set_.getD 0 0).toNat 24 5)
    (List.range (f.size / n)).foldl (fun (s : State) i =>
      match stripeAddr set_ (f.pa + i * n) with
      | none => s
      | some pa => match regionOf pa with
        | .peer p => if s.peerAlive p then s.send (.peerWrite p (bits pa 0 40) (List.replicate n 0)) else s
        | _ => s) s) s

/-- Weight-store regions of dies are zero. -/
def State.zeroRegions (s : State) (dies : List Nat) (lo cnt : Nat) : State :=
  let out := fun (a : Nat) => decide (a < lo * 2 ^ 20) || decide ((lo + cnt) * 2 ^ 20 ≤ a)
  dies.foldl (fun (s : State) d =>
    let die := s.die d
    s.setDie d { die with ws := die.ws.filter (fun c => out c.1), wsPoison := die.wsPoison.filter fun l => out (128 * l) }) s

/-- TDI_SCRUB_DONE: once every save of the subtree has ended and its translated accesses are performed, its unfinished items fail, what the root mapped to it and its
weight-store regions are zero, and the TDI is unlocked. -/
def execTdiScrubDone (fn : Nat) (s : State) : Host.Outcome State Fault Refusal :=
  .next <|
    let t := s.tdi fn
    let xs := s.subtree t.bind_
    if !t.scrubbing || !s.allSaved t.bind_ || s.acc.any (fun e => xs.contains e.2.ctx && s.stillPerformed e.1 e.2) then s
    else
      let s := xs.foldl (fun (s : State) x => (s.failItems x).dropWork x) s
      let s := match s.ctx? t.bind_ with
        | some c => ((s.zeroLeaves c.leaves).zeroRemote c.leaves).zeroRegions c.claim.dies c.claim.wslo c.claim.wscnt
        | none => s
      s.setTdi fn { s.tdi fn with state := 0, bind_ := 0, scrubbing := false }

/-! ### The second tier (23:R345) -/

/-- Expander ports that failed their training at stage 4, which 24:R360 has counted in a counter that Table 7 does not name. -/
def cCxlFail : Nat := 20

/-- EXPANDER_FAILURE: an expander stops responding, or, at stage 4, its port fails its training and is left down. -/
def execExpanderFailure (port : Nat) (s : State) : Host.Outcome State Fault Refusal :=
  .next <|
    if port ≥ 4 || s.hdie.lostExpanders.contains port then s
    else
      let s := { s with hdie := { s.hdie with lostExpanders := port :: s.hdie.lostExpanders } }
      if s.hdie.bootst = 4 then s.count (cCxlFail + 32 * port) 1 else s

/-! ### Ethernet ingest (23:R348 to R353) -/

/-- Frames dropped by R348 or R349, whose counter Table 7 of chapter 24 does not name, per port. -/
def cFrameDrop : Nat := 17

/-- One byte of CRC32C. -/
def crcByte (c : Nat) (b : Byte) : Nat :=
  (List.range 8).foldl (fun c _ => if c % 2 = 1 then (c / 2) ^^^ 0x82F63B78 else c / 2) (c ^^^ b.toNat)

/-- CRC32C of bytes. -/
def crc32c (bs : List Byte) : Nat := (bs.foldl crcByte 0xFFFFFFFF) ^^^ 0xFFFFFFFF

/-- A 16-bit number in network order. -/
def netBytes (n : Nat) : List Byte := (toBytes n 2).reverse

/-- Does a steering rule match a frame? -/
def ruleMatches (x : Nat) (f : EthFrame) : Bool :=
  bit x 0 && (match bits x 1 2 with
    | 0 => (match f.vlan with | some t => decide (t % 4096 = bits x 16 16) | none => false)
    | 1 => (match f.udpPort with | some p => decide (p = bits x 16 16) | none => false)
    | _ => false)

/-- The ring a frame is steered to (23:R349). -/
def Port.steer (p : Port) (f : EthFrame) : Nat :=
  match p.rules.find? fun r => ruleMatches r.2.toNat f with
  | some r => bits r.2.toNat 8 6
  | none =>
    let hlo := bits p.control.toNat 0 6
    if f.isIp then
      (hlo + crc32c (f.ipSrc ++ f.ipDst ++ [BitVec.ofNat 8 f.proto] ++ netBytes f.srcPort ++ netBytes f.dstPort) %
        max 1 (bits p.control.toNat 8 7)) % 64
    else hlo

/-- The header of a slot (23 Table 7). -/
def slotHeader (f : EthFrame) (ring : Nat) (ts : DWord) (seq : Nat) : List Byte :=
  toBytes f.bytes.length 2 ++ toBytes (f.vlan.getD 0xFFFF) 2 ++ toBytes (f.port % 8 + ring % 64 * 2 ^ 3) 4 ++
  toBytes ts.toNat 8 ++ toBytes seq 8 ++ List.replicate 8 0

/-- A port's translation of an address: it may be written, is present and not write-blocked. -/
def State.ingestXlat (s : State) (ctx va : Nat) : Option (Nat × Bool) :=
  match s.walk ctx va with
  | none => none
  | some e =>
    if !e.w || s.blocked ctx va then none
    else
      match s.finalPa (e.trans va) with
      | none => none
      | some pa => if regionOf pa = .hole || regionOf pa = .registers then none else some (pa, e.ver)

/-- Bytes at a virtual address, cut at page boundaries, each with its translation; none where one has none. -/
def State.pageParts (s : State) (ctx : Nat) : Nat → Nat → List Byte → Option (List (Nat × Bool × List Byte))
  | 0, _, _ => some []
  | n + 1, va, bs =>
    if bs.isEmpty then some []
    else
      match s.ingestXlat ctx va with
      | none => none
      | some (pa, ver) =>
        let k := 4096 - va % 4096
        (State.pageParts s ctx n (va + k) (bs.drop k)).map fun rest => (pa, ver, bs.take k) :: rest

/-- The pages that bytes at a virtual address meet. -/
def pagesOf (va n : Nat) : List Nat := (List.range ((va % 4096 + n + 4095) / 4096)).map fun i => alignDown va 4096 + 4096 * i

/-- Must a port's write of bytes wait, at a write-blocked page or for a word that a commit holds (23:R347, 10:R183)? -/
def State.ingestWaits (s : State) (ctx va n : Nat) : Bool :=
  ((pagesOf va n).any fun p => match s.walk ctx p with | some e => e.w && s.blocked ctx p | none => false) ||
  (match s.pageParts ctx 6 va (List.replicate n 0) with
   | some ps => ps.any fun p => s.writeHeld p.1 p.2.2.length
   | none => false)

/-- A port writes bytes of a context: none where a part faults or is refused. -/
def State.ingestWrite (s : State) (ctx va : Nat) (bs : List Byte) : Option State :=
  let s := (pagesOf va bs.length).foldl (fun (s : State) p => s.readTables ctx p) s
  match s.pageParts ctx 6 va bs with
  | none => none
  | some ps =>
    let (s, bad) := ps.foldl (fun (acc : State × Bool) p =>
      (if acc.2 then acc else acc.1.homeWrite ctx ingestActor p.1 p.2.1 p.2.2)) (s, false)
    if bad then none else some s

/-- HEAD as the program wrote it; one beyond TAIL is ignored (23:R351). -/
def State.ringHead (s : State) (r : Ring) : Nat :=
  match s.walk r.ctx r.cb with
  | none => r.head
  | some e =>
    match s.finalPa (e.trans r.cb) with
    | none => r.head
    | some pa =>
      let h := s.mem.readNat pa 4
      if regionOf pa = .ram && e.r && decide (h < r.size) &&
          decide ((h + r.size - r.head) % r.size ≤ (r.tail + r.size - r.head) % r.size) then h
      else r.head

/-- Free slots (23:R352). -/
def Ring.freeSlots (r : Ring) : Nat := r.size - 1 - (r.tail + r.size - r.head) % r.size

/-- The port looks at HEAD: what a noted release holds for it is published first. -/
def State.refreshHead (s : State) (p i : Nat) : State :=
  let r := s.ring p i
  let s := match s.walk r.ctx r.cb with
    | some e => (match s.finalPa (e.trans r.cb) with | some pa => s.publishFor none [pa / 128] | none => s)
    | none => s
  s.setRing p i { r with head := s.ringHead r }

/-- A drop count is written into the ring's control block; it waits while the block's page is write-blocked. -/
def State.sayDrops (s : State) (p i at_ : Nat) : State :=
  let r := s.ring p i
  let v := match at_ with
    | 72 => r.dfull
    | 76 => r.dsize
    | _ => r.dfault
  let rest := r.unsaid.filter (· ≠ at_)
  if s.ingestWaits r.ctx (r.cb + at_) 4 then s.setRing p i { r with unsaid := at_ :: rest }
  else ((s.setRing p i { r with unsaid := rest }).ingestWrite r.ctx (r.cb + at_) (toBytes v 4)).getD (s.setRing p i { r with unsaid := rest })

/-- A drop is counted, in the ring's control block and in the lifetime counters. -/
def State.dropFrames (s : State) (p i counter at_ n : Nat) (r : Ring) : State :=
  ((s.setRing p i r).count (counter + 32 * p) n).sayDrops p i at_

/-- Must the frame for slot TAIL of a ring, of `n` bytes, wait before it is written? -/
def State.frameWaits (s : State) (r : Ring) (n : Nat) : Bool :=
  s.ingestWaits r.ctx (r.base + r.tail * r.slotBytes) (n + 32) || s.ingestWaits r.ctx (r.cb + 64) 4

/-- Write a frame into slot TAIL, then TAIL; every NSPAWN frames leave a task to post. -/
def State.writeFrame (s : State) (p i : Nat) (f : EthFrame) (ts : DWord) (seq : Nat) : State :=
  let r := s.ring p i
  let va := r.base + r.tail * r.slotBytes
  let t := (r.tail + 1) % r.size
  match (s.ingestWrite r.ctx va (slotHeader f i ts seq ++ f.bytes)).bind fun s => s.ingestWrite r.ctx (r.cb + 64) (toBytes t 4) with
  | none => s.dropFrames p i cDfault 80 1 { r with dfault := r.dfault + 1 }
  | some s =>
    let first := if r.sincePost = 0 then va else r.firstSlot
    let n := r.sincePost + 1
    let full := decide (r.nspawn ≠ 0) && decide (n ≥ r.nspawn)
    let task : Task := ⟨r.shdr, (match s.queues.get? r.sq with | some q => q.ctx | none => r.ctx), r.sq, BitVec.ofNat 64 first, 0, s.time, false, 0⟩
    s.setRing p i { r with tail := t, sincePost := if full then 0 else n, firstSlot := first,
                           toPost := if full then r.toPost ++ [task] else r.toPost }

/-- Has the pause budget of a ring's episode passed? -/
def Ring.expired (r : Ring) (now : DWord) : Bool :=
  match r.episode with
  | some t => decide (t.toNat + 1300 * r.pbudget ≤ now.toNat)
  | none => false

/-- Waiting frames enter slots that are free, in ring order. -/
def State.drainRing (p i : Nat) : Nat → State → State
  | 0, s => s
  | n + 1, s =>
    let r := s.ring p i
    match r.waiting with
    | [] => s
    | w :: rest =>
      if r.freeSlots = 0 || s.frameWaits r w.1.bytes.length then s
      else
        let s := (s.setRing p i { r with waiting := rest }).release p w.1.bytes.length
        State.drainRing p i n (s.writeFrame p i w.1 w.2.1 w.2.2)

/-- A ring whose budget has passed drops every waiting frame. -/
def State.expireRing (s : State) (p i : Nat) : State :=
  let r := s.ring p i
  if r.expired s.time && !r.waiting.isEmpty then
    let n := r.waiting.length
    (s.release p (r.waiting.map (·.1.bytes.length)).sum).dropFrames p i cDfull 72 n { r with waiting := [], dfull := r.dfull + n }
  else s

/-- Rings of a priority in use. -/
def State.ringsOf (s : State) (p pri : Nat) : List (Nat × Ring) :=
  (s.port p).rings.filter fun e => e.2.v && decide (e.2.pri = pri)

/-- The port looks at every ring of a priority: HEAD, counts that wait, waiting frames, budgets. -/
def State.serveRings (s : State) (p pri : Nat) : State :=
  (s.ringsOf p pri).foldl (fun (s : State) e =>
    let s := e.2.unsaid.foldl (fun (s : State) a => s.sayDrops p e.1 a) (s.refreshHead p e.1)
    (State.drainRing p e.1 (s.ring p e.1).waiting.length s).expireRing p e.1) s

/-- Rings whose episode begins are counted; XOFF or quanta 0 is sent (23:R352). `again`: XOFF is repeated. -/
def State.pause (s : State) (p pri : Nat) (again : Bool) : State :=
  let short := (s.ringsOf p pri).filter fun e => decide (e.2.freeSlots < e.2.thresh)
  let on := (s.port p).xoff.contains pri
  if short.isEmpty then
    if on then
      let s := (s.ringsOf p pri).foldl (fun (s : State) e => s.setRing p e.1 { e.2 with episode := none }) s
      (s.setPort p { s.port p with xoff := (s.port p).xoff.filter (· ≠ pri) }).send (.pfc p pri 0)
    else s
  else
    let s := short.foldl (fun (s : State) e =>
      if e.2.episode.isSome then s else (s.setRing p e.1 { e.2 with episode := some s.time }).count (cPause + 32 * p) 1) s
    let s := if on then s else s.setPort p { s.port p with xoff := pri :: (s.port p).xoff }
    if on && !again then s else s.send (.pfc p pri 0xFFFF)

/-- Bytes of a port's buffer. -/
def portBuffer : Nat := 8 * 2 ^ 20

/-- A frame reaches its ring with number `seq`: it is written, waits, or is dropped. -/
def State.placeFrame (s : State) (p i : Nat) (f : EthFrame) (seq : Nat) : State :=
  let r := s.ring p i
  if f.bytes.length + 32 > r.slotBytes then s.dropFrames p i cDsize 76 1 { r with dsize := r.dsize + 1 }
  else if r.waiting.isEmpty && decide (0 < r.freeSlots) && !s.frameWaits r f.bytes.length then s.writeFrame p i f s.time seq
  else if r.expired s.time || decide ((s.port p).bufUsed + f.bytes.length > portBuffer) then
    s.dropFrames p i cDfull 72 1 { r with dfull := r.dfull + 1 }
  else
    let s := s.setRing p i { r with waiting := r.waiting ++ [(f, s.time, seq)] }
    s.setPort p { s.port p with bufUsed := (s.port p).bufUsed + f.bytes.length }

/-- FRAME_RECEIVE. -/
def execFrameReceive (f : EthFrame) (s : State) : Host.Outcome State Fault Refusal :=
  .next <|
    let p := f.port
    if p ≥ 8 || !s.hostOpen then s
    else if !f.fcsOk || f.bytes.length + 4 < 64 || f.bytes.length + 4 > 9216 then s.count (cFrameDrop + 32 * p) 1
    else
      let i := (s.port p).steer f
      let r := s.ring p i
      if !r.v then s.count (cFrameDrop + 32 * p) 1
      else
        let s := s.serveRings p r.pri
        let r := s.ring p i
        let s := s.setRing p i { r with seq := r.seq + 1 }
        (s.placeFrame p i f r.seq).pause p r.pri false

/-- PFC_REFRESH: XOFF is sent again, or the pause ends. -/
def execPfcRefresh (port pri : Nat) (s : State) : Host.Outcome State Fault Refusal :=
  .next (if (s.port port).xoff.contains pri then (s.serveRings port pri).pause port pri true else s)

/-- PAUSE_BUDGET_EXPIRY. -/
def execPauseBudgetExpiry (port ring : Nat) (s : State) : Host.Outcome State Fault Refusal :=
  .next (if (s.ring port ring).v then s.expireRing port ring else s)

/-- INGEST_TASK_POST: the oldest task of a ring that waits is posted once its slice has an entry free. -/
def execIngestTaskPost (port ring : Nat) (s : State) : Host.Outcome State Fault Refusal :=
  .next <|
    let r := s.ring port ring
    match r.toPost with
    | [] => s
    | t :: rest =>
      if (s.queues.get? t.queue).isNone then s
      else
        match s.addTask { t with arrived := s.time } with
        | none => s
        | some (_, s) => ((s.setRing port ring { s.ring port ring with toPost := rest }).fullWaves 1 t.queue t.ctx t.hdr).admitFormed t.queue

/-! ### Emaris links and peers (23:R354 to R358) -/

/-- Trained links that reach a peer. -/
def State.linksTo (s : State) (peer : Nat) : List (Nat × Link) := s.hdie.links.filter fun l => l.2.trained && decide (l.2.emid = peer)

def State.setLink (s : State) (i : Nat) (l : Link) : State := { s with hdie := { s.hdie with links := s.hdie.links.set i l } }

/-- LINK_TRAINING: a peer that reports the device's own id, or one held by another device, leaves the link down. -/
def execLinkTraining (link emid : Nat) (identity : Nat) (s : State) : Host.Outcome State Fault Refusal :=
  .next <|
    let up := match s.hdie.links.get? link with | some l => l.trained | none => false
    if link ≥ 12 || up || emid > 255 then s
    else if emid = s.hdie.emid || (s.linksTo emid).any fun l => decide (l.2.identity ≠ identity) then s.count cEmidConflict 1
    else
      let s := s.setLink link ⟨true, emid, identity⟩
      { s with hdie := { s.hdie with trainedOnce := true } }

/-- EMARIS_LINK_FAILURE: other links to the peer remain. -/
def execEmarisLinkFailure (link : Nat) (s : State) : Host.Outcome State Fault Refusal :=
  .next <|
    match s.hdie.links.get? link with
    | none => s
    | some l => if l.trained && decide (1 < (s.linksTo l.emid).length) then s.setLink link { l with trained := false } else s

/-- Does a stripe set need a peer? -/
def State.stripeNeeds (s : State) (i peer : Nat) : Bool :=
  let set_ := s.hdie.stripes.getD i []
  let h := (set_.getD 0 0).toNat
  bit h 0 && (List.range (bits h 8 5)).any fun m => decide (m ≠ bits h 16 4) && decide (bits (set_.getD (1 + m) 0).toNat 0 8 = peer)

/-- PEER_LOST: no link reaches the peer any more. What it owes completes poisoned when it is performed (`physRead`,
`physWrite`), a copy that meets it fails; a collective that needs it fails at once. -/
def execPeerLost (peer : Nat) (s : State) : Host.Outcome State Fault Refusal :=
  .next <|
    if (s.linksTo peer).isEmpty then s
    else
      let links := s.hdie.links.map fun (l : Nat × Link) => (l.1, if l.2.emid = peer then { l.2 with trained := false } else l.2)
      let s := { s with hdie := { s.hdie with links := links } }
      let needs := fun (k : Coll) => s.stripeNeeds (match s.lookup (4 * k.cluster) k.ctx k.dst with
        | some e => e.stripe
        | none => k.stripe) peer
      { s with colls := s.colls.map fun (e : Nat × Coll) =>
          (e.1, if e.2.status.isNone && needs e.2 then { e.2 with status := some 14, ended := s.time } else e.2) }

/-- Is it one that a device sends: within a page, an atomic of Table 4 and an access of family 59 aligned? -/
def remoteOk (o : RemoteOp) (pa len : Nat) : Bool :=
  requestOk pa len && decide (pa + len ≤ 2 ^ 40) &&
  (match o with
   | .read => true
   | .write bs => bs.length == len
   | .atomic f _ _ => decide (f ≤ 14) && (len == 4 || len == 8) && pa % len == 0
   | _ => len == 8 && pa % 8 == 0)

/-- An access of family 59 of a peer at its home (17:R272 to R276): what it answers, none where it fails. -/
def State.remoteVer (s : State) (pa : Nat) (ver : Bool) (o : RemoteOp) : Option (List Byte) × State :=
  let r := s.verRec pa
  match o with
  | .ldv rank =>
    let (bs, bad, s) := s.homeFetch 0 pa 8
    if bad then (none, s)
    else if ver then
      let xs := r.ranked
      let x := match xs[min rank (xs.length - 1)]? with | some x => x.val.toNat | none => 0
      (some (toBytes x 8 ++ toBytes r.token 4 ++ toBytes xs.length 4), s)
    else (some (bs ++ toBytes 0 4 ++ toBytes 1 4), s)
  | .stv token v =>
    let s := ((s.settleSeen none [(pa, 8)]).recallLine (pa / 128)).touchHome pa 0 8 true
    if s.expanderLost pa then (none, s)
    else if ver then (match s.verStore pa token (v % 2 ^ 64) hostActor with
      | none => (none, s)
      | some s => (some [], s))
    else (some [], (s.physWrite pa (toBytes v 8)).1)
  | .recon code v =>
    let (_, bad, s) := s.homeFetch 0 pa 8
    if bad then (none, s)
    else if ver then (some [], (s.recallLine (pa / 128)).setVer pa r (r.replace (mergeOn code (v % 2 ^ 64) r.siblings) hostActor))
    else (some [], s)
  | _ =>
    let (_, bad, s) := s.homeFetch 0 pa 8
    if bad then (none, s) else (some (toBytes (if ver then r.siblings.length else 1) 4), s)

/-- A peer is answered. -/
def State.answerPeer (r : Option (List Byte) × State) : State :=
  match r.1 with
  | some bs => r.2.send (.peerReply bs)
  | none => r.2.send .error

/-- REMOTE_ACCESS: a peer's access at this device's home (23:R357); one that no home here has is answered with an error, a
write being dropped. -/
def execRemoteAccess (peer : Nat) (pa : Nat) (op : RemoteOp) (len : Nat) (s : State) : Host.Outcome State Fault Refusal :=
  .next <|
    if !s.hostOpen || !s.peerAlive peer || !remoteOk op pa len then s
    else if regionOf pa ≠ .ram || regionOf (pa + len - 1) ≠ .ram || s.hidden pa len then
      (match op with | .write _ => s | _ => s.send .error)
    else if s.homeHeld pa len then s
    else
      let ver := s.anyVerPage pa
      match op with
      | .write bs => (s.homeWrite 0 hostActor pa ver bs).1
      | .read =>
        let (bs, bad, s) := s.homeFetch 0 pa len
        State.answerPeer (if bad then none else some bs, s)
      | .atomic f b c =>
        State.answerPeer (s.homeAtomic 0 pa len ver fun old => atomicOn f (8 * len) old (b % 2 ^ (8 * len)) (c % 2 ^ (8 * len)))
      | o => State.answerPeer (s.remoteVer pa ver o)

end Sys2Proof.Machine
end

