-- ==== Sys2Proof/Machine/Boot.lean ====
section
/-! DEFINITION. Bring-up and recovery, clock plans, errors in arrays, lifetime counters, power and the management port
(chapter 24). -/

namespace Sys2Proof.Machine

/-- A value clamped to POWERCAP's range (24:R365). -/
def clampCap (n : Nat) : Nat := min 2600 (max 1000 n)

/-! ### Package reset (24:R360, R361) -/

/-- The H-die after a package reset: what the module keeps is the flash with its image and fence mask, the fuses, the
counters and the sensors. -/
def HDie.afterReset (h : HDie) : HDie :=
  { HDie.reset with
    flash := h.flash, svnFuse := h.svnFuse, fence := h.fenceNext, fenceNext := h.fenceNext, counters := h.counters,
    flashCounters := h.flashCounters, temps := h.temps, rails := h.rails, power := h.power, throttled := h.throttled, out := h.out }

/-- Every K-die is held in reset: no context, no item and nothing in flight is left. -/
def State.diesOff (s : State) (h : HDie) : State :=
  { State.reset with
    time := s.time, agenda := s.agenda, fresh := s.fresh, nextId := s.nextId, ctxs := [(0, Ctx.root h.fence)], hdie := h }

/-- The package resets: device time is 0, bring-up begins at stage 1. -/
def State.packageReset (s : State) : State := { s.diesOff s.hdie.afterReset with time := 0 }

/-- A request for a package reset: after a trip it takes effect only once the dies are cool (24:R371). -/
def State.resetRequest (s : State) : State :=
  let h := s.hdie
  if h.tripped then (if h.pendingReset.isSome then s else { s with hdie := { h with pendingReset := some false } })
  else s.packageReset

/-- PACKAGE_RESET. -/
def execPackageReset (s : State) : Host.Outcome State Fault Refusal := .next s.resetRequest

/-- RECOVERY: BAR0 alone answers. -/
def State.enterRecovery (s : State) : State := s.diesOff { s.hdie with bootst := 0xE1, relocked := false }

/-! ### The firmware image (24:R359, Table 1) -/

/-- `n` bytes of an image from byte `a` on, as a number. -/
def imageField (img : List Byte) (a n : Nat) : Nat := ofBytes ((img.drop a).take n)

/-- MAGIC, VERSION, SVN and LEN. -/
def imageMagic (img : List Byte) : Nat := imageField img 0 4
def imageVersion (img : List Byte) : Nat := imageField img 4 4
def imageSvn (img : List Byte) : Nat := imageField img 8 1 % 64
def imageLen (img : List Byte) : Nat := imageField img 12 4

/-- Is LEN a multiple of 4,096, at most 64 MiB? -/
def lenOk (n : Nat) : Bool := n % 4096 == 0 && decide (n ≤ 64 * 2 ^ 20)

/-- The bytes of an image with its header and signature. -/
def imageSize (len : Nat) : Nat := 2048 + len + 3309

/-- Header and body of an image, and its public key. -/
def imageSigned (img : List Byte) : List Byte := img.take (2048 + imageLen img)
def imageKey (img : List Byte) : List Byte := (img.drop 64).take 1952

/-- Does the ROM accept the image: MAGIC, its size, SVN, the digest of KEY, and the signature over the digest of header and
body? -/
def imageOk (fuse : Nat) (img : List Byte) : Bool :=
  decide (imageMagic img = 0x4C4D4B39) && lenOk (imageLen img) && decide (imageSize (imageLen img) ≤ img.length) &&
  decide (fuse ≤ imageSvn img) && sha3 (imageKey img) == Config.fusedKey &&
  mlDsa65 (imageKey img) (sha3 (imageSigned img)) ((img.drop (2048 + imageLen img)).take 3309)

/-- The fuse is raised to the SVN of an accepted image. -/
def HDie.raiseFuse (h : HDie) (img : List Byte) : HDie := { h with svnFuse := max h.svnFuse (imageSvn img) }

/-! ### Boot stages (24:R360, Table 2) -/

/-- Have all 40 clusters of some K-die failed? -/
def dieLost (mask : BitVec 160) : Bool := (List.range 4).any fun d => decide (bits mask.toNat (40 * d) 40 = 2 ^ 40 - 1)

/-- The root's tables, at the head of what the slice kernels' memory has behind the private areas: ROOT, a table of 512 leaves
of 1 GiB for every 512 GiB that has memory, and those for the smaller pages beside the kernels' own memory (20:R290, R293; log
entry 10). -/
def rootMap (kern size : Nat) : Map Nat :=
  let base := kern + areaBytes + rootBytes
  let big := (0 :: rangeFrom 2 16).map fun i => tableKey 3 (i * 2 ^ 39)
  let keys := big ++ [kern - 1, kern + size].flatMap fun va => [3, 2, 1].map fun l => tableKey l va
  ((List.range keys.length).zip keys).foldl (fun (m : Map Nat) x => if m.has x.2 then m else m.set x.2 (base + tableBytes * x.1)) []

/-- Stage 6: the root runs, with its claim (20:R290), whose quota registers and weight-store regions it then holds (09:R143,
16:R249), and its translation. -/
def State.stageSix (s : State) : State :=
  let (kern, size) := Config.kernel
  let root := { Claim.root s.hdie.fence with mem := Config.rootMem }
  let ctx := { Ctx.root s.hdie.fence with
    run := 1, claim := root, tableRoot := BitVec.ofNat 52 (kern + areaBytes), tables := rootMap kern size }
  let s := { s with ctxs := [(0, ctx)], dies := [], kern := kern, kernSize := size, hdie := { s.hdie with bootst := 6 } }
  (s.programQuotas 0 root.clusters).programRegions root.dies root.wslo root.wscnt

/-- BOOT_STAGE_ADVANCE: the stage that BOOTST names ends; `failed` are the clusters that fail the self-test of stage 3. -/
def execBootStageAdvance (ok : Bool) (failed : BitVec 160) (s : State) : Host.Outcome State Fault Refusal :=
  .next <|
    let h := s.hdie
    match h.bootst with
    | 1 => { s with time := 0, hdie := { h with bootst := 2 } }
    | 2 =>
      if ok && imageOk h.svnFuse h.flash then
        { s with hdie := { h.raiseFuse h.flash with bootst := 3, accepted := imageSigned h.flash } }
      else s.enterRecovery
    | 3 =>
      let mask := h.fenceNext ||| failed
      let s := { s with hdie := { h with fence := mask, fenceNext := mask, bootst := 4 } }
      if dieLost mask then s.enterRecovery else s
    | 4 => if ok then { s with hdie := { h with bootst := 5, hdm := Config.hdm } } else s.enterRecovery
    | 5 => if ok then s.stageSix else s.enterRecovery
    | _ => s

/-! ### Recovery (24:R361, R371) -/

/-- Is the package in RECOVERY, or held after a trip? -/
def HDie.down (h : HDie) : Bool := decide (0xE1 ≤ h.bootst)

/-- Write bytes of the recovery buffer, 72 MiB. -/
def HDie.bufferWrite (h : HDie) (a : Nat) (bs : List Byte) : HDie :=
  if a + bs.length ≤ 72 * 2 ^ 20 then { h with recBuf := h.recBuf.write a bs } else h

/-- Bytes written into the recovery window, which shows page RECPAGE of the buffer. -/
def State.windowWrite (s : State) (offset : Nat) (data : List Byte) : State :=
  if !s.hdie.down || 8 * 2 ^ 20 < offset + data.length then s
  else { s with hdie := s.hdie.bufferWrite (8 * 2 ^ 20 * s.hdie.recpage + offset) data }

/-- RECOVERY_WINDOW_WRITE. -/
def execRecoveryWindowWrite (offset : Nat) (data : List Byte) (s : State) : Host.Outcome State Fault Refusal :=
  .next (s.windowWrite offset data)

/-- The image at offset 0 of the buffer; nothing where LEN is out of range. -/
def HDie.bufferImage (h : HDie) : List Byte :=
  let len := h.recBuf.readNat 12 4
  if lenOk len then h.recBuf.read 0 (imageSize len) else []

/-- The buffer holds an image that is accepted: it goes to flash, and the package resets. -/
def State.recoverWith (s : State) (img : List Byte) : State :=
  let h := s.hdie.raiseFuse img
  { s with hdie := { h with flash := img } }.packageReset

/-- RECGO in RECOVERY verifies the buffer; after a trip it waits for the dies to cool. -/
def State.recGo (s : State) : State :=
  let h := s.hdie
  if h.bootst = 0xE3 then { s with hdie := { h with pendingReset := some true } }
  else if h.bootst = 0xE1 || h.bootst = 0xE2 then
    let img := h.bufferImage
    if imageOk h.svnFuse img then s.recoverWith img else { s with hdie := { h with bootst := 0xE2 } }
  else s

/-- RECGO. -/
def execRecgo (s : State) : Host.Outcome State Fault Refusal := .next s.recGo

/-! ### Clock plans (24:R363, R364, Table 5) -/

/-- FAC, FREF and FREG0 to FREG3 of a record, in kHz. -/
def planFreqs (bs : List Byte) : List Nat := (List.range 6).map fun i => imageField bs (4 * i) 4

/-- The avoid bands in use. -/
def planBands (bs : List Byte) : List (Nat × Nat) :=
  (List.range (imageField bs 24 1 % 64)).map fun i => (imageField bs (32 + 8 * i) 4, imageField bs (36 + 8 * i) 4)

/-- Does a harmonic 1 to 8 of a frequency lie in a band? -/
def harmonicIn (f : Nat) (band : Nat × Nat) : Bool :=
  (List.range 8).any fun k => decide (band.1 ≤ (k + 1) * f) && decide ((k + 1) * f ≤ band.2)

/-- Is the plan accepted? -/
def planOk (bs : List Byte) : Bool :=
  let fac := (planFreqs bs).headD 0
  decide (1270000 ≤ fac) && decide (fac ≤ 1330000) && decide (imageField bs 24 1 % 64 ≤ 32) &&
  !(planFreqs bs).any fun f => (planBands bs).any (harmonicIn f)

/-- Every context is pre-empted in every cluster, to return there. -/
def State.preemptAll (s : State) : State :=
  (List.range 160).foldl (fun (s : State) k =>
    match (s.cluster k).stop, (s.cluster k).holds with
    | none, some h => s.requestStop k h (some h)
    | _, _ => s) s

/-- A plan change begins. -/
def State.startPlan (s : State) (bs : List Byte) : State :=
  { s with hdie := { s.hdie with planst := 3, planNext := bs, relocked := false } }.preemptAll

/-- A write of PLANGO: 1, the record at PLANREC is checked, and a refused one leaves the active plan; 2, a plan that is active
ends. -/
def State.planGo (s : State) (value : Nat) : State :=
  let a := s.hdie.planrec.toNat
  if !s.hostOpen || s.hdie.planst = 3 then s
  else if value = 1 then
    let bs := s.mem.read a 512
    if regionOf a = .ram && !s.poisoned a 512 && !s.expanderLost a && planOk bs then s.startPlan bs
    else { s with hdie := { s.hdie with planst := 2 } }
  else if value = 2 then
    if s.hdie.plan.isEmpty then { s with hdie := { s.hdie with planst := 0 } } else s.startPlan []
  else s

/-- PLAN_APPLY. -/
def execPlanApply (s : State) : Host.Outcome State Fault Refusal := .next (s.planGo 1)

/-- PLAN_DEFAULT. -/
def execPlanDefault (s : State) : Host.Outcome State Fault Refusal := .next (s.planGo 2)

/-- PLL_RELOCK: once every context is saved the arithmetic clock goes on at the plan's FAC (00:R4), and what was pre-empted may
be restored; PLANST changes when it has been. -/
def execPllRelock (s : State) : Host.Outcome State Fault Refusal :=
  .next <|
    let h := s.hdie
    if h.planst ≠ 3 || h.relocked || s.clusters.any (fun k => k.2.stop.isSome) then s
    else { s with hdie := { h with
      plan := h.planNext, planNext := [], acBase := s.acNow, acFrom := s.time, relocked := true } }.planDone

/-! ### Errors in arrays (24:R366, R367, Table 6a) -/

/-- The row of Table 6a, the die and, for an array of a cluster, the cluster. -/
def arrayPlace : ArrayLoc → Nat × Nat × Option Nat
  | .regRow c _ _ _ => (0, dieOf c, some (clusterOf c))
  | .scratch c _ => (1, dieOf c, some (clusterOf c))
  | .l1Dirty c _ => (1, dieOf c, some (clusterOf c))
  | .parityCached c => (2, dieOf c, some (clusterOf c))
  | .scalarStore c _ => (3, dieOf c, some (clusterOf c))
  | .opLog c _ => (4, dieOf c, some (clusterOf c))
  | .tile k _ => (5, dieOfCluster k, some k)
  | .weightStore d _ => (5, d, none)
  | .memory pa => (6, homeDie pa, none)
  | .taskEntry i _ => (7, i / 16, none)
  | .counter i _ => (7, i / 16, none)
  | .directory d => (8, d, none)

/-- 24 h in dt. -/
def dayTime : Nat := 24 * 3600 * 1300000000

/-- A cluster records an uncorrectable error; with the fourth in 24 h it is fenced from the next reset on. -/
def State.clusterError (s : State) (k : Nat) : State :=
  let cl := s.cluster k
  let ts := s.time :: cl.ueTimes.filter fun t => decide (s.time.toNat < t.toNat + dayTime)
  let s := s.setCluster k { cl with ueTimes := ts }
  if ts.length ≥ 4 then { s with hdie := { s.hdie with fenceNext := s.hdie.fenceNext ||| BitVec.ofNat 160 (2 ^ k) } } else s

/-- Threads that hold an operand-log entry take a late DATA_POISON: those whose access waits or, of an STV, is under way, and
those that handle its fault. -/
def State.poisonEntry (s : State) (c e : Nat) : State :=
  match (s.core c).oplog.get? e with
  | none => s
  | some le =>
    let waiting := s.acc.filter fun a => decide (a.2.core = c) && decide (a.2.entry = some e) && decide (a.2.slot = le.slot) && decide (a.2.uid = le.uid) &&
      le.threads.any fun t => decide (t.thread = a.2.thread) && decide (t.status = .waiting)
    let s := waiting.foldl (fun (s : State) a => s.lateFault a.1 a.2 fDataPoison 0 a.2.va) s
    let faulted := (le.threads.filter fun t => decide (t.status = .faulted)).map (·.thread)
    let s := faulted.foldl (fun (s : State) t =>
      match s.warp? c le.slot with
      | none => s
      | some wp =>
        match wp.thread? t with
        | none => s
        | some th =>
          if wp.uid ≠ le.uid || !th.alive then s
          else
            let s := s.splitOff c le.slot t
            let site : Site := ⟨le.pc, 0, 0, 0, 0, 3⟩
            let s := s.takeFault c le.slot (site.record ⟨t, fDataPoison, 0, 0⟩ true (some e) le.slot th.depth) th.pc 0
            s.afterMove c le.slot [t]) s
    let k := s.core c
    s.setCore c { k with oplog := k.oplog.del e }

/-- A slice core hears of poisoned task SRAM (21 Table 11, KIND 5; its payload is free). -/
def State.tellPoison (s : State) (i : Nat) : State :=
  let (v, s) := s.takeFree 56
  s.postEvent i 5 v

/-- A parity error in a clean line of a core's L1, its constant or instruction cache, or one of the TLBs: the copy is
discarded. Which it is, is a free value. -/
def State.dropParity (s : State) (c : Nat) : State :=
  let (v, s) := s.takeFree 32
  let k := s.core c
  let cl := s.cluster (clusterOf c)
  let clean := (k.l1.filter fun e => decide (e.2.state = .e) || decide (e.2.state = .s)).map (·.1)
  let n := clean.length + k.ccache.length + k.icache.length + k.tlb.length + cl.tlb.length
  if n = 0 then s
  else
    let i := v % n
    let j := i - clean.length
    let s := s.setCore c { k with
      ccache := if i < clean.length then k.ccache else k.ccache.eraseIdx j
      icache := if i < clean.length + k.ccache.length then k.icache else k.icache.eraseIdx (j - k.ccache.length)
      tlb := if i < clean.length + k.ccache.length + k.icache.length then k.tlb else k.tlb.eraseIdx (j - k.ccache.length - k.icache.length) }
    let s := s.setCluster (clusterOf c) { cl with
      tlb := if i + cl.tlb.length < n then cl.tlb else cl.tlb.eraseIdx (i + cl.tlb.length - n) }
    match clean[i]? with
    | some l => s.dropCopy c l
    | none => s

/-- What an uncorrectable error does. -/
def State.arrayFault (s : State) (loc : ArrayLoc) : State :=
  match loc with
  | .regRow c w t row =>
    (match s.warp? c w with
     | none => s
     | some wp => s.setWarp c w (wp.modThread t fun th => th.setCell row { th.cell row with poison := .array }))
  | .scratch c piece =>
    let k := s.core c
    s.setCore c { k with scratchPoison := if k.scratchPoison.contains piece then k.scratchPoison else piece :: k.scratchPoison }
  | .l1Dirty _ pa => s.poisonLine pa
  | .parityCached c => s.dropParity c
  | .scalarStore c st => if (s.scalarAt c st).halted then s else s.scalarHalt c st
  | .opLog c e => s.poisonEntry c e
  | .tile k l =>
    let cl := s.cluster k
    s.setCluster k { cl with tilePoison := if cl.tilePoison.contains l then cl.tilePoison else l :: cl.tilePoison }
  | .weightStore d l =>
    let die := s.die d
    s.setDie d { die with wsPoison := if die.wsPoison.contains l then die.wsPoison else l :: die.wsPoison }
  | .memory pa =>
    if (match (s.l2slice (channelOf pa)).lines.get? (pa / 128) with | some t => t.zero | none => false) then s else s.poisonLine pa
  | .taskEntry i e =>
    let sl := s.slice i
    (match sl.tasks.get? e with
     | none => s
     | some t => (s.setSlice i { sl with tasks := sl.tasks.set e { t with poisoned := true } }).tellPoison i)
  | .counter i n =>
    let sl := s.slice i
    (s.setSlice i { sl with dcPoison := if sl.dcPoison.contains n then sl.dcPoison else n :: sl.dcPoison }).tellPoison i
  | .directory _ => s.enterRecovery

/-- ARRAY_ERROR: a parity error of a clean copy counts as correctable. What a K-die held in reset has lost nobody reads. -/
def execArrayError (loc : ArrayLoc) (correctable : Bool) (s : State) : Host.Outcome State Fault Refusal :=
  .next <|
    let (cls, die, cl) := arrayPlace loc
    let parity := match loc with | .parityCached _ => true | _ => false
    if correctable then s.count (0 + 32 * die + 512 * cls) 1
    else if parity then (if s.hdie.down then s else s.arrayFault loc).count (0 + 32 * die + 512 * cls) 1
    else
      let s := s.count (1 + 32 * die + 512 * cls) 1
      if s.hdie.down then s
      else
        let s := s.arrayFault loc
        match cl with
        | some k => if s.hdie.down then s else s.clusterError k
        | none => s

/-! ### Lifetime counters (24:R368, Table 7) -/

/-- 60 s in dt. -/
def flushTime : Nat := 60 * 1300000000

/-- The counts are written to flash, as they are at device time `t`. -/
def State.flushCounts (s : State) (t : DWord) : State :=
  { s with hdie := { s.hdie with flashCounters := s.hdie.counters, lastFlush := t } }

/-- COUNTER_FLUSH: 60 s have passed. -/
def execCounterFlush (s : State) : Host.Outcome State Fault Refusal :=
  .next (if s.hdie.lastFlush.toNat + flushTime ≤ s.time.toNat then s.flushCounts s.time else s)

/-- POWER_DOWN: the counts are written; what then comes is as after power-on. -/
def execPowerDown (s : State) : Host.Outcome State Fault Refusal :=
  .next (s.flushCounts s.time).packageReset

/-- POWER_LOSS: the counts since the last write are lost. -/
def execPowerLoss (s : State) : Host.Outcome State Fault Refusal :=
  .next { s with hdie := { s.hdie with counters := s.hdie.flashCounters } }.packageReset

/-- The TEMP histogram's counts, per die and bucket of 5 °C. -/
def cTemp : Nat := 18
def tempKey (die temp : Nat) : Nat := cTemp + 32 * (26 * die + min 25 (temp / 5))

/-- The VOLT histogram's counts, per rail and bucket of 5 mV, 16 buckets below and 16 above nominal (log entry 88). -/
def cVolt : Nat := 19
def voltKey (rail : Nat) (mv : Int) : Nat := cVolt + 32 * (32 * rail + (min 31 (max 0 (mv / 5 + 16))).toNat)

/-- Seconds count in the histograms of every die and rail. -/
def State.countSecs (s : State) (secs : Nat) : State :=
  if secs = 0 then s
  else
    let s := ((List.range s.hdie.temps.length).zip s.hdie.temps).foldl (fun (s : State) x => s.count (tempKey x.1 x.2) secs) s
    ((List.range s.hdie.rails.length).zip s.hdie.rails).foldl (fun (s : State) x => s.count (voltKey x.1 x.2) secs) s

/-- Device time passes; each second counts, and every 60 s the counts are written to flash. -/
def State.passTime (s : State) (dt : Nat) : State :=
  let t := s.time + BitVec.ofNat 64 dt
  let sec := 1300000000
  let last := s.hdie.lastFlush.toNat
  if last + flushTime < t.toNat then
    let d := last + flushTime * ((t.toNat - last) / flushTime)
    let s' := (s.countSecs (d / sec - s.time.toNat / sec)).flushCounts (BitVec.ofNat 64 d)
    { s'.countSecs (t.toNat / sec - max d s.time.toNat / sec) with time := t }
  else { s.countSecs (t.toNat / sec - s.time.toNat / sec) with time := t }

/-- The counter that entry `n` of Table 7 names, in the table's order. -/
def counterKey (n : Nat) : Nat :=
  if n < 36 then 32 * (n % 4) + 512 * (n / 4)
  else if n < 72 then 1 + 32 * (n % 4) + 512 * ((n - 36) / 4)
  else if n < 136 then cTaskPoison + 32 * (n - 72)
  else if n < 200 then cDepPoison + 32 * (n - 136)
  else if n < 204 then cLateSave + 32 * (n - 200)
  else if n < 210 then n - 204 + cStalePrr
  else if n < 218 then cPause + 32 * (n - 210)
  else if n < 226 then cDfull + 32 * (n - 218)
  else if n < 234 then cDsize + 32 * (n - 226)
  else if n < 242 then cDfault + 32 * (n - 234)
  else if n = 242 then cThermtrip
  else if n = 243 then cPowercapAct
  else if n < 374 then cTemp + 32 * (n - 244)
  else cVolt + 32 * (n - 374)

/-- The value of entry `n`. -/
def State.counterValue (s : State) (n : Nat) : Nat := s.hdie.counters.getD (counterKey n) 0

/-- What a BAR0 register of Table 2 of chapter 23 or Table 4 of chapter 24, or a count in the counter window (24:R368), reads; none for one that is not listed as
readable: of the PF. -/
def State.bar0Read (s : State) (offset : Nat) : Option Nat :=
  let h := s.hdie
  match offset with
  | 0x000 => some h.rfqbase.toNat
  | 0x008 => some h.rfqsize
  | 0x010 => some h.rfqprod
  | 0x014 => some h.rfqcons
  | 0x018 => some h.rfqvec
  | 0x01C => some h.rfqdrop
  | 0x020 => some h.emid
  | 0x028 => some h.rqbase.toNat
  | 0x030 => some h.rqlog
  | 0x038 => some h.rqerr.toNat
  | 0x040 => some h.rqgo
  | 0x100 => some h.bootst
  | 0x108 => some h.planrec.toNat
  | 0x114 => some h.planst
  | 0x118 => some h.powercap
  | 0x11C => some h.recpage
  | off =>
    if 0x100000 ≤ off && off % 8 = 0 && off < 0x100000 + 8 * (374 + 32 * h.rails.length) then some (s.counterValue ((off - 0x100000) / 8))
    else none

/-! ### BAR0 (23 Tables 1 and 2, 24 Table 4; 24:R365) -/

/-- Is `n` a legal RFQSIZE? -/
def rfqSizeOk (n : Nat) : Bool := (List.range 13).any fun i => decide (n = 2 ^ (i + 4))

/-- The bytes of a PF control register. -/
def bar0Size (offset : Nat) : Nat := if [0x000, 0x028, 0x038, 0x108].contains offset then 8 else 4

/-- A write of a PF control register. A value out of range is ignored, that of POWERCAP clamped. -/
def State.bar0Write (s : State) (offset : Nat) (value : DWord) : State :=
  let h := s.hdie
  let v := value.toNat % 2 ^ 32
  let idle := decide (h.rfqprod = h.rfqcons)
  let set := fun (h : HDie) => { s with hdie := h }
  match offset with
  | 0x000 => if idle && value.toNat % 4096 == 0 then set { h with rfqbase := value } else s
  | 0x008 => if idle && rfqSizeOk v then set { h with rfqsize := v } else s
  | 0x014 => if v < h.rfqsize then set { h with rfqcons := v } else s
  | 0x018 => if v < 2048 then set { h with rfqvec := v } else s
  | 0x020 => if !h.trainedOnce && decide (v < 256) then set { h with emid := v } else s
  | 0x028 => if value.toNat % 4096 = 0 then set { h with rqbase := value } else s
  | 0x030 => if 4 ≤ v && v ≤ 16 then set { h with rqlog := v } else s
  | 0x038 => if value.toNat % 32 = 0 then set { h with rqerr := value } else s
  | 0x040 => s.rqGo v
  | 0x104 => if v = 1 then s.recGo else s
  | 0x108 => if value.toNat % 512 = 0 then set { h with planrec := value } else s
  | 0x110 => s.planGo v
  | 0x118 => set { h with powercap := clampCap v }
  | 0x11C => if v ≤ 8 then set { h with recpage := v } else s
  | _ => s

/-- The window on the H-die registers: aligned reads and writes of 8 bytes (23:R342). -/
def State.hwin (s : State) (r size : Nat) (value : Option DWord) : State :=
  if !s.hostOpen then s.notOpen
  else if r % 8 ≠ 0 || size ≠ 8 then s.send .unsupported
  else match value with
    | some v => s.hdieWrite r v
    | none => s.send (.readData (toBytes (s.hdieRead r) 8))

/-- An access to a place at which the spec puts nothing: a read returns a free value. -/
def State.bar0Nothing (s : State) (size : Nat) (value : Option DWord) : State :=
  match value with
  | some _ => s
  | none =>
    let (v, s) := s.takeFree (8 * size)
    s.send (.readData (toBytes v size))

/-- An access to a byte of a doorbell page: to the doorbell, or to what the spec puts nothing at. -/
def State.doorbellPage (s : State) (fn : HostFn) (off size : Nat) (value : Option DWord) : State :=
  if off % 4096 = 0 && size = 4 then s.doorbell fn none (off / 4096) (value.map fun v => v.setWidth 32)
  else if !s.hostOpen then s.notOpen
  else if !s.ownsPage fn (off / 4096) then s.send .unsupported
  else s.bar0Nothing size value

/-- REGISTER_WRITE: an access to BAR0, a write of `size` bytes or, without a value, a read. A PF control register is written
whole; what no register holds reads as a free value (log entry 110). -/
def execRegisterWrite (access : BarAccess) (value : Option DWord) (s : State) : Host.Outcome State Fault Refusal :=
  .next <|
    let fn := access.fn
    let offset := access.offset
    let size := access.size
    if !s.bar0Open then s
    else
      match fn with
      | .vf _ => s.doorbellPage fn offset size value
      | .pf =>
        if 0x1000000 ≤ offset then s.doorbellPage fn (offset - 0x1000000) size value
        else if 0x400000 ≤ offset && offset < 0x800000 then s.hwin (offset - 0x400000) size value
        else
          match value with
          | some v =>
            if 0x800000 ≤ offset then s.windowWrite (offset - 0x800000) (toBytes v.toNat size)
            else if size = bar0Size offset then s.bar0Write offset v
            else s
          | none =>
            match s.bar0Read offset with
            | some x => s.send (.readData (toBytes x size))
            | none => s.bar0Nothing size value

/-! ### Power and temperature (24:R370, R371) -/

/-- Must issue be throttled? -/
def HDie.hot (h : HDie) (power : Nat) (temps : List Nat) : Bool := decide (h.powercap < power) || temps.any fun t => decide (100 ≤ t)

/-- The sensors read power and temperatures: issue is throttled, each onset being counted, or no more. Only throughput
changes. -/
def State.readPower (s : State) (power : Nat) (temps : List Nat) : State :=
  let h := { s.hdie with power := power, temps := temps }
  let hot := h.hot power temps
  let s' := { s with hdie := { h with throttled := hot } }
  if hot && !h.throttled then s'.count cPowercapAct 1 else s'

/-- At 115 °C every K-die stops at once, and the package is held. -/
def State.trip (s : State) (temps : List Nat) : State :=
  let h := s.hdie
  (s.diesOff { h with
    bootst := 0xE3, tripped := true, pendingReset := none, recBuf := [], temps := temps, relocked := false,
    planst := (if h.planst = 3 then (if h.plan.isEmpty then 0 else 1) else h.planst), planNext := [] }).count cThermtrip 1

/-- What the sensors read: die temperatures, rail voltages, power (24:R370 to R372). -/
def State.sense (s : State) (temps : List Nat) (rails : List Int) (power : Nat) : State :=
  let s := { s with hdie := { s.hdie with rails := rails } }.readPower power temps
  if s.hdie.tripped || temps.all fun t => decide (t < 115) then s else s.trip temps

/-- THROTTLE_ONSET. -/
def execThrottleOnset (power : Nat) (dieTemp : List Nat) (s : State) : Host.Outcome State Fault Refusal :=
  .next (if s.hdie.throttled || !s.hdie.hot power dieTemp then s else s.readPower power dieTemp)

/-- THROTTLE_END. -/
def execThrottleEnd (power : Nat) (dieTemp : List Nat) (s : State) : Host.Outcome State Fault Refusal :=
  .next (if !s.hdie.throttled || s.hdie.hot power dieTemp then s else s.readPower power dieTemp)

/-- THERMAL_TRIP. -/
def execThermalTrip (die temp : Nat) (s : State) : Host.Outcome State Fault Refusal :=
  .next (if s.hdie.tripped || die ≥ 5 || temp < 115 then s else s.trip (setAt s.hdie.temps die temp))

/-- TRIP_RECOVERY: with every die below 95 °C a request that waits takes effect. After RECGO an accepted image of the buffer
goes to flash first. -/
def execTripRecovery (dieTemp : List Nat) (s : State) : Host.Outcome State Fault Refusal :=
  .next <|
    if !s.hdie.tripped || dieTemp.any (fun t => decide (95 ≤ t)) then s
    else
      let s' := { s with hdie := { s.hdie with temps := dieTemp } }
      match s.hdie.pendingReset with
      | none => s
      | some false => s'.packageReset
      | some true =>
        let img := s.hdie.bufferImage
        if imageOk s.hdie.svnFuse img then s'.recoverWith img else s'.packageReset

/-- PORT_RESET: during a trip a request for a package reset. -/
def execPortReset (port : Nat) (s : State) : Host.Outcome State Fault Refusal :=
  .next <|
    let h := s.hdie
    if port ≥ 2 || h.bootst ≠ 0xE3 || h.pendingReset.isSome then s
    else { s with hdie := { h with pendingReset := some false } }

/-! ### Management port and SPDM (24:R362, R372) -/

/-- MGMT_READ_SENSORS: die temperatures, rail voltages, module power. -/
def execMgmtReadSensors (s : State) : Host.Outcome State Fault Refusal :=
  .next (s.send (.mgmt (s.hdie.temps ++ (s.hdie.rails.map fun mv => wrap mv 32) ++ [s.hdie.power])))

/-- MGMT_READ_COUNTER. -/
def execMgmtReadCounter (n : Nat) (s : State) : Host.Outcome State Fault Refusal :=
  .next (s.send (.mgmt [s.counterValue n]))

/-- MGMT_SET_POWERCAP. -/
def execMgmtSetPowercap (watts : Nat) (s : State) : Host.Outcome State Fault Refusal :=
  .next <|
    let (v, s) := s.takeFree 8
    ({ s with hdie := { s.hdie with powercap := clampCap watts } }).send (.mgmt [v])

/-- MGMT_RECOVERY_CHUNK: up to 1,024 bytes of the recovery buffer. -/
def execMgmtRecoveryChunk (offset : Nat) (data : List Byte) (s : State) : Host.Outcome State Fault Refusal :=
  .next <|
    let (v, s) := s.takeFree 8
    let h := if data.length ≤ 1024 then s.hdie.bufferWrite offset data else s.hdie
    ({ s with hdie := h }).send (.mgmt [v])

/-- MGMT_RECOVERY_GO: as RECGO. -/
def execMgmtRecoveryGo (s : State) : Host.Outcome State Fault Refusal := .next s.recGo

/-- MGMT_PACKAGE_RESET: after a trip it waits as a port reset does. -/
def execMgmtPackageReset (s : State) : Host.Outcome State Fault Refusal := .next s.resetRequest

/-- MCTP_CONTROL: an answer whose contents the MCTP standard gives. -/
def execMctpControl (_message : List Byte) (s : State) : Host.Outcome State Fault Refusal :=
  .next <|
    let (v, s) := s.takeFree 1024
    s.send (.mgmt [v])

/-- MEASUREMENTS: the blocks of Table 3; with no image accepted, those of an image are not stated. -/
def execMeasurements (s : State) : Host.Outcome State Fault Refusal :=
  .next <|
    let h := s.hdie
    let (v, s) := s.takeFree 424
    let digest := if h.accepted.isEmpty then toBytes v 48 else sha3 h.accepted
    let raw := if h.accepted.isEmpty then (toBytes v 53).drop 48 else toBytes (imageVersion h.accepted) 4 ++ toBytes (imageSvn h.accepted) 1
    let plan := if h.plan.isEmpty then List.replicate 512 0 else h.plan
    ((((s.send (.measurement 1 (sha3 Config.bootRom))).send (.measurement 2 digest)).send (.measurement 3 raw)).send
      (.measurement 4 (toBytes h.fence.toNat 20))).send (.measurement 5 plan)

end Sys2Proof.Machine
end

