-- ==== Sys2Proof/Machine/Nest.lean ====
section
/-! DEFINITION. The loop-nest family (10:R170, R171; 09:R156). The unit changes once per instruction, provided some
executing thread's guard holds (03:R37). -/

namespace Sys2Proof.Machine

def fLnState : Nat := 26

/-- LEVEL as it is compared: 4 counts as −1 (10:R171). -/
def LoopNest.lev (l : LoopNest) : Int := if l.level = 4 then -1 else l.level

/-- LNSET i, trip: none where it faults. -/
def LoopNest.set (l : LoopNest) (i trip : Nat) : Option LoopNest :=
  if (i : Int) > l.lev + 1 || trip = 0 then none
  else some { l with n := setAt l.n i 0, trip := setAt l.trip i (BitVec.ofNat 32 trip), level := i }

/-- LNCOEF j (T 0 base, 1 stride of induction i, 2 clear). -/
def LoopNest.coefSet (l : LoopNest) (t j i v : Nat) : LoopNest :=
  { l with coef := modAt l.coef j fun k =>
      if t = 0 then { k with base := BitVec.ofNat 64 v }
      else if t = 1 then { k with strides := setAt k.strides i (BitVec.ofNat 32 v) }
      else ⟨0, List.replicate 4 0⟩ }

/-- LNLOOP: the unit after it and whether it branches; none where it faults. -/
def LoopNest.loop (l : LoopNest) : Option (LoopNest × Bool) :=
  if l.level = 4 then none
  else
    let n := modAt l.n l.level (· + 1)
    if (n.getD l.level 0).toNat < (l.trip.getD l.level 0).toNat then some ({ l with n := n }, true)
    else some ({ l with n := n, level := if l.level = 0 then 4 else l.level - 1 }, false)

/-- The odometer of LNNEXT from induction `k − 1` down: the unit, and the carry. -/
def LoopNest.tick : Nat → LoopNest → LoopNest × Bool
  | 0, l => (l, true)
  | k + 1, l =>
    let n := modAt l.n k (· + 1)
    if (n.getD k 0) = l.trip.getD k 0 then LoopNest.tick k { l with n := setAt n k 0 }
    else ({ l with n := n }, false)

/-- LNNEXT i. -/
def LoopNest.next (l : LoopNest) (i : Nat) : Option (LoopNest × Bool) :=
  if l.level = 4 || l.level < i then none else some (l.tick (i + 1))

/-- The shared form: `f` gives the new unit and the value of the destination from source B, or faults in every participant.
Where the participants' values of B differ, the lowest participant's is taken (DESIGN CHOICE, log entry 99). -/
def State.nest (s : State) (o : Ops) (f : LoopNest → Nat → Option (LoopNest × Nat)) : Host.Outcome State Fault Refusal :=
  s.issueWith 55 o false false id fun c slot wp r p s =>
    let site := siteOf wp 55 o 0 3
    match p.vals with
    | [] => s.endMoves c slot site p [] false o.brk
    | x :: _ =>
      match f wp.ln x.2.b with
      | none => s.endMoves c slot site p (p.vals.map fun y => (y.1, .flt fLnState 0 0)) false o.brk
      | some (l, v) =>
        let w := { wp with ln := l }
        let w := match Ops.dst o r with
          | some (d, n) => p.vals.foldl (fun (w : Warp) y => w.writeDst y.1 d n v) w
          | none => w
        (s.setWarp c slot w).endMoves c slot site p [] false o.brk

def execLnset (o : Ops) (s : State) : Host.Outcome State Fault Refusal :=
  s.nest o fun l b => (l.set o.t b).map fun l => (l, 0)

def execLncoef (o : Ops) (s : State) : Host.Outcome State Fault Refusal :=
  s.nest o fun l b => some (l.coefSet o.t (rawField o.d) (bits (wrap o.w2 32) 0 2) b, 0)

/-- LNLOOP branches with every participant, so it never forks. -/
def execLnloop (o : Ops) (s : State) : Host.Outcome State Fault Refusal :=
  s.issueWith 55 o false false id fun c slot wp _ p s =>
    let site := siteOf wp 55 o 0 3
    if p.vals.isEmpty then s.endMoves c slot site p [] false o.brk
    else
      match wp.ln.loop with
      | none => s.endMoves c slot site p (p.vals.map fun y => (y.1, .flt fLnState 0 0)) false o.brk
      | some (l, take) =>
        let target := relTarget (wp.issuePc.getD 0) o .none
        let ms := p.vals.map fun y => (y.1, Move.checked target take)
        let bad := !goodTarget target
        let s := if bad then s else s.setWarp c slot { wp with ln := l }
        s.endMoves c slot site p ms false o.brk

def execLnnext (o : Ops) (s : State) : Host.Outcome State Fault Refusal :=
  s.nest o fun l _ => (l.next o.t).map fun x => (x.1, if x.2 then 1 else 0)

def execLnget (o : Ops) (s : State) : Host.Outcome State Fault Refusal :=
  s.nest o fun l _ => some (l, (l.n.getD o.t 0).toNat)

end Sys2Proof.Machine
end

