-- ==== Sys2Proof/Machine/Tx.lean ====
section
/-! DEFINITION. Gambits: TXB, TXC, TXA, TXQ, and the two phases of a commit at the homes (10:R180 to R184). -/

namespace Sys2Proof.Machine

/-- TXB in one thread: opens, with empty sets, or dooms the open gambit with NESTED. -/
def Gambit.begin (g : Gambit) : Gambit := if g.opened then g.doom 10 else ⟨true, Option.none, 0, 0, [], [], []⟩

/-- TXA: EXPLICIT with the user code, unless the gambit is doomed already; nothing without an open gambit. -/
def Gambit.abort (g : Gambit) (user : Nat) : Gambit :=
  if g.opened && decide (g.code = 0) then { g with code := 9, user := user } else g

/-- The status word of TXQ (10 Table 6). -/
def Gambit.status (g : Gambit) : Nat := g.code + g.user * 2 ^ 8

/-- The outcome of a TXC: the gambit is closed, its sets are gone, and TXQ reports `code`. -/
def Gambit.finish (g : Gambit) (code : Nat) : Gambit := { g with opened := false, away := Option.none, code := code, reads := [], writes := [], vas := [] }

/-- The words of a gambit, without repeats. -/
def Gambit.words (g : Gambit) : List Nat := ((g.reads.map (·.1)) ++ (g.writes.map (·.1))).eraseDups

/-- Does the write set of one share a word with a set of the other (10:R182)? -/
def Gambit.conflicts (a b : Gambit) : Bool :=
  (a.writes.any fun x => b.words.contains x.1) || (b.writes.any fun x => a.words.contains x.1)

/-- Of the gambits offered, in ascending thread index, those that conflict with no lower winner. -/
def winners : List (Nat × Gambit) → List (Nat × Gambit) → List Nat
  | [], _ => []
  | x :: xs, won =>
    if won.any fun w => w.2.conflicts x.2 then winners xs won else x.1 :: winners xs (won ++ [x])

/-- The status code with which a participant fails at once, if it does. -/
def txFail (won : List Nat) (t : Nat) (g : Gambit) : Option Nat :=
  if !g.opened then some 13
  else if g.code ≠ 0 then some g.code
  else if won.contains t then none
  else some 2

/-- A gambit's instruction issues once the earlier tracked accesses of its participants have joined their sets: so a load
or store that dooms a gambit does it first (10:R180, R181). -/
def State.afterTracked (s : State) (c slot : Nat) (o : Ops) (wp : Warp) (p : Prep) (k : State → State) : State :=
  let ids := s.trackedOf c slot wp.uid (p.vals.map (·.1))
  if ids.isEmpty then k s else s.yieldBefore c slot (.ordered [] [] ids) (54 + o.x * 64)

def execTxb (o : Ops) (s : State) : Host.Outcome State Fault Refusal :=
  s.issue 54 o false fun c slot wp _ p s => s.afterTracked c slot o wp p fun s =>
    let w' := p.vals.foldl (fun (w : Warp) x => w.modThread x.1 fun th => { th with gambit := th.gambit.begin }) wp
    (s.setWarp c slot w').endMoves c slot (siteOf wp 54 o 0 3) p [] false o.brk

def execTxa (o : Ops) (s : State) : Host.Outcome State Fault Refusal :=
  s.issue 54 o false fun c slot wp _ p s => s.afterTracked c slot o wp p fun s =>
    let user := bits (wrap o.w2 32) 0 8
    let w' := p.vals.foldl (fun (w : Warp) x => w.modThread x.1 fun th => { th with gambit := th.gambit.abort user }) wp
    (s.setWarp c slot w').endMoves c slot (siteOf wp 54 o 0 3) p [] false o.brk

def execTxq (o : Ops) (s : State) : Host.Outcome State Fault Refusal :=
  s.issue 54 o false fun c slot wp r p s => s.afterTracked c slot o wp p fun s =>
    let rs := p.vals.filterMap fun x => (wp.thread? x.1).map fun th => (x.1, th.gambit.status, (0 : XFlags))
    let w' := wp.writeAll (Ops.dst o r) rs
    (s.setWarp c slot w').endMoves c slot (siteOf wp 54 o 0 3) p [] false o.brk

/-- The homes of words. -/
def homesOf (ws : List Nat) : List Nat := (ws.map fun w => channelOf (8 * w)).eraseDups

/-- A participant's outcome that is still to land in its predicate. -/
def State.txResult (s : State) (c slot uid t pred batch : Nat) (known : Option Nat) : Nat × State :=
  let (id, s) := s.takeId
  let r : Result :=
    { core := c, slot := slot, uid := uid, thread := t, lands := [.pred pred],
      words := (match known with | some v => [BitVec.ofNat 32 v] | none => []), ready := known.isSome, isDiv := false,
      faulted := false, batch := batch }
  (id, { s with results := s.results.set id r })

/-- TXC in one participant: it fails at once, or as the homes have answered (`early`), or its sets go to the homes of their
words. A gambit that touched no word commits. -/
def State.txThread (s : State) (c slot pred batch : Nat) (wp : Warp) (won : List Nat) (early : List (Nat × Nat)) (t : Nat) :
    Nat × State :=
  match wp.thread? t with
  | none => s.txResult c slot wp.uid t pred batch (some 0)
  | some th =>
    let close := fun (s : State) (code : Nat) => s.modWarp c slot fun w => w.modThread t fun th => { th with gambit := th.gambit.finish code }
    match (txFail won t th.gambit).or ((early.find? fun e => decide (e.1 = t)).map (·.2)) with
    | some code => (close s code).txResult c slot wp.uid t pred batch (some 0)
    | none =>
      let homes := homesOf th.gambit.words
      if homes.isEmpty then (close s 1).txResult c slot wp.uid t pred batch (some 1)
      else
        let s := s.modWarp c slot fun w => w.modThread t fun th => { th with gambit := { th.gambit with opened := false } }
        let (id, s) := s.txResult c slot wp.uid t pred batch none
        (id, { s with commits := s.commits.set id ⟨c, slot, wp.uid, t, pred, homes, [], none⟩ })

/-- The participants of a TXC that go on to the homes. -/
def Warp.txWinners (w : Warp) (ts : List Nat) : List Nat :=
  winners (ts.filterMap fun t => (w.thread? t).bind fun th =>
    if th.gambit.opened && decide (th.gambit.code = 0) then some (t, th.gambit) else none) []

/-- What the homes would answer now to a gambit whose words its core has no store to, if it is a failure. -/
def State.failsNow (s : State) (core : Nat) (g : Gambit) : Option Nat :=
  let ws := g.words
  if !(s.neededOf core (ws.map fun w => (8 * w, 8)) none).isEmpty then none
  else if ws.any fun w => (s.l2slice (channelOf (8 * w))).reserved.has w then some 4
  else if ws.any fun w => match s.vers.get? (8 * w) with | some r => decide (r.siblings.length > 1) | none => false then some 11
  else if g.reads.any fun x => regionOf (8 * x.1) == .ram && s.mem.readNat (8 * x.1) 8 != x.2.toNat then some 3
  else none

/-- The winners that fail at the homes before their threads' earlier accesses are performed: a TXC that fails orders nothing
(18:R288). Whether the homes answer so early is a free value. -/
def State.txEarly (s : State) (c slot : Nat) (wp : Warp) : List Nat → List (Nat × Nat) × State
  | [] => ([], s)
  | t :: ts =>
    let (early, s) := State.txEarly s c slot wp ts
    let code := (wp.thread? t).bind fun th => s.failsNow c th.gambit
    match code with
    | none => (early, s)
    | some code =>
      if (s.notGlobal c slot wp.uid [t]).isEmpty && (s.released c).isEmpty then (early, s)
      else
        let (b, s) := s.takeFree 1
        (if b = 1 then (t, code) :: early else early, s)

/-- The tracked accesses of the participants that their TXC waits for. A load that a doomed gambit has already translated,
and that reads none of its buffered bytes, is a relaxed load that the failing TXC leaves behind (18:R288). -/
def State.txWaits (s : State) (c slot : Nat) (wp : Warp) (ts : List Nat) : List Nat × List Nat :=
  let mine := s.acc.filter fun e => e.2.gambit && decide (e.2.core = c) && decide (e.2.slot = slot) &&
    decide (e.2.uid = wp.uid) && ts.contains e.2.thread
  let loose := fun (a : Access) => (match a.kind with | .load _ => true | _ => false) && !a.pas.isEmpty &&
    match wp.thread? a.thread with
    | some th => th.gambit.opened && decide (th.gambit.code ≠ 0) &&
        !(wordsIn a.ranges).any fun w => th.gambit.writes.has w
    | none => false
  ((mine.filter fun e => !loose e.2).map (·.1), (mine.filter fun e => loose e.2).map (·.1))

/-- TXC: a commit is acq_rel at .dev, so the earlier accesses of the threads that go on to the homes are waited for
(10:R183, 18:R282); one that fails orders nothing (18:R288). -/
def execTxc (o : Ops) (s : State) : Host.Outcome State Fault Refusal :=
  s.issue 54 o false fun c slot wp _ p s =>
    let wop := 54 + o.x * 64
    let ts := p.vals.map (·.1)
    let (tracked, loose) := s.txWaits c slot wp ts
    if !tracked.isEmpty then s.yieldBefore c slot (.ordered [] [] tracked) wop
    else
    let (early, s) := s.txEarly c slot wp (wp.txWinners ts)
    let won := (wp.txWinners ts).filter fun t => !early.any fun e => decide (e.1 = t)
    let before := s.notGlobal c slot wp.uid won
    if !before.isEmpty then s.yieldBefore c slot (.ordered [] [] before) wop
    else
      match (if won.isEmpty then some s else s.widen c) with
      | none => s.yieldBefore c slot (.ordered [] [] (s.released c)) wop
      | some s =>
      let s := { s with acc := s.acc.map fun (e : Nat × Access) => if loose.contains e.1 then (e.1, { e.2 with gambit := false }) else e }
      let (batch, s) := s.takeId
      let (ids, s) := ts.foldl (fun (acc : List Nat × State) t =>
        (let (id, s) := acc.2.txThread c slot (rawField o.d) batch wp (wp.txWinners ts) early t
         (acc.1 ++ [id], s))) (([] : List Nat), s)
      let s := if ids.isEmpty then s else s.modWarp c slot fun w => { w with wait := .results ids, waitOp := wop }
      s.endMoves c slot (siteOf wp 54 o 0 3) p [] false o.brk

/-! ### At the homes (10:R183) -/

/-- The gambit of a commit's thread. -/
def State.commitGambit (s : State) (k : Commit) : Gambit :=
  match s.warp? k.core k.slot with
  | none => Gambit.none
  | some wp => if wp.uid = k.uid then (match wp.thread? k.thread with | some th => th.gambit | none => Gambit.none) else Gambit.none

/-- Does some leaf of the thread's context map the word with VER? -/
def State.verPage (s : State) (ctx pa : Nat) : Bool :=
  match s.ctx? ctx with
  | none => false
  | some c => c.leaves.any fun f => f.v && f.ver && decide (f.pa ≤ pa) && decide (pa < f.pa + f.size)

/-- The context of a commit's warp. -/
def State.commitCtx (s : State) (k : Commit) : Nat := match s.warp? k.core k.slot with | some wp => wp.ctx | none => 0

/-- Validate the words of a gambit at one home: a failure code, or none. The home holds reservations of 1,024 words, which
only a commit of several homes takes (16:R243; 10:R183). Where several causes of failure hold at one home, and where several
homes fail, the code is that of the first tested here (DESIGN CHOICE, log entry 99). Each comparison is a request of the
context (16:R255). -/
def State.validate (s : State) (id home ctx : Nat) (single : Bool) (g : Gambit) : Option Nat × State :=
  let ws := g.words.filter fun w => decide (channelOf (8 * w) = home)
  let l := s.l2slice home
  if ws.any fun w => match l.reserved.get? w with | some o => decide (o ≠ id) | none => false then (some 4, s)
  else if !single && decide (1024 < l.reserved.length + ws.length) then (some 4, s)
  else if ws.any fun w => match s.vers.get? (8 * w) with | some r => decide (r.siblings.length > 1) | none => false then (some 11, s)
  else
    let (same, s) := (g.reads.filter fun x => decide (channelOf (8 * x.1) = home)).foldl (fun (acc : Bool × State) x =>
      (let (bs, _, s) := (acc.2.touchHome (8 * x.1) ctx 8 false).physRead none (8 * x.1) 8
       (acc.1 && decide (BitVec.ofNat 64 (ofBytes bs) = x.2), s))) (true, s)
    (if same then none else some 3, s)

/-- Write the words of a gambit at one home: masked bytes, on a VER page as one new sibling. -/
def State.commitWords (s : State) (ctx actor home : Nat) (g : Gambit) : State :=
  (g.writes.filter fun x => decide (channelOf (8 * x.1) = home)).foldl (fun s x =>
    let pa := 8 * x.1
    let (mask, v) := x.2
    let old := s.mem.read pa 8
    let new := (List.range 8).map fun i => if mask.getLsbD i then BitVec.ofNat 8 (v.toNat / 256 ^ i) else old.getD i 0
    let s := (s.touchHome pa ctx 8 true).recallLine (pa / 128)
    if s.verPage ctx pa then
      let r := s.verRec pa
      s.setVer pa r (r.replace (ofBytes new) actor)
    else
      match regionOf pa with
      | .ram => { s with mem := s.mem.write pa new }
      | _ => (List.range 8).foldl (fun s i => if mask.getLsbD i then (s.physWrite (pa + i) [BitVec.ofNat 8 (v.toNat / 256 ^ i)]).1 else s) s) s

/-- The outcome of a commit reaches its thread: its predicate is still to land. -/
def State.commitEnds (s : State) (id : Nat) (k : Commit) (code : Nat) : State :=
  let s := { s with commits := s.commits.del id }
  let s := s.modWarp k.core k.slot fun w =>
    if w.uid = k.uid then w.modThread k.thread fun th => { th with gambit := th.gambit.finish code } else w
  s.give (some id) [BitVec.ofNat 32 (if code = 1 then 1 else 0)]

/-- Release the words that a commit reserved at a home. -/
def State.unreserve (s : State) (id home : Nat) : State :=
  let l := s.l2slice home
  s.setL2 home { l with reserved := l.reserved.filter fun e => decide (e.2 ≠ id) }

/-- What must be at the homes before a gambit's words are compared: its core's own stores to them, what holder notes of their
lines name, and the stores that other cores have seen of their own. -/
def State.beforeValidate (s : State) (k : Commit) (ws : List Nat) : State :=
  let rs := ws.map fun w => (8 * w, 8)
  let s := s.globalAll k.core (s.neededOf k.core rs none)
  (s.publishFor none (linesOf rs)).settleSeen (some k.core) rs

/-- Would the comparison need a word that another commit holds? A home does not wait for it (10:R183). -/
def State.commitBlocked (s : State) (id : Nat) (k : Commit) (ws : List Nat) : Bool :=
  let rs := ws.map fun w => (8 * w, 8)
  let need := s.rangesOf (s.neededOf k.core rs none ++ s.seenOf (some k.core) rs) ++ s.publishRanges none (linesOf rs)
  need.any fun r => (s.l2slice (channelOf r.1)).reserved.any fun e => decide (e.2 ≠ id) && overlap (8 * e.1) 8 r.1 r.2

/-- Home `home` validates its words; a gambit of one home commits in the same step. -/
def execGambitValidate (id home : Nat) (s : State) : Host.Outcome State Fault Refusal :=
  .next <|
    match s.commits.get? id with
    | none => s
    | some k =>
      if !k.homes.contains home then s
      else
        let g := s.commitGambit k
        let ws := g.words.filter fun w => decide (channelOf (8 * w) = home)
        let single := decide ((homesOf g.words).length = 1)
        let (fail, s) := if s.commitBlocked id k ws then (some 4, s) else (s.beforeValidate k ws).validate id home (s.commitCtx k) single g
        if single then
          match fail with
          | some code => s.commitEnds id k code
          | none => (s.commitWords (s.commitCtx k) (actorOf k.core k.slot k.thread) home g).commitEnds id k 1
        else
          let rest := k.homes.filter (· ≠ home)
          match fail with
          | some code => { s with commits := s.commits.set id { k with homes := rest, failed := some (k.failed.getD code) } }
          | none =>
            let l := s.l2slice home
            let s := s.setL2 home { l with reserved := ws.foldl (fun m w => m.set w id) l.reserved }
            { s with commits := s.commits.set id { k with homes := rest, yes := k.yes ++ [home] } }

/-- Every home has answered: all write and release, or all release. -/
def execGambitCommit (id : Nat) (s : State) : Host.Outcome State Fault Refusal :=
  .next <|
    match s.commits.get? id with
    | none => s
    | some k =>
      if !k.homes.isEmpty then s
      else
        let g := s.commitGambit k
        let s := match k.failed with
          | some _ => s
          | none => k.yes.foldl (fun s h => s.commitWords (s.commitCtx k) (actorOf k.core k.slot k.thread) h g) s
        let s := k.yes.foldl (fun s h => s.unreserve id h) s
        s.commitEnds id k (k.failed.getD 1)

end Sys2Proof.Machine
end

