-- ==== Sys2Proof/Machine/WarpWide.lean ====
section
/-! DEFINITION. The warp-wide instructions (06:R100, R111, R117 to R120): all reads come before any write, and a uniform
destination receives one value in every copy a participant holds. -/

namespace Sys2Proof.Machine

/-- The end of a warp-wide instruction: write `rs`, raise the flags, let the faults be taken. Where all is uniform it takes
the lane once per copy (05:R74); the votes of a VOTE on a predicate are per thread. -/
def State.endWide (s : State) (c slot : Nat) (wp : Warp) (r : Roles) (p : Prep) (op : Nat) (o : Ops) (faults : List Flt)
    (rs : List (Nat × Nat)) (fl : XFlags) : State :=
  let w' := if rs.isEmpty then wp else (wp.writeAll (Ops.dst o r) (rs.map fun x => (x.1, x.2, fl)))
  (s.setWarp c slot (w'.nextPc (p.moving faults) o.form.len)).conclude c slot (siteOf wp op o 0 3) p.exec faults none
    false (if decide (op = 33) && decide (o.a = .none) then p.exec.length else wp.aluAc r o p.exec 1) o.brk

/-- A source as thread `t` reads it. -/
def State.readIn (s : State) (c : Nat) (wp : Warp) (win t n : Nat) (x : Opd) : Rd :=
  match wp.thread? t with
  | none => .val 0
  | some th => wp.readSrc (s.gidxOf c wp) s.time win t th n x

/-- Is the operand a window? -/
def Opd.isWindow : Opd → Bool
  | .src (.window _ _) _ => true
  | _ => false

/-- Does the operand lie beyond the thread's frame (05:R93)? -/
def Warp.beyondIn (w : Warp) (t n : Nat) (x : Opd) : Bool :=
  match w.thread? t with
  | none => false
  | some th => Opd.beyond th n x

/-- MOV T2: the first participant, ascending, that reads B without a fault gives the value (06:R111; a thread that has
faulted is no participant, 11:R189). -/
def firstRead (rd : Nat → Rd) : List Nat → List Flt × Option (Nat × Rd)
  | [] => ([], none)
  | t :: ts =>
    match rd t with
    | .flt code a => let (fs, q) := firstRead rd ts; (⟨t, code, 0, a⟩ :: fs, q)
    | v => ([], some (t, v))

def execMovFirst (o : Ops) (s : State) : Host.Outcome State Fault Refusal :=
  s.issueWith 27 o false false (fun r => if Opd.isWindow o.b then r else { r with b := .zero }) fun c slot wp r p s =>
    let win := match p.vals with | x :: _ => x.2.b | [] => 0
    let rd := fun t => if Warp.beyondIn wp t 1 o.b then Rd.flt fFrameIndex 0 else s.readIn c wp win t 1 o.b
    match firstRead rd (p.vals.map (·.1)) with
    | (_, some (t, .empty rows)) => s.yieldBefore c slot (.regs (rows.map fun j => (t, j))) 27
    | (fs, some (_, v)) =>
      let ts := (p.vals.map (·.1)).filter fun t => !fs.any fun f => decide (f.thread = t)
      s.endWide c slot wp r p 27 o (p.faults ++ fs) (ts.map fun t => (t, v.get)) 0
    | (fs, none) => s.endWide c slot wp r p 27 o (p.faults ++ fs) [] 0

/-- MOV T3: A of thread j = bits(b, 0, 5), under its own FP (06:R111). -/
def execMovFrom (o : Ops) (s : State) : Host.Outcome State Fault Refusal :=
  s.issueWith 27 o false false (fun r => if Opd.isWindow o.a then r else { r with a := .zero }) fun c slot wp r p s =>
    match p.vals with
    | [] => s.endWide c slot wp r p 27 o p.faults [] 0
    | x :: _ =>
      let j := bits x.2.b 0 5
      let alive := match wp.thread? j with | some th => th.alive && !Opd.beyond th 1 o.a | none => false
      let rd := if Opd.isWindow o.a then Rd.val x.2.a else if alive then s.readIn c wp 0 j 1 o.a else .val 0
      let ts := p.vals.map (·.1)
      match rd with
      | .empty rows => s.yieldBefore c slot (.regs (rows.map fun k => (j, k))) 27
      | .flt code a => s.endWide c slot wp r p 27 o (p.faults ++ ts.map fun t => ⟨t, code, 0, a⟩) [] 0
      | .val v => s.endWide c slot wp r p 27 o p.faults (ts.map fun t => (t, v)) 0

/-- The source thread of SHFL, by T (06:R117; the distance is an unsigned 32-bit number, log entry 22). -/
def shflFrom (t sel b : Nat) : Int :=
  match sel with
  | 0 => bits b 0 5
  | 1 => (t : Int) - b
  | 2 => (t : Int) + b
  | _ => ((t ^^^ bits b 0 5 : Nat) : Int)

/-- The source of each participant, until no further one faults: a thread that has faulted at its read is no participant,
and who names it reads its own A (06:R117, 11:R189; log entry 22). -/
def shflReads (from_ : Nat × Vals → List Nat → Nat) (rd : Nat → Nat × Vals → Rd) :
    Nat → List (Nat × Vals) → List (Nat × Nat × Rd) → List (Nat × Nat × Rd)
  | 0, _, out => out
  | n + 1, xs, out =>
    let ts := xs.map (·.1)
    let rs := xs.map fun x => (x.1, from_ x ts, rd (from_ x ts) x)
    let bad := rs.filter fun x => match x.2.2 with | .flt _ _ => true | _ => false
    if bad.isEmpty then out ++ rs
    else shflReads from_ rd n (xs.filter fun x => !bad.any fun y => decide (y.1 = x.1)) (out ++ bad)

def execShfl (o : Ops) (s : State) : Host.Outcome State Fault Refusal :=
  s.issueWith 30 o false false (fun r => if Opd.isWindow o.a then r else { r with a := .zero }) fun c slot wp r p s =>
    let bad := (p.vals.map (·.1)).filter fun t => Warp.beyondIn wp t 1 o.a
    let good := p.vals.filter fun x => !bad.contains x.1
    let from_ := fun (x : Nat × Vals) (ts : List Nat) =>
      let k := shflFrom x.1 o.t x.2.b
      if k < 0 || !ts.contains k.toNat then x.1 else k.toNat
    let rd := shflReads from_ (fun j x => if Opd.isWindow o.a then Rd.val x.2.a else s.readIn c wp 0 j 1 o.a) 33 good []
    let needs := rd.flatMap fun x => x.2.2.rows.map fun j => (x.2.1, j)
    if !needs.isEmpty then s.yieldBefore c slot (.regs needs) 30
    else
      let faults := p.faults ++ (bad.map fun t => ⟨t, fFrameIndex, 0, 0⟩) ++ rd.filterMap fun x => match x.2.2 with
        | .flt code a => some ⟨x.1, code, 0, a⟩
        | _ => none
      let oks := rd.filterMap fun x => match x.2.2 with
        | .val v => some (x.1, v)
        | _ => none
      let uni := match Ops.dst o r with | some (.reg (.g _), _) => true | _ => false
      let oks := if uni then (match oks with | [] => [] | x :: _ => oks.map fun y => (y.1, x.2)) else oks
      s.endWide c slot wp r p 30 o faults oks 0

/-- The identity of an operation (06 Table 10). -/
def redIdentity (op ty : Nat) : Nat :=
  let w := if ty = 3 then 64 else 32
  if ty = 2 then (match op with | 0 => 0 | 1 => Fmt.f32.inf false | _ => Fmt.f32.inf true)
  else match op with
    | 1 => if ty = 1 then 2 ^ w - 1 else 2 ^ (w - 1) - 1
    | 2 => if ty = 1 then 0 else 2 ^ (w - 1)
    | 3 => 2 ^ w - 1
    | _ => 0

/-- Two values combined (06 Table 10), but for the f32 sum. -/
def redTwo (op ty a b : Nat) : Nat × XFlags :=
  let w := if ty = 3 then 64 else 32
  let less := if ty = 1 then decide (a < b) else decide (sext a w < sext b w)
  if ty = 2 then (let q := Fmt.f32.minmax (decide (op = 2)) a b; (q.v, q.fl))
  else match op with
    | 0 => (wrap ((a + b : Nat) : Int) w, 0)
    | 1 => (if less then a else b, 0)
    | 2 => (if less then b else a, 0)
    | 3 => (a &&& b, 0)
    | 4 => (a ||| b, 0)
    | _ => (a ^^^ b, 0)

/-- REDUX over values; an empty set gives the identity (06:R118, R119). -/
def redAll (mode : RMode) (op ty : Nat) (vs : List Nat) : Nat × XFlags :=
  match vs with
  | [] => (redIdentity op ty, 0)
  | v :: rest =>
    if ty = 2 && op = 0 then
      let q := Fmt.f32.sumExact mode (vs.map Fmt.f32.decode)
      (q.v, q.fl)
    else
      let first := if ty = 2 then redTwo op ty v v else (v, 0)
      rest.foldl (fun acc x => let q := redTwo op ty acc.1 x; (q.1, acc.2 ||| q.2)) first

def execRedux (o : Ops) (s : State) : Host.Outcome State Fault Refusal :=
  s.issue 31 o false fun c slot wp r p s =>
    let q := redAll (RMode.ofRM o.rm) (rawField o.b) o.t (p.vals.map (·.2.a))
    s.endWide c slot wp r p 31 o p.faults (p.vals.map fun x => (x.1, q.1)) q.2

def execScan (o : Ops) (s : State) : Host.Outcome State Fault Refusal :=
  s.issue 32 o false fun c slot wp r p s =>
    let op := bits (rawField o.b) 0 3
    let ty := bits (rawField o.b) 3 2
    let one := fun (t : Nat) =>
      redAll (RMode.ofRM o.rm) op ty
        ((p.vals.filter fun y => if o.t = 0 then decide (y.1 ≤ t) else decide (y.1 < t)).map (·.2.a))
    let rs := p.vals.map fun x => (x.1, one x.1)
    s.endWide c slot wp r p 32 o p.faults (rs.map fun x => (x.1, x.2.1)) (rs.foldl (fun f x => f ||| x.2.2) 0)

/-- The result of VOTE over the votes by thread (06:R120). -/
def voteOn (t : Nat) (vs : List (Nat × Bool)) : Nat :=
  match t with
  | 0 => if vs.any (·.2) then 1 else 0
  | 1 => if vs.all (·.2) then 1 else 0
  | 2 => vs.foldl (fun n x => if x.2 then n + 2 ^ x.1 else n) 0
  | _ => if vs.all (·.2) || vs.all (fun x => !x.2) then 1 else 0

def execVote (o : Ops) (s : State) : Host.Outcome State Fault Refusal :=
  s.issue 33 o false fun c slot wp r p s =>
    let code := rawField o.b
    let vs := p.vals.map fun x =>
      (x.1, if bit code 3 then (match wp.thread? x.1 with | some th => th.pred (bits code 0 3) | none => false)
            else decide (x.2.a ≠ 0))
    let v := voteOn o.t vs
    s.endWide c slot wp r p 33 o p.faults (p.vals.map fun x => (x.1, v)) 0

end Sys2Proof.Machine
end

