-- ==== Sys2Proof/Machine/Dispatch.lean ====
section
/-! DEFINITION. One arm for each row of the table of operations and events. -/

namespace Sys2Proof.Machine

/-- The meaning of an instruction or event. -/
def exec (i : Instr) (s : State) : Host.Outcome State Fault Refusal :=
  match i with
  | .nop form w0 w1 w2 lit => Sys2Proof.Machine.execNop form w0 w1 w2 lit s
  | .add o => Sys2Proof.Machine.execAdd o s
  | .sub o => Sys2Proof.Machine.execSub o s
  | .mul o => Sys2Proof.Machine.execMul o s
  | .mulhn o => Sys2Proof.Machine.execMulhn o s
  | .fma o => Sys2Proof.Machine.execFma o s
  | .min o => Sys2Proof.Machine.execMin o s
  | .max o => Sys2Proof.Machine.execMax o s
  | .and o => Sys2Proof.Machine.execAnd o s
  | .or o => Sys2Proof.Machine.execOr o s
  | .xor o => Sys2Proof.Machine.execXor o s
  | .andn o => Sys2Proof.Machine.execAndn o s
  | .shl o => Sys2Proof.Machine.execShl o s
  | .shr o => Sys2Proof.Machine.execShr o s
  | .rot o => Sys2Proof.Machine.execRot o s
  | .bits o => Sys2Proof.Machine.execBits o s
  | .bfx o => Sys2Proof.Machine.execBfx o s
  | .bfi o => Sys2Proof.Machine.execBfi o s
  | .add64 o => Sys2Proof.Machine.execAdd64 o s
  | .sub64 o => Sys2Proof.Machine.execSub64 o s
  | .mul64 o => Sys2Proof.Machine.execMul64 o s
  | .fma64 o => Sys2Proof.Machine.execFma64 o s
  | .div o => Sys2Proof.Machine.execDiv o s
  | .rem o => Sys2Proof.Machine.execRem o s
  | .cmp o => Sys2Proof.Machine.execCmp o s
  | .cmp64 o => Sys2Proof.Machine.execCmp64 o s
  | .sel o => Sys2Proof.Machine.execSel o s
  | .mov o => Sys2Proof.Machine.execMov o s
  | .movFirst o => Sys2Proof.Machine.execMovFirst o s
  | .movFrom o => Sys2Proof.Machine.execMovFrom o s
  | .cvt o => Sys2Proof.Machine.execCvt o s
  | .fun_ o => Sys2Proof.Machine.execFun o s
  | .shfl o => Sys2Proof.Machine.execShfl o s
  | .redux o => Sys2Proof.Machine.execRedux o s
  | .scan o => Sys2Proof.Machine.execScan o s
  | .vote o => Sys2Proof.Machine.execVote o s
  | .getx o => Sys2Proof.Machine.execGetx o s
  | .putx o => Sys2Proof.Machine.execPutx o s
  | .lea o => Sys2Proof.Machine.execLea o s
  | .plog o => Sys2Proof.Machine.execPlog o s
  | .bra o => Sys2Proof.Machine.execBra o s
  | .braAlways o => Sys2Proof.Machine.execBraAlways o s
  | .braInd o => Sys2Proof.Machine.execBraInd o s
  | .brau o => Sys2Proof.Machine.execBrau o s
  | .call o => Sys2Proof.Machine.execCall o s
  | .calli o => Sys2Proof.Machine.execCalli o s
  | .ret o => Sys2Proof.Machine.execRet o s
  | .frame o => Sys2Proof.Machine.execFrame o s
  | .meet o => Sys2Proof.Machine.execMeet o s
  | .exit o => Sys2Proof.Machine.execExit o s
  | .exitCastle o => Sys2Proof.Machine.execExitCastle o s
  | .trap o => Sys2Proof.Machine.execTrap o s
  | .ld o => Sys2Proof.Machine.execLd o s
  | .st o => Sys2Proof.Machine.execSt o s
  | .ldp o => Sys2Proof.Machine.execLdp o s
  | .stp o => Sys2Proof.Machine.execStp o s
  | .lds o => Sys2Proof.Machine.execLds o s
  | .sts o => Sys2Proof.Machine.execSts o s
  | .srowset o => Sys2Proof.Machine.execSrowset o s
  | .srowget o => Sys2Proof.Machine.execSrowget o s
  | .atom o => Sys2Proof.Machine.execAtom o s
  | .red o => Sys2Proof.Machine.execRed o s
  | .fence o => Sys2Proof.Machine.execFence o s
  | .bar o => Sys2Proof.Machine.execBar o s
  | .bara o => Sys2Proof.Machine.execBara o s
  | .barw o => Sys2Proof.Machine.execBarw o s
  | .waitv o => Sys2Proof.Machine.execWaitv o s
  | .ntfy1 o => Sys2Proof.Machine.execNtfy1 o s
  | .ntfya o => Sys2Proof.Machine.execNtfya o s
  | .sleep o => Sys2Proof.Machine.execSleep o s
  | .waitfe o => Sys2Proof.Machine.execWaitfe o s
  | .txb o => Sys2Proof.Machine.execTxb o s
  | .txc o => Sys2Proof.Machine.execTxc o s
  | .txa o => Sys2Proof.Machine.execTxa o s
  | .txq o => Sys2Proof.Machine.execTxq o s
  | .lnset o => Sys2Proof.Machine.execLnset o s
  | .lncoef o => Sys2Proof.Machine.execLncoef o s
  | .lnloop o => Sys2Proof.Machine.execLnloop o s
  | .lnnext o => Sys2Proof.Machine.execLnnext o s
  | .lnget o => Sys2Proof.Machine.execLnget o s
  | .pbar o => Sys2Proof.Machine.execPbar o s
  | .mma o => Sys2Proof.Machine.execMma o s
  | .mxld o => Sys2Proof.Machine.execMxld o s
  | .mxst o => Sys2Proof.Machine.execMxst o s
  | .mxz o => Sys2Proof.Machine.execMxz o s
  | .mxcvt o => Sys2Proof.Machine.execMxcvt o s
  | .mxwait o => Sys2Proof.Machine.execMxwait o s
  | .mxslot o => Sys2Proof.Machine.execMxslot o s
  | .mxew o => Sys2Proof.Machine.execMxew o s
  | .tdset o => Sys2Proof.Machine.execTdset o s
  | .tdget o => Sys2Proof.Machine.execTdget o s
  | .tdinv o => Sys2Proof.Machine.execTdinv o s
  | .tdcopy o => Sys2Proof.Machine.execTdcopy o s
  | .cpy o => Sys2Proof.Machine.execCpy o s
  | .cpyw o => Sys2Proof.Machine.execCpyw o s
  | .cpyq o => Sys2Proof.Machine.execCpyq o s
  | .zfill o => Sys2Proof.Machine.execZfill o s
  | .l2wb o => Sys2Proof.Machine.execL2wb o s
  | .l2inv o => Sys2Proof.Machine.execL2inv o s
  | .wsopen o => Sys2Proof.Machine.execWsopen o s
  | .wslock o => Sys2Proof.Machine.execWslock o s
  | .wsref o => Sys2Proof.Machine.execWsref o s
  | .coll o => Sys2Proof.Machine.execColl o s
  | .pref o => Sys2Proof.Machine.execPref o s
  | .ldv o => Sys2Proof.Machine.execLdv o s
  | .stv o => Sys2Proof.Machine.execStv o s
  | .recon o => Sys2Proof.Machine.execRecon o s
  | .vcnt o => Sys2Proof.Machine.execVcnt o s
  | .enq o => Sys2Proof.Machine.execEnq o s
  | .post o => Sys2Proof.Machine.execPost o s
  | .tspawn o => Sys2Proof.Machine.execTspawn o s
  | .phase o => Sys2Proof.Machine.execPhase o s
  | .parrive o => Sys2Proof.Machine.execParrive o s
  | .pwait o => Sys2Proof.Machine.execPwait o s
  | .intr o => Sys2Proof.Machine.execIntr o s
  | .qstat o => Sys2Proof.Machine.execQstat o s
  | .ctxnew o => Sys2Proof.Machine.execCtxnew o s
  | .ctxgrant o => Sys2Proof.Machine.execCtxgrant o s
  | .ctxrevoke o => Sys2Proof.Machine.execCtxrevoke o s
  | .ctxmap o => Sys2Proof.Machine.execCtxmap o s
  | .ctxunmap o => Sys2Proof.Machine.execCtxunmap o s
  | .ctxrun o => Sys2Proof.Machine.execCtxrun o s
  | .ctxstop o => Sys2Proof.Machine.execCtxstop o s
  | .ctxq o => Sys2Proof.Machine.execCtxq o s
  | .ctxqattach o => Sys2Proof.Machine.execCtxqattach o s
  | .tretRetry o => Sys2Proof.Machine.execTretRetry o s
  | .tretSkip o => Sys2Proof.Machine.execTretSkip o s
  | .tretFixretry o => Sys2Proof.Machine.execTretFixretry o s
  | .tretKill o => Sys2Proof.Machine.execTretKill o s
  | .sysr o => Sys2Proof.Machine.execSysr o s
  | .sysw o => Sys2Proof.Machine.execSysw o s
  | .imask o => Sys2Proof.Machine.execImask o s
  | .lspost o => Sys2Proof.Machine.execLspost o s
  | .lswait o => Sys2Proof.Machine.execLswait o s
  | .elect o => Sys2Proof.Machine.execElect o s
  | .iret o => Sys2Proof.Machine.execIret o s
  | .lmTake rd rs1 => Sys2Proof.Machine.execLmTake rd rs1 s
  | .lmMeta rd => Sys2Proof.Machine.execLmMeta rd s
  | .lmDone rd rs1 => Sys2Proof.Machine.execLmDone rd rs1 s
  | .lmBase rs1 rs2 => Sys2Proof.Machine.execLmBase rs1 rs2 s
  | .lmSaddr rs1 => Sys2Proof.Machine.execLmSaddr rs1 s
  | .lmG2s rs1 rs2 => Sys2Proof.Machine.execLmG2s rs1 rs2 s
  | .lmS2g rs1 rs2 => Sys2Proof.Machine.execLmS2g rs1 rs2 s
  | .lmFlagEmpty rs1 rs2 => Sys2Proof.Machine.execLmFlagEmpty rs1 rs2 s
  | .lmFlagFull rs1 rs2 => Sys2Proof.Machine.execLmFlagFull rs1 rs2 s
  | .lmWaitfEmpty rs1 => Sys2Proof.Machine.execLmWaitfEmpty rs1 s
  | .lmWaitfFull rs1 => Sys2Proof.Machine.execLmWaitfFull rs1 s
  | .lmTime rd => Sys2Proof.Machine.execLmTime rd s
  | .lmTimeh rd => Sys2Proof.Machine.execLmTimeh rd s
  | .scalarCoreTrap core storer => Sys2Proof.Machine.execScalarCoreTrap core storer s
  | .resultArrival id => Sys2Proof.Machine.execResultArrival id s
  | .divResult id => Sys2Proof.Machine.execDivResult id s
  | .spillClaim core slot thread => Sys2Proof.Machine.execSpillClaim core slot thread s
  | .frameRefill core slot thread poisoned => Sys2Proof.Machine.execFrameRefill core slot thread poisoned s
  | .linkRecordRefill core slot thread => Sys2Proof.Machine.execLinkRecordRefill core slot thread s
  | .uniformCopyReturn core slot copy => Sys2Proof.Machine.execUniformCopyReturn core slot copy s
  | .laneArbitration core lane => Sys2Proof.Machine.execLaneArbitration core lane s
  | .warpReady core slot => Sys2Proof.Machine.execWarpReady core slot s
  | .pageResolved w page => Sys2Proof.Machine.execPageResolved w page s
  | .lateFault w => Sys2Proof.Machine.execLateFault w s
  | .tableWalk id => Sys2Proof.Machine.execTableWalk id s
  | .tlbShootdownComplete id => Sys2Proof.Machine.execTlbShootdownComplete id s
  | .sleepExpiry core slot => Sys2Proof.Machine.execSleepExpiry core slot s
  | .waitvTimeout id => Sys2Proof.Machine.execWaitvTimeout id s
  | .homeAccess id => Sys2Proof.Machine.execHomeAccess id s
  | .holderNote id => Sys2Proof.Machine.execHolderNote id s
  | .forcedPublish line => Sys2Proof.Machine.execForcedPublish line s
  | .directoryRecall line => Sys2Proof.Machine.execDirectoryRecall line s
  | .gambitValidate id home => Sys2Proof.Machine.execGambitValidate id home s
  | .gambitCommit id => Sys2Proof.Machine.execGambitCommit id s
  | .l2PortGrant slice => Sys2Proof.Machine.execL2PortGrant slice s
  | .bankRefreshStart die bank => Sys2Proof.Machine.execBankRefreshStart die bank s
  | .bankRefreshEnd die bank => Sys2Proof.Machine.execBankRefreshEnd die bank s
  | .operationStart cluster id => Sys2Proof.Machine.execOperationStart cluster id s
  | .tileFetchLine cluster id line => Sys2Proof.Machine.execTileFetchLine cluster id line s
  | .passGrant cluster => Sys2Proof.Machine.execPassGrant cluster s
  | .passComplete cluster => Sys2Proof.Machine.execPassComplete cluster s
  | .tileLineMove cluster => Sys2Proof.Machine.execTileLineMove cluster s
  | .copyLine die engine => Sys2Proof.Machine.execCopyLine die engine s
  | .promiseMissed core slot => Sys2Proof.Machine.execPromiseMissed core slot s
  | .collectiveExchange id news => Sys2Proof.Machine.execCollectiveExchange id news s
  | .cardNop queue => Sys2Proof.Machine.execCardNop queue s
  | .cardLaunch queue => Sys2Proof.Machine.execCardLaunch queue s
  | .cardSetc queue => Sys2Proof.Machine.execCardSetc queue s
  | .cardWrite queue => Sys2Proof.Machine.execCardWrite queue s
  | .cardIntr queue => Sys2Proof.Machine.execCardIntr queue s
  | .cardCtxnew queue => Sys2Proof.Machine.execCardCtxnew queue s
  | .cardCtxgrant queue => Sys2Proof.Machine.execCardCtxgrant queue s
  | .cardCtxrevoke queue => Sys2Proof.Machine.execCardCtxrevoke queue s
  | .cardCtxmap queue => Sys2Proof.Machine.execCardCtxmap queue s
  | .cardCtxunmap queue => Sys2Proof.Machine.execCardCtxunmap queue s
  | .cardCtxrun queue => Sys2Proof.Machine.execCardCtxrun queue s
  | .cardCtxstop queue => Sys2Proof.Machine.execCardCtxstop queue s
  | .cardCtxq queue => Sys2Proof.Machine.execCardCtxq queue s
  | .cardCtxqattach queue => Sys2Proof.Machine.execCardCtxqattach queue s
  | .launchCompletion id => Sys2Proof.Machine.execLaunchCompletion id s
  | .phalanxDispatch => Sys2Proof.Machine.execPhalanxDispatch s
  | .successorStart cluster entry => Sys2Proof.Machine.execSuccessorStart cluster entry s
  | .gatherTimeout slice queue => Sys2Proof.Machine.execGatherTimeout slice queue s
  | .phaseComplete ctx hdr => Sys2Proof.Machine.execPhaseComplete ctx hdr s
  | .interruptDelivery core slot => Sys2Proof.Machine.execInterruptDelivery core slot s
  | .tempoBoundary cluster => Sys2Proof.Machine.execTempoBoundary cluster s
  | .contextSave cluster => Sys2Proof.Machine.execContextSave cluster s
  | .contextRestore cluster => Sys2Proof.Machine.execContextRestore cluster s
  | .lateDieDeadline ctx die => Sys2Proof.Machine.execLateDieDeadline ctx die s
  | .pageRequestResponse ctx gen page => Sys2Proof.Machine.execPageRequestResponse ctx gen page s
  | .kcmdRead slice ksel => Sys2Proof.Machine.execKcmdRead slice ksel s
  | .kcmdWrite slice ksel kdat => Sys2Proof.Machine.execKcmdWrite slice ksel kdat s
  | .kcmdInvalidate slice ksel kdat edit => Sys2Proof.Machine.execKcmdInvalidate slice ksel kdat edit s
  | .kevtPop slice => Sys2Proof.Machine.execKevtPop slice s
  | .doorbellWrite fn pasid queue value => Sys2Proof.Machine.execDoorbellWrite fn pasid queue value s
  | .hostBar2Write fn addr data => Sys2Proof.Machine.execHostBar2Write fn addr data s
  | .hostBar2Read fn addr len => Sys2Proof.Machine.execHostBar2Read fn addr len s
  | .msixUnmask fn entry => Sys2Proof.Machine.execMsixUnmask fn entry s
  | .rqgo value => Sys2Proof.Machine.execRqgo value s
  | .ringDescriptorWrite port ring word value => Sys2Proof.Machine.execRingDescriptorWrite port ring word value s
  | .steeringWrite port index value => Sys2Proof.Machine.execSteeringWrite port index value s
  | .stripeSetWrite set word value => Sys2Proof.Machine.execStripeSetWrite set word value s
  | .registerWrite access value => Sys2Proof.Machine.execRegisterWrite access value s
  | .lockInterface fn ctx => Sys2Proof.Machine.execLockInterface fn ctx s
  | .tdiUnlock fn next => Sys2Proof.Machine.execTdiUnlock fn next s
  | .tdiScrubDone fn => Sys2Proof.Machine.execTdiScrubDone fn s
  | .measurements => Sys2Proof.Machine.execMeasurements s
  | .expanderFailure port => Sys2Proof.Machine.execExpanderFailure port s
  | .wblkWriteRelease id => Sys2Proof.Machine.execWblkWriteRelease id s
  | .frameReceive f => Sys2Proof.Machine.execFrameReceive f s
  | .pfcRefresh port pri => Sys2Proof.Machine.execPfcRefresh port pri s
  | .pauseBudgetExpiry port ring => Sys2Proof.Machine.execPauseBudgetExpiry port ring s
  | .ingestTaskPost port ring => Sys2Proof.Machine.execIngestTaskPost port ring s
  | .linkTraining link emid identity => Sys2Proof.Machine.execLinkTraining link emid identity s
  | .peerLost peer => Sys2Proof.Machine.execPeerLost peer s
  | .remoteAccess peer pa op len => Sys2Proof.Machine.execRemoteAccess peer pa op len s
  | .packageReset => Sys2Proof.Machine.execPackageReset s
  | .bootStageAdvance ok failed => Sys2Proof.Machine.execBootStageAdvance ok failed s
  | .recoveryWindowWrite offset data => Sys2Proof.Machine.execRecoveryWindowWrite offset data s
  | .recgo => Sys2Proof.Machine.execRecgo s
  | .planApply => Sys2Proof.Machine.execPlanApply s
  | .planDefault => Sys2Proof.Machine.execPlanDefault s
  | .pllRelock => Sys2Proof.Machine.execPllRelock s
  | .arrayError loc correctable => Sys2Proof.Machine.execArrayError loc correctable s
  | .counterFlush => Sys2Proof.Machine.execCounterFlush s
  | .powerDown => Sys2Proof.Machine.execPowerDown s
  | .throttleOnset power dieTemp => Sys2Proof.Machine.execThrottleOnset power dieTemp s
  | .thermalTrip die temp => Sys2Proof.Machine.execThermalTrip die temp s
  | .tripRecovery dieTemp => Sys2Proof.Machine.execTripRecovery dieTemp s
  | .mgmtReadSensors => Sys2Proof.Machine.execMgmtReadSensors s
  | .mgmtReadCounter n => Sys2Proof.Machine.execMgmtReadCounter n s
  | .mgmtSetPowercap watts => Sys2Proof.Machine.execMgmtSetPowercap watts s
  | .mgmtRecoveryChunk offset data => Sys2Proof.Machine.execMgmtRecoveryChunk offset data s
  | .mgmtRecoveryGo => Sys2Proof.Machine.execMgmtRecoveryGo s
  | .mgmtPackageReset => Sys2Proof.Machine.execMgmtPackageReset s
  | .rv32imcInstruction j => Sys2Proof.Machine.execRv32imcInstruction j s
  | .scalarCoreProgramLoad core storer ctx program => Sys2Proof.Machine.execScalarCoreProgramLoad core storer ctx program s
  | .hostAtomicop fn addr size kind operand compare => Sys2Proof.Machine.execHostAtomicop fn addr size kind operand compare s
  | .startInterface fn => Sys2Proof.Machine.execStartInterface fn s
  | .spdmKeyExchange fn session => Sys2Proof.Machine.execSpdmKeyExchange fn session s
  | .emarisLinkFailure link => Sys2Proof.Machine.execEmarisLinkFailure link s
  | .powerLoss => Sys2Proof.Machine.execPowerLoss s
  | .throttleEnd power dieTemp => Sys2Proof.Machine.execThrottleEnd power dieTemp s
  | .portReset port => Sys2Proof.Machine.execPortReset port s
  | .mctpControl message => Sys2Proof.Machine.execMctpControl message s

end Sys2Proof.Machine
end

