-- ==== Sys2Proof/WellFormed.lean ====
section
/-! DEFINITION. Which instructions are well formed: for a lane instruction, that its operands are what the entry's roles
allow and that its encoding has room for them (chapter 03); for an Xlm instruction, register numbers; for an event, that it
names units that exist. -/

namespace Sys2Proof

open Machine

/-! ### Operands of lane instructions (03:R41 to R46) -/

/-- May the source stand for an operand of `n` words? `uni`: it must be uniform; `wide`: its field has 8 bits; `slot`: a
window may replace it; `lit`: the instruction carries a literal in its place; `e`: its trap-if-empty bit. -/
def Src.fits (s : Src) (n : Nat) (uni wide slot lit e : Bool) : Bool :=
  match s with
  | .reg g => !lit && g.names n && decide (g.code < (if wide then 160 else 128)) && !(uni && (Src.reg g).perThread)
  | .lit _ => lit && !e
  | .window k off => slot && !lit && !e && decide (k < 8) && decide (off < 2 ^ 17) && (n == 1 || (n == 2 && off % 2 == 0))
  | .pred p => wide && !lit && !e && decide (p < 8) && !uni
  | .inline v => wide && !lit && !e && decide (-16 ≤ v) && decide (v ≤ 15)
  | .zero => wide && !lit && !e
  | .tid => wide && !lit && !e && !uni
  | .widx => wide && !lit && !e
  | .gidx => wide && !lit && !e
  | .dtlo => wide && !lit && !e

/-- May the operand stand in a field of this role that is no destination? -/
def Opd.fitsSrc (d : Opd) (r : Role) (wide slot lit : Bool) : Bool :=
  match r, d with
  | .zero, .none => true
  | .hidden, .src .zero _ => true
  | .num ok3 ok4, .num n => decide (n < (if wide then 256 else 128)) && ok3 n && ok4 n
  | .src n, .src s e => s.fits n false wide slot lit e
  | .usrc n, .src s e => s.fits n true wide slot lit e
  | _, _ => false

/-- May the destination stand for one of this role, of `n` words? -/
def Dst.fits (d : Dst) (r : Role) (n : Nat) (wide : Bool) : Bool :=
  match d with
  | .reg g =>
    g.names n && decide (g.code < (if wide then 160 else 128)) &&
    (match r with
     | .udst _ => (match g with | .g _ => true | .v _ => false)
     | .vdst _ => (match g with | .v _ => true | .g _ => false)
     | _ => true)
  | .pred p => wide && decide (p < 8) && (match r with | .udst _ => false | _ => true)
  | .discard => wide && (match r with | .udst _ => false | _ => true)

/-- May the operand stand in field D? -/
def Opd.fitsD (d : Opd) (r : Role) : Bool :=
  match r.dstWords, d with
  | some n, .dst x => x.fits r n false
  | some _, _ => false
  | Option.none, d => d.fitsSrc r false false false

/-- Does the operand name a window, a literal? -/
def Opd.isWindow (d : Opd) : Bool := d.window?.isSome
def Opd.isLit (d : Opd) : Bool := d.lit?.isSome

/-! ### The checks on a lane instruction -/

/-- Every field has room in the encoding (03 Tables 2 and 3). -/
def Ops.fieldsOk (o : Ops) : Bool :=
  decide (o.t < 4) && decide (o.x < 128) && decide (o.rm < 8) && decide (o.ov < 4) && decide (o.sc < 8) &&
  (match o.guard with | .always => true | .on p _ => decide (p < 8))

/-- The form has the words the operands need (03:R33, R40): without words 1 and 2 their fields are zero; there is a literal
exactly where B is one. -/
def Ops.formOk (op : Nat) (o : Ops) : Bool :=
  (if op < 47 then o.x == 0 else o.form.hasExt) && (o.form.hasLit == o.b.isLit) &&
  (o.form.hasExt ||
   (decide (o.guard = .always) && o.x == 0 && o.rm == 0 && o.ov == 0 && o.sc == 0 && decide (o.w2 = 0) &&
    o.c.field8 == 0 && !o.a.trap && !o.b.trap && !o.c.trap && !o.dstInC && o.window?.isNone))

/-- The operands are those of the roles; with the destination in C, D holds nothing (03:R43). -/
def Ops.operandsOk (r : Roles) (o : Ops) : Bool :=
  let one := fun (x y : Bool) => !(x && y)
  o.a.fitsSrc r.a false (r.slots 0) false && o.b.fitsSrc r.b false (r.slots 1) o.form.hasLit &&
  (if o.dstInC then
     r.viaC && (match r.d.dstWords, o.c with | some n, .dst x => x.fits r.d n true | _, _ => false) &&
     (match r.c with | .zero => true | _ => false)
   else
     o.d.fitsD r.d &&
     (match r.c with
      | .udst n => (match o.c with | .dst x => x.fits r.c n true | _ => false)
      | _ => o.c.fitsSrc r.c true (r.slots 2) false)) &&
  one o.a.isWindow o.b.isWindow && one o.a.isWindow o.c.isWindow && one o.b.isWindow o.c.isWindow

/-- The codes and the guard are legal (03:R36 to R39, R45). -/
def Ops.codesOk (r : Roles) (o : Ops) : Bool :=
  let wg := o.d.writesG || o.c.writesG
  let ge := decide (o.guard ≠ .always)
  r.rm o.rm && r.ov o.ov && r.sc3 o.sc && r.sc4 o.sc && !(r.extOnly && !o.form.hasExt) && !(r.noGuard && ge) && !(ge && wg) &&
  (r.mixed || !((o.d.writesG || (o.dstInC && o.c.writesG)) && (o.a.perThread || o.b.perThread || o.c.perThread)))

/-- Word 2 is what the entry makes it, or the word of a window (03:R40, Table 4b). -/
def Ops.word2Ok (r : Roles) (o : Ops) : Bool :=
  if o.window?.isSome then
    r.kw && (match r.w2 with
      | .unused => decide (o.w2 = 0)
      | .imm => decide (-512 ≤ o.w2) && decide (o.w2 < 512)
      | .field _ _ => false)
  else
    match r.w2 with
    | .unused => decide (o.w2 = 0)
    | .imm => decide (-(2 ^ 31) ≤ o.w2) && decide (o.w2 < 2 ^ 31)
    | .field ok3 ok4 => decide (0 ≤ o.w2) && decide (o.w2 < 2 ^ 32) && ok3 o.w2.toNat && ok4 o.w2.toNat

/-- A literal fits the operand it is for (03:R42). -/
def Ops.literalOk (op : Nat) (r : Roles) (o : Ops) : Bool :=
  match o.b.lit? with
  | some v => r.lit && litFits (litSigned op o.x o.t) ((r.b.srcWords).getD 2) v.toNat
  | none => true

/-- A lane instruction of major `op` with these operands. -/
def Ops.wf (op : Nat) (o : Ops) : Bool :=
  o.fieldsOk && o.formOk op &&
  (match roles op o.x o.t o.form.hasExt o.a.field o.b.field (if o.form.hasExt then o.word2 else 0) with
   | none => false
   | some r => o.operandsOk r && o.codesOk r && o.word2Ok r && o.literalOk op r)

/-- NOP: major 0 in word 0, its form in L, and zero in the words it has not (03 Table 7). -/
def nopOk (form : Form) (w0 w1 w2 : Word) (lit : DWord) : Bool :=
  bits w0.toNat 3 6 == 0 && bits w0.toNat 0 2 == form.code && (form.hasExt || (decide (w1 = 0) && decide (w2 = 0))) &&
  (form.hasLit || decide (lit = 0))

/-! ### Events -/

def coreOk (c : Nat) : Bool := decide (c < 640)
def slotOk (c w : Nat) : Bool := coreOk c && decide (w < 256)
def threadOk (c w t : Nat) : Bool := slotOk c w && decide (t < 32)
def clusterOk (k : Nat) : Bool := decide (k < 160)
def sliceOk (i : Nat) : Bool := decide (i < 64)
def queueOk (q : Nat) : Bool := decide (q < 4096)
def portOk (p : Nat) : Bool := decide (p < 8)

def HostFn.ok : HostFn → Bool
  | .pf => true
  | .vf n => decide (n < 255)

def WaitRef.ok : WaitRef → Bool
  | .access _ => true
  | .warp c w => slotOk c w
  | .op k _ => clusterOk k
  | .copy d e => decide (d < 4) && decide (e < 16)
  | .scalar c _ => coreOk c
  | .coll _ => true
  | .queue q => queueOk q
  | .card k e => clusterOk k && decide (e < 128)
  | .launch _ => true

/-- A page within the virtual and the physical address space. -/
def PageIn.ok (p : PageIn) : Bool := decide (p.va + p.size ≤ 2 ^ 57) && decide (p.pa + p.size ≤ 2 ^ 52)

def PageMove.ok (m : PageMove) : Bool := decide (m.old + m.size ≤ 2 ^ 52) && decide (m.new + m.size ≤ 2 ^ 52)

def ArrayLoc.ok : ArrayLoc → Bool
  | .regRow c w t row => threadOk c w t && decide (row < 4096)
  | .scratch c piece => coreOk c && decide (piece < 32768)
  | .l1Dirty c pa => coreOk c && decide (pa < 0x90000000000)
  | .parityCached c => coreOk c
  | .scalarStore c _ => coreOk c
  | .opLog c e => coreOk c && decide (e < 256)
  | .tile k l => clusterOk k && decide (l < 4096)
  | .weightStore d l => decide (d < 4) && decide (l < 2 ^ 21)
  | .memory pa => decide (pa < 0x90000000000)
  | .taskEntry i e => sliceOk i && decide (e < 32768)
  | .counter i n => sliceOk i && decide (n < 16384)
  | .directory d => decide (d < 4)

/-- An access of `len` bytes: an atomic takes in 4 or 8, an access of family 59 a word. -/
def RemoteOp.ok (o : RemoteOp) (len : Nat) : Bool :=
  match o with
  | .read => true
  | .write bs => decide (bs.length = len)
  | .atomic op _ _ => decide (op < 15) && (len == 4 || len == 8)
  | .ldv _ => len == 8
  | .stv token v => len == 8 && decide (token < 2 ^ 32) && decide (v < 2 ^ 64)
  | .recon merge v => len == 8 && decide (merge < 7) && decide (v < 2 ^ 64)
  | .vcnt => len == 8

/-- An instruction of RV32IMC with register numbers below 32. -/
def RvInstr.ok (i : RvInstr) : Bool :=
  decide (i.rd < 32) && decide (i.rs1 < 32) && decide (i.rs2 < 32) && (i.len == 2 || i.len == 4)

/-! ### Instructions -/

/-- Is the instruction well formed? -/
def Instr.wf (i : Instr) : Bool :=
  match i with
  | .nop form w0 w1 w2 lit => nopOk form w0 w1 w2 lit
  | .lmTake rd rs1 => decide (rd < 32) && decide (rs1 < 32)
  | .lmMeta rd => decide (rd < 32)
  | .lmDone rd rs1 => decide (rd < 32) && decide (rs1 < 32)
  | .lmBase rs1 rs2 => decide (rs1 < 32) && decide (rs2 < 32)
  | .lmSaddr rs1 => decide (rs1 < 32)
  | .lmG2s rs1 rs2 => decide (rs1 < 32) && decide (rs2 < 32)
  | .lmS2g rs1 rs2 => decide (rs1 < 32) && decide (rs2 < 32)
  | .lmFlagEmpty rs1 rs2 => decide (rs1 < 32) && decide (rs2 < 32)
  | .lmFlagFull rs1 rs2 => decide (rs1 < 32) && decide (rs2 < 32)
  | .lmWaitfEmpty rs1 => decide (rs1 < 32)
  | .lmWaitfFull rs1 => decide (rs1 < 32)
  | .lmTime rd => decide (rd < 32)
  | .lmTimeh rd => decide (rd < 32)
  | .scalarCoreTrap core _ => coreOk core
  | .resultArrival _ => true
  | .divResult _ => true
  | .spillClaim core slot thread => threadOk core slot thread
  | .frameRefill core slot thread _ => threadOk core slot thread
  | .linkRecordRefill core slot thread => threadOk core slot thread
  | .uniformCopyReturn core slot copy => slotOk core slot && decide (copy < 33)
  | .laneArbitration core lane => coreOk core && decide (lane < 32)
  | .warpReady core slot => slotOk core slot
  | .pageResolved w page => w.ok && page.ok
  | .lateFault w => w.ok
  | .tableWalk _ => true
  | .tlbShootdownComplete _ => true
  | .sleepExpiry core slot => slotOk core slot
  | .waitvTimeout _ => true
  | .homeAccess _ => true
  | .holderNote _ => true
  | .forcedPublish _ => true
  | .directoryRecall _ => true
  | .gambitValidate _ home => decide (home < 256)
  | .gambitCommit _ => true
  | .l2PortGrant slice => decide (slice < 256)
  | .bankRefreshStart die bank => decide (die < 4) && decide (bank < 32)
  | .bankRefreshEnd die bank => decide (die < 4) && decide (bank < 32)
  | .operationStart cluster _ => clusterOk cluster
  | .tileFetchLine cluster _ _ => clusterOk cluster
  | .passGrant cluster => clusterOk cluster
  | .passComplete cluster => clusterOk cluster
  | .tileLineMove cluster => clusterOk cluster
  | .copyLine die engine => decide (die < 4) && decide (engine < 16)
  | .promiseMissed core slot => slotOk core slot
  | .collectiveExchange _ _ => true
  | .cardNop queue => queueOk queue
  | .cardLaunch queue => queueOk queue
  | .cardSetc queue => queueOk queue
  | .cardWrite queue => queueOk queue
  | .cardIntr queue => queueOk queue
  | .cardCtxnew queue => queueOk queue
  | .cardCtxgrant queue => queueOk queue
  | .cardCtxrevoke queue => queueOk queue
  | .cardCtxmap queue => queueOk queue
  | .cardCtxunmap queue => queueOk queue
  | .cardCtxrun queue => queueOk queue
  | .cardCtxstop queue => queueOk queue
  | .cardCtxq queue => queueOk queue
  | .cardCtxqattach queue => queueOk queue
  | .launchCompletion _ => true
  | .phalanxDispatch => true
  | .successorStart cluster entry => clusterOk cluster && decide (entry < 128)
  | .gatherTimeout slice queue => sliceOk slice && queueOk queue
  | .phaseComplete _ _ => true
  | .interruptDelivery core slot => slotOk core slot
  | .tempoBoundary cluster => clusterOk cluster
  | .contextSave cluster => clusterOk cluster
  | .contextRestore cluster => clusterOk cluster
  | .lateDieDeadline _ die => decide (die < 4)
  | .pageRequestResponse _ _ page => page.ok
  | .kcmdRead slice _ => sliceOk slice
  | .kcmdWrite slice _ _ => sliceOk slice
  | .kcmdInvalidate slice _ _ edit => sliceOk slice && (match edit with | some m => m.ok | none => true)
  | .kevtPop slice => sliceOk slice
  | .doorbellWrite fn _ _ _ => fn.ok
  | .hostBar2Write fn _ data => fn.ok && decide (data.length ≤ 4096)
  | .hostBar2Read fn _ len => fn.ok && decide (len ≤ 4096)
  | .msixUnmask fn e => fn.ok && decide (e.vec < 2048)
  | .rqgo _ => true
  | .ringDescriptorWrite port ring word _ => portOk port && decide (ring < 64) && decide (word < 8)
  | .steeringWrite port index _ => portOk port && decide (index ≤ 64)
  | .stripeSetWrite set word _ => decide (set < 256) && decide (word < 32)
  | .registerWrite a _ => a.fn.ok && decide (0 < a.size) && decide (a.size ≤ 8) && decide (a.offset + a.size ≤ 32 * 2 ^ 20)
  | .lockInterface fn ctx => decide (fn < 255) && decide (ctx < 65536)
  | .tdiUnlock fn next => decide (fn < 255) && decide (next < 4)
  | .tdiScrubDone fn => decide (fn < 255)
  | .measurements => true
  | .expanderFailure port => decide (port < 4)
  | .wblkWriteRelease _ => true
  | .frameReceive f => portOk f.port
  | .pfcRefresh port pri => portOk port && decide (pri < 8)
  | .pauseBudgetExpiry port ring => portOk port && decide (ring < 64)
  | .ingestTaskPost port ring => portOk port && decide (ring < 64)
  | .linkTraining link emid _ => decide (link < 12) && decide (emid < 256)
  | .peerLost peer => decide (peer < 256)
  | .remoteAccess peer _ op len => decide (peer < 256) && decide (len ≤ 4096) && op.ok len
  | .packageReset => true
  | .bootStageAdvance _ _ => true
  | .recoveryWindowWrite offset data => decide (offset + data.length ≤ 8 * 2 ^ 20)
  | .recgo => true
  | .planApply => true
  | .planDefault => true
  | .pllRelock => true
  | .arrayError loc _ => loc.ok
  | .counterFlush => true
  | .powerDown => true
  | .throttleOnset _ dieTemp => decide (dieTemp.length = 5)
  | .thermalTrip die _ => decide (die < 5)
  | .tripRecovery dieTemp => decide (dieTemp.length = 5)
  | .mgmtReadSensors => true
  | .mgmtReadCounter _ => true
  | .mgmtSetPowercap _ => true
  | .mgmtRecoveryChunk _ data => decide (data.length ≤ 1024)
  | .mgmtRecoveryGo => true
  | .mgmtPackageReset => true
  | .rv32imcInstruction i => i.ok
  | .scalarCoreProgramLoad core _ ctx _ => coreOk core && decide (ctx < 65536)
  | .hostAtomicop fn _ size kind _ _ => fn.ok && (size == 4 || size == 8) && decide (kind < 3)
  | .startInterface fn => decide (fn < 255)
  | .spdmKeyExchange fn _ => decide (fn < 255)
  | .emarisLinkFailure link => decide (link < 12)
  | .powerLoss => true
  | .throttleEnd _ dieTemp => decide (dieTemp.length = 5)
  | .portReset port => decide (port < 2)
  | .mctpControl _ => true
  | i =>
    match i.lane? with
    | some (op, o) => o.wf op && decide (build op o.x o.t o = some i)
    | none => false

/-- Is it an event, which no program holds? -/
def Instr.isEvent (i : Instr) : Bool :=
  match i with
  | .rv32imcInstruction _ => false
  | i => (encode i).isEmpty

end Sys2Proof
end

