-- ==== Sys2Proof/Machine/Issue.lean ====
section
/-! DEFINITION. What stands around an instruction in a step: the action the package takes next (log entry 2), the fetch
and decoding of the instruction of a warp (03:R51 to R53, 09:R146) or of a scalar core (09:R159), and the events that may
happen (log entries 3 and 31). -/

namespace Sys2Proof.Machine

/-- What an action comes to: nothing is executed any more, or one instruction or event is, in the state given. -/
inductive Turn
  | stay (s : State)
  | run (i : Instr) (s : State)
  | rv (i : RvInstr) (s : State)
deriving DecidableEq, Repr

/-- The warp a lane may issue from: it is in the lane's run, and nothing keeps it from issuing (09:R146, R147). -/
def State.inRun (s : State) (core slot : Nat) : Option Warp :=
  match s.warp? core slot with
  | some wp => if (s.core core).laneRun.get? (slot % 32) = some slot && s.mayIssue core wp then some wp else none
  | none => none

/-- Every executing thread takes FETCH, of one word at the issue PC (03:R52). -/
def State.fetchFault (s : State) (core slot : Nat) (wp : Warp) (sub page : Nat) : State :=
  let ts := wp.executing
  s.conclude core slot ⟨wp.issuePc.getD 0, 4, 0, 0, 0, 3⟩ ts (ts.map fun t => ⟨t, fFetch, sub, page⟩) none false ts.length false

/-- Are the K-dies held in reset: before the self-test of stage 3 has ended, in RECOVERY and after a trip (24:R361, R371)? -/
def HDie.held (h : HDie) : Bool := decide (h.bootst < 4) || decide (0xE1 ≤ h.bootst)

/-- The next instruction of a warp, from the words at its issue PC. -/
def State.laneTurn (s : State) (core slot : Nat) : Turn :=
  if s.hdie.held then .stay s else
  match s.inRun core slot with
  | none => .stay s
  | some wp =>
    match wp.issuePc with
    | none => .stay s
    | some pc =>
      match s.fetch core wp.ctx pc.toNat with
      | (.page va, s) => .stay (s.yieldBefore core slot (.page va true) 0)
      | (.flt sub page, s) => .stay (s.fetchFault core slot wp sub page)
      | (.ok ws, s) =>
        match decode ws with
        | .instr i => .run i { s with focus := .warp core slot }
        | .trap code op x len brk => .stay (s.trapAll core slot wp code op x len brk)

/-- The next instruction of a scalar core: an illegal one traps (09:R159). -/
def State.scalarTurn (s : State) (core : Nat) (storer : Bool) : Turn :=
  let k := s.scalarAt core storer
  if k.halted || s.hdie.held then .stay s
  else
    match k.fetch with
    | .illegal => .stay (s.scalarHalt core storer)
    | .rv i => .rv i { s with focus := .scalar core storer }
    | .xlm i => .run i { s with focus := .scalar core storer }

/-- Events that are possible before stage 6 and in RECOVERY: those of the module, of the management port and of BAR0, and
those of the links (24:R360, R361, R372). -/
def whileDown (i : Instr) : Bool :=
  match i with
  | .packageReset => true
  | .bootStageAdvance _ _ => true
  | .recoveryWindowWrite _ _ => true
  | .recgo => true
  | .registerWrite _ _ => true
  | .doorbellWrite _ _ _ _ => true
  | .hostBar2Write _ _ _ => true
  | .hostBar2Read _ _ _ => true
  | .hostAtomicop _ _ _ _ _ _ => true
  | .measurements => true
  | .spdmKeyExchange _ _ => true
  | .expanderFailure _ => true
  | .linkTraining _ _ _ => true
  | .emarisLinkFailure _ => true
  | .arrayError _ _ => true
  | .counterFlush => true
  | .powerDown => true
  | .powerLoss => true
  | .throttleOnset _ _ => true
  | .throttleEnd _ _ => true
  | .thermalTrip _ _ => true
  | .tripRecovery _ => true
  | .mgmtReadSensors => true
  | .mgmtReadCounter _ => true
  | .mgmtSetPowercap _ => true
  | .mgmtRecoveryChunk _ _ => true
  | .mgmtRecoveryGo => true
  | .mgmtPackageReset => true
  | .portReset _ => true
  | .mctpControl _ => true
  | _ => false

/-- May the event happen: it names what exists, it is one, and the package is up or the event needs none of it? -/
def State.admits (s : State) (i : Instr) : Bool :=
  i.wf && i.isEvent && (decide (s.hdie.bootst = 6) || whileDown i)

/-- What an action comes to. -/
def State.turn (s : State) (a : Action) : Turn :=
  match a with
  | .pass dt => .stay (s.passTime dt)
  | .sense temps rails power => .stay (s.sense temps rails power)
  | .csr i n write => .stay (if s.hdie.held then s else s.csr i n write)
  | .event i => if s.admits i then .run i { s with focus := .device } else .stay s
  | .lane core slot => s.laneTurn core slot
  | .scalar core storer => s.scalarTurn core storer

/-- The next action: the head of the agenda, else the schedule's. -/
def State.nextAction (s : State) : Action × State :=
  match s.agenda with
  | a :: rest => (a, { s with agenda := rest })
  | [] => (Config.schedule s.fresh, { s with fresh := s.fresh + 1 })

/-- What the next step comes to. -/
def State.nextTurn (s : State) : Turn :=
  let (a, s) := s.nextAction
  s.turn a

/-! ### A package in which an instruction is placed (log entry 1) -/

/-- The address at which a placed lane instruction stands. -/
def placePc : Nat := 0x1000

/-- The warp it is placed in: group slot 0, warp index 0, window of 64 rows at the head of the file, its threads as a kernel
starts them (05:R96). -/
def placedWarp : Warp :=
  { uid := 0, ctx := 0, gslot := 0, widx := 0, winBase := 0, win := 64, pbase := 0, p := 64, plim := 64, wpriv := 0, xf := 0,
    threads := (List.range 32).map fun t => entryThread (BitVec.ofNat 64 placePc) 64 t t 0 0 0 true,
    copies := [(0, entryUniform 0 1 1 1)], meets := [], ln := LoopNest.closed, kb := List.replicate 8 0, ks := List.replicate 8 0,
    stamp := 1, wait := .none, waitOp := 0, back := [], backLen := 0, run := 0, irq := none, fences := [], launch := 0, refused := [] }

/-- Core 0 in whose lane 0 the warp of slot 0 is in its run, with nothing of the root cached. -/
def Core.placed (k : Core) : Core :=
  { k with laneRun := k.laneRun.set 0 0, tlb := k.tlb.filter fun e => decide (e.ctx ≠ 0),
           icache := k.icache.filter fun e => decide (e.1 ≠ 0) }

/-- Words of an instruction as the hardware stores them, with `n` zero bytes behind. -/
def placedBytes (nbits w n : Nat) : List Byte := toBytes (w % 2 ^ nbits) ((nbits + 7) / 8) ++ List.replicate n 0

/-- Place a lane instruction in a package that is up, for the root context. -/
def State.placeLane (s : State) (nbits w : Nat) : State :=
  let root := (s.ctx? 0).getD (Ctx.root 0)
  let cl := s.cluster 0
  let s := (s.setCtx 0 { root with run := 1, leaves := root.leaves.filter fun f => !overlap f.va f.size placePc 32 }).setCore 0 (s.core 0).placed
  let s := (s.setCluster 0 { cl with tlb := cl.tlb.filter fun e => decide (e.ctx ≠ 0), stop := none, gangWait := none }).setWarp 0 0 placedWarp
  { s with mem := s.mem.write placePc (placedBytes nbits w 16), poison := s.poison.filter fun l => decide (l ≠ placePc / 128),
           agenda := [.lane 0 0], hdie := { s.hdie with bootst := 6 } }

/-- Place an instruction of the loader core 0. -/
def State.placeScalar (s : State) (nbits w : Nat) : State :=
  let k := s.core 0
  let s := s.setCore 0 { k with loader := { k.loader with istore := k.loader.istore.write 0 (placedBytes nbits w 4), pc := 0, halted := false } }
  { s with agenda := [.scalar 0 false], hdie := { s.hdie with bootst := 6 } }

/-- Place an instruction: words with opcode 0x0B in their low 7 bits go to the loader core, others to a warp. -/
def State.place (s : State) (nbits w : Nat) : State :=
  if w % 2 ^ nbits % 128 = 0x0B then s.placeScalar nbits w else s.placeLane nbits w

end Sys2Proof.Machine
end

