-- ==== Sys2Proof/Machine/Step.lean ====
section
/-! DEFINITION. One step of the package: one action of one of its agents or of the outside world. -/

namespace Sys2Proof.Machine

/-- One step. -/
def step (s : State) : Host.Outcome State Fault Refusal :=
  match s.nextTurn with
  | .stay s => .next s
  | .run i s => exec i s
  | .rv i s => execRv32imcInstruction i s

/-- The state with an instruction stored where the next step fetches it, and with all that this step needs (log
entry 1). -/
def State.withFetchWord (s : State) (nbits w : Nat) : State := s.place nbits w

end Sys2Proof.Machine
end

