-- ==== Sys2Proof/Safety.lean ====
section
/-! DEFINITION. What counts as a safe run: the package never stops. Every fault of the spec is taken by its thread and every
status is delivered, so a step that ends in a fault or a refusal of the model is no behaviour of the device. -/

namespace Sys2Proof.Safety

open Machine

/-- The step ends in a next state. -/
def Goes (s : State) : Prop := ∃ t, step s = .next t

/-- States that steps reach from `s`. -/
inductive Reaches (s : State) : State → Prop
  | refl : Reaches s s
  | tail {t u : State} : Reaches s t → step t = .next u → Reaches s u

/-- A property that holds at every state of a run from `s`. -/
def Always (p : State → Prop) (s : State) : Prop := ∀ t, Reaches s t → p t

/-- A run from `s` is safe: no state of it stops. -/
def Safe (s : State) : Prop := Always Goes s

/-- A property that every step keeps. -/
def Kept (p : State → Prop) : Prop := ∀ s t, p s → step s = .next t → p t

/-- What holds at first and is kept by every step holds always. -/
theorem always_of_kept {p : State → Prop} (hk : Kept p) {s : State} (h : p s) : Always p s := by
  intro t ht
  induction ht with
  | refl => exact h
  | tail _ hs ih => exact hk _ _ ih hs

/-! ### An instruction under way -/

/-- A lane instruction whose operands have been read: its core, warp slot and warp, its roles, its participants with their
values, and the state after the reads. -/
structure Issued where
  c : Nat
  slot : Nat
  wp : Warp
  r : Roles
  p : Prep
  s : State

/-- Can the instruction of major `op` with operands `o` execute in the warp in focus: some thread executes, nothing is
waited for, and no reader faults? `elected`: it reads for one thread (14:R224). `tx`: it is not performed in an open gambit
(10:R180), so none is open. `g` are the roles it reads at this point. -/
def issuedBy (s : State) (op : Nat) (o : Ops) (elected tx : Bool) (g : Roles → Roles) : Option Issued :=
  match s.focus with
  | .warp c slot =>
    match s.warp? c slot, rolesOf op o with
    | some wp, some r =>
      if wp.executing.isEmpty || (tx && !(wp.inGambit o).isEmpty) then none
      else
        match s.prep c slot wp (g r) o elected [] with
        | (.go p, s) => if p.faults.isEmpty then some ⟨c, slot, wp, r, p, s⟩ else none
        | (.wait _, _) => none
    | _, _ => none
  | .device => none
  | .scalar _ _ => none

/-- The same for an instruction that reads all its operands. -/
def issued (s : State) (op : Nat) (o : Ops) (elected tx : Bool) : Option Issued := issuedBy s op o elected tx id

/-- The instruction's warp becomes `w` and the instruction ends: hold tests and releases, `ac` of lane time, the run. -/
def Issued.ends (j : Issued) (op : Nat) (o : Ops) (w : Warp) (ac : Nat) : State :=
  (j.s.setWarp j.c j.slot w).conclude j.c j.slot (siteOf j.wp op o 0 3) j.p.exec [] none false ac o.brk

/-- From state `s` the instruction ends with the moves `ms` of its participants. -/
def Issued.moves (j : Issued) (op : Nat) (o : Ops) (s : State) (ms : List (Nat × Move)) (forks : Bool) : State :=
  s.endMoves j.c j.slot (siteOf j.wp op o 0 3) j.p ms forks o.brk

/-! ### The instructions of one shape -/

/-- Does CVT pack a block (06:R114)? -/
def packs (o : Ops) : Bool := decide (100 ≤ rawField o.b) && decide (rawField o.b ≤ 102)

/-- The instructions that compute one value per participant: major, operands, lane time of a thread, and the value with the
flags it raises, or the fault. -/
def aluOf : Instr → Option (Nat × Ops × Nat × (Vals → AluRes))
  | .add o => some (1, o, 1, fun v => addOn 32 .f32 (RMode.ofRM o.rm) o.t v.a v.b)
  | .sub o => some (2, o, 1, fun v => subOn 32 .f32 (RMode.ofRM o.rm) o.t v.a v.b)
  | .mul o => some (3, o, 1, fun v => mulOn 32 .f32 (RMode.ofRM o.rm) o.t v.a v.b)
  | .mulhn o => some (4, o, 1, fun v => .ok (bits (v.a * v.b) 32 32) 0)
  | .fma o => some (5, o, 1, fun v => fmaOn 32 .f32 (RMode.ofRM o.rm) o.t v.a v.b (if o.form.hasExt then v.c else v.d))
  | .min o => some (6, o, 1, fun v => minmaxOn false o.t v.a v.b)
  | .max o => some (7, o, 1, fun v => minmaxOn true o.t v.a v.b)
  | .and o => some (8, o, 1, fun v => .ok (v.a &&& v.b) 0)
  | .or o => some (9, o, 1, fun v => .ok (v.a ||| v.b) 0)
  | .xor o => some (10, o, 1, fun v => .ok (v.a ^^^ v.b) 0)
  | .andn o => some (11, o, 1, fun v => .ok (v.a &&& (2 ^ widthOf o.t - 1 - v.b)) 0)
  | .shl o => some (12, o, 1, fun v => .ok (shlOn (widthOf o.t) v.a v.b) 0)
  | .shr o => some (13, o, 1, fun v => .ok (shrOn (widthOf o.t) (decide (2 ≤ o.t)) v.a v.b) 0)
  | .rot o => some (14, o, 1, fun v => .ok (rotOn (widthOf o.t) v.a v.b) 0)
  | .bits o => some (15, o, 1, fun v => .ok (bitsOn (widthOf o.t) v.b v.a) 0)
  | .bfx o => some (16, o, 1, fun v => .ok (bfxOn (decide (o.t = 1)) v.a v.b) 0)
  | .bfi o => some (17, o, 1, fun v => .ok (bfiOn (if o.form.hasExt then v.c else v.d) v.a v.b) 0)
  | .add64 o => some (18, o, f64Time o.t, fun v => addOn 64 .f64 (RMode.ofRM o.rm) o.t v.a v.b)
  | .sub64 o => some (19, o, f64Time o.t, fun v => subOn 64 .f64 (RMode.ofRM o.rm) o.t v.a v.b)
  | .mul64 o => some (20, o, f64Time o.t, fun v => mulOn 64 .f64 (RMode.ofRM o.rm) o.t v.a v.b)
  | .fma64 o => some (21, o, f64Time o.t, fun v => fmaOn 64 .f64 (RMode.ofRM o.rm) o.t v.a v.b (if o.form.hasExt then v.c else v.d))
  | .mov o => some (27, o, 1, fun v => .ok v.b 0)
  | .cvt o => if packs o then none else some (28, o, 1, fun v => cvtOn o v)
  | .fun_ o => some (29, o, 1, fun v => funOn (RMode.ofRM o.rm) o.t v.b v.a)
  | .lea o => some (36, o, 1, fun v => .ok (wrap ((v.a : Int) + sext v.b 32 * (2 ^ o.t : Nat) + o.w2) 64) 0)
  | _ => none

/-- The instructions that write one predicate per participant: the predicate, and its value with the flags. -/
def predOf : Instr → Option (Nat × Ops × (Thread → Vals → Bool × XFlags))
  | .cmp o => some (24, o, fun _ v =>
      (condHolds (bits (rawField o.d) 3 4) (cmpOn 32 o.t v.a v.b).1, (cmpOn 32 o.t v.a v.b).2))
  | .cmp64 o => some (25, o, fun _ v =>
      (condHolds (bits (rawField o.d) 3 4) (cmpOn 64 o.t v.a v.b).1, (cmpOn 64 o.t v.a v.b).2))
  | .plog o => some (37, o, fun th v => (plogOn o.t (plogArg th v.a) (plogArg th v.b), 0))
  | _ => none

/-- The memory instructions that make translated accesses. -/
def memOf : Instr → Option (Nat × Ops)
  | .ld o => some (48, o)
  | .st o => some (49, o)
  | .ldp o => some (50, o)
  | .stp o => some (50, o)
  | .atom o => some (52, o)
  | .red o => some (52, o)
  | .zfill o => some (58, o)
  | .l2wb o => some (58, o)
  | .l2inv o => some (58, o)
  | .ldv o => some (59, o)
  | .stv o => some (59, o)
  | .recon o => some (59, o)
  | .vcnt o => some (59, o)
  | _ => none

/-! ### Numbers and their rounding (04:R64, R65) -/

/-- The number of a finite value. -/
def numOf : FVal → Option Rat
  | .fin neg m e => some ((if neg then -1 else 1) * (m : Rat) * (2 : Rat) ^ e)
  | .inf _ => none
  | .nan _ => none

/-- The magnitude of a number. -/
def mag (x : Rat) : Rat := if 0 ≤ x then x else -x

/-- `v` is the finite value of the format that the number `x` rounds to in the mode (04 Table 7). -/
def Nearest (F : Fmt) (mode : RMode) (x : Rat) (v : Nat) : Prop :=
  ∃ r, numOf (F.decode v) = some r ∧ ∀ w q, numOf (F.decode w) = some q →
    match mode with
    | .rne => mag (r - x) ≤ mag (q - x) ∧ (mag (r - x) = mag (q - x) → q ≠ r → v % 2 = 0)
    | .rna => mag (r - x) ≤ mag (q - x) ∧ (mag (r - x) = mag (q - x) → mag q ≤ mag r)
    | .rz => mag r ≤ mag x ∧ 0 ≤ r * x ∧ (mag q ≤ mag x → mag q ≤ mag r)
    | .rd => r ≤ x ∧ (q ≤ x → q ≤ r)
    | .ru => x ≤ r ∧ (x ≤ q → r ≤ q)

/-- `r` is the number `x` rounded: a finite value, which raises NX exactly where it is not `x`, or beyond every finite value
an infinity of its sign with OF and NX (04:R65, R66). -/
def Rounded (F : Fmt) (mode : RMode) (x : Rat) (r : FRes) : Prop :=
  r.v < 2 ^ F.width ∧
  match F.decode r.v with
  | .fin _ _ _ => Nearest F mode x r.v ∧ (bit r.fl 4 = true ↔ numOf (F.decode r.v) ≠ some x)
  | .inf neg => (∀ w q, numOf (F.decode w) = some q → mag q < mag x) ∧ (neg = true ↔ x < 0) ∧ r.fl = xOF + xNX
  | .nan _ => False

/-- `i` is the integer that the number `x` rounds to in the mode. -/
def NearestInt (mode : RMode) (x : Rat) (i : Int) : Prop :=
  match mode with
  | .rne => mag ((i : Rat) - x) < 1 / 2 ∨ (mag ((i : Rat) - x) = 1 / 2 ∧ i % 2 = 0)
  | .rna => mag ((i : Rat) - x) < 1 / 2 ∨ (mag ((i : Rat) - x) = 1 / 2 ∧ mag x ≤ mag (i : Rat))
  | .rz => mag (i : Rat) ≤ mag x ∧ mag x < mag (i : Rat) + 1 ∧ 0 ≤ (i : Rat) * x
  | .rd => (i : Rat) ≤ x ∧ x < (i : Rat) + 1
  | .ru => x ≤ (i : Rat) ∧ (i : Rat) < x + 1

/-! ### What an instruction leaves of memory -/

/-- Memory is as before but for what of the warp has left the core for its private area (05:R85, R86, R95). -/
def sameMem (s t : State) (c slot : Nat) : Prop :=
  ∀ a, t.mem.get a = s.mem.get a ∨
    ∃ wp, t.warp? c slot = some wp ∧ ∃ x ∈ wp.area, wp.wpriv.toNat + x.1 ≤ a ∧ a < wp.wpriv.toNat + x.1 + x.2.length

/-- The operands name no constant window, or no line is noted for a release: reading them then publishes nothing (18:R284). -/
def readsQuietly (s : State) (o : Ops) (r : Roles) : Prop :=
  Ops.windowOf o r = none ∨ ∀ l d, s.dir.get? l = some d → d.note = none

/-- The scalar core in focus. -/
def scalarOn (s : State) : Option (Nat × Bool × Scalar) :=
  match s.focus with
  | .scalar c storer => some (c, storer, s.scalarAt c storer)
  | .device => none
  | .warp _ _ => none

end Sys2Proof.Safety
end

