-- ==== Sys2Proof/Certificates/Slice0/Obligations.lean ====
section
/-! DEFINITION. The statements about the model. Each says which rules of the spec it rests on. -/

open Sys2Proof Sys2Proof.Machine Sys2Proof.Safety

/-- For every well-formed lane instruction and NOP, with every operand at every value its encoding admits, the decoder reads back exactly that instruction from the words the encoder gives; an instruction encoded as one word with opcode 0x0B in its low 7 bits is an Xlm instruction, and where it is well formed the scalar cores' decoder reads it back from that word. (R33, R35, R36, R40, R43, R44, R51, R185, R186) -/
def Obligations.DecodeInvertsEncode : Prop :=
  (∀ i : Instr, i.wf = true → (i.lane?.isSome = true ∨ ∃ form w0 w1 w2 lit, i = .nop form w0 w1 w2 lit) →
    decode (encode i) = .instr i) ∧
  (∀ (i : Instr) (w : Word), i.wf = true → encode i = [w] → w.toNat % 128 = 0x0B → decodeXlm w.toNat = some i)

/-- Whatever words decode to an instruction, the instruction is well formed, its operands being what the roles of its entry allow, and the encoder gives back the words of that instruction, as many as its length form has: no two encodings of one length form mean the same instruction. (R33, R35, R36, R40, R43, R44, R45, R51) -/
def Obligations.EncodeInvertsDecode : Prop :=
  (∀ (ws : List Word) (i : Instr), decode ws = .instr i → (Raw.ofWords ws).form.len ≤ 4 * ws.length →
    encode i = ws.take ((Raw.ofWords ws).form.len / 4)) ∧
  (∀ (ws : List Word) (i : Instr), decode ws = .instr i → i.wf = true)

/-- The all-zero word is a base-form NOP; the base-form word with major 1, D 4, A 0, B 1 is ADD v4, v0, v1; that with major 45 is EXIT; the three words of an extended LD.32 with X 2 and word 2 holding 16, and an Xlm word with funct3 7 and rd 5, decode to the instructions that 03 Tables 2, 3, 7 and 8 and 10 Table 8 give them. Majors 47 and 63, a family of majors 48 to 62 without a control word, and a base major with a nonzero X decode to no instruction: they trap ILLEGAL_OP (code 1). (R33, R35, R36, R47, R48, R49, R51, R185) -/
def Obligations.SpecWordsDecode : Prop :=
  (decode [0x00000000] = .instr (.nop .base 0 0 0 0) ∧
  decode [0x02002008] = .instr (.add ⟨.base, false, .always, 0, 0, .dst (.reg (.v 4)), .src (.reg (.v 0)) false,
    .src (.reg (.v 1)) false, .none, 0, 0, 0, 0⟩) ∧
  decode [0x00000168] = .instr (.exit ⟨.base, false, .always, 0, 0, .none, .none, .none, .none, 0, 0, 0, 0⟩) ∧
  decode [0x00082181, 0x02000000, 0x00000010] = .instr (.ld ⟨.ext, false, .always, 0, 2, .dst (.reg (.v 4)),
    .src (.reg (.v 2)) false, .none, .none, 0, 0, 0, 16⟩) ∧
  decodeXlm 0x0000728B = some (.lmTime 5)) ∧
  (∀ ws : List Word,
    (Raw.ofWords ws).op = 47 ∨ (Raw.ofWords ws).op = 63 ∨
      (48 ≤ (Raw.ofWords ws).op ∧ (Raw.ofWords ws).form.hasExt = false) ∨
      (1 ≤ (Raw.ofWords ws).op ∧ (Raw.ofWords ws).op ≤ 46 ∧ (Raw.ofWords ws).x ≠ 0) →
    decode ws = .trap 1 (Raw.ofWords ws).op (Raw.ofWords ws).x (Raw.ofWords ws).form.len
      (Raw.ofWords ws).brk)

/-- While the K-dies are not held in reset (24:R361): when the next action is one of a warp that its lane runs, and the words fetched at its issue PC decode to an instruction i, step is exec of i with that warp in focus; the same for what a scalar core fetches, and for an event that may happen. Where the words fail a decode check, the step is a next state in which every executing thread takes the trap of that check, with the PC of the instruction; nothing else is executed, and a set break bit ends the run. The agenda, its order and the focus are the model's (log entry 2). (R51, R75, R146, R159, R191, R361) -/
def Obligations.StepRunsTheDecodedInstruction : Prop :=
  ((∀ (s s' : State) (rest : List Action) (c slot : Nat) (wp : Warp) (pc : DWord) (ws : List Word) (i : Instr),
    s.agenda = .lane c slot :: rest → s.hdie.held = false → State.inRun { s with agenda := rest } c slot = some wp → wp.issuePc = some pc →
    State.fetch { s with agenda := rest } c wp.ctx pc.toNat = (.ok ws, s') → decode ws = .instr i →
    step s = exec i { s' with focus := .warp c slot }) ∧
  (∀ (s : State) (rest : List Action) (c : Nat) (storer : Bool),
    s.agenda = .scalar c storer :: rest → s.hdie.held = false → (s.scalarAt c storer).halted = false →
    (∀ i, (s.scalarAt c storer).fetch = .xlm i → step s = exec i { s with agenda := rest, focus := .scalar c storer }) ∧
    (∀ i, (s.scalarAt c storer).fetch = .rv i →
      step s = exec (.rv32imcInstruction i) { s with agenda := rest, focus := .scalar c storer })) ∧
  (∀ (s : State) (rest : List Action) (i : Instr),
    s.agenda = .event i :: rest → State.admits { s with agenda := rest } i = true →
    step s = exec i { s with agenda := rest, focus := .device })) ∧
  (∀ (s s' : State) (rest : List Action) (c slot : Nat) (wp : Warp) (pc : DWord) (ws : List Word) (code op x len : Nat) (brk : Bool),
    s.agenda = .lane c slot :: rest → s.hdie.held = false → State.inRun { s with agenda := rest } c slot = some wp → wp.issuePc = some pc →
    State.fetch { s with agenda := rest } c wp.ctx pc.toNat = (.ok ws, s') → decode ws = .trap code op x len brk →
    step s = .next (s'.conclude c slot ⟨pc, len, op, x, 0, 3⟩ wp.executing
      (wp.executing.map fun t => ⟨t, code, 0, 0⟩) none false wp.executing.length brk))

/-- Where the translation of an address permits execution and its page lies in memory, at an aligned address, with nothing in the instruction cache, no line noted for a release and no poison, a fetch of one word gives the four bytes there as a little-endian word, and memory is unchanged. (R33, R52, R53, R284) -/
def Obligations.FetchReadsMemory : Prop :=
  ∀ (s : State) (c ctx va pa : Nat) (e : TlbEntry),
    s.lookup c ctx va = some e → e.x = true → s.finalPa (e.trans va) = some pa → regionOf pa = .ram →
    pa % 4 = 0 → (s.core c).icache = [] → (∀ l d, s.dir.get? l = some d → d.note = none) → s.poison = [] → s.hdie.lostExpanders = [] →
    ∃ s', State.fetchWords c ctx 1 s va = (.ok [BitVec.ofNat 32 (s.mem.readNat pa 4)], s') ∧ s'.mem = s.mem ∧
      s'.warps = s.warps

/-- From every state, whatever the next action, one step ends in a next state: faults are taken by their threads, statuses are delivered, and no instruction or event is refused. That an action which may not happen leaves the state as it is, and that the agenda gives the actions in order, is the model's choice (log entries 2 and 3), which no rule states. (R51, R189, R191, R193) -/
def Obligations.NoStepStops : Prop :=
  ∀ s : State, ∃ t, step s = .next t

/-- At package reset device time is 0 and the package is at boot stage 1; the root context, 0, alone exists, at DEPTH 0 and stopped; no queue is valid; no warp, group or phalanx is placed; POWERCAP is 2600 and MIGTH 256. (R289, R290, R360, R346) -/
def Obligations.ResetState : Prop :=
  State.reset.time = 0 ∧ State.reset.hdie.bootst = 1 ∧ State.reset.ctxs.map (fun e => (e.1, e.2.depth, e.2.run)) = [(0, 0, 0)] ∧
  State.reset.queues = [] ∧ State.reset.warps = [] ∧ State.reset.groups = [] ∧ State.reset.clusters = [] ∧
  State.reset.mem.wf = true ∧ State.reset.hdie.powercap = 2600 ∧ State.reset.hdie.migth = 256

/-- Every word list with major 0 decodes to a NOP, never a trap, and the all-zero word is a base-form NOP; an executed NOP advances the PC of every executing thread by the length in L, whatever its other fields and its guard hold, ends the run where B is 1, and writes nothing else of its own; the tests after every instruction follow. (R48) -/
def Obligations.NopExecutes : Prop :=
  (∀ ws : List Word, (Raw.ofWords ws).op = 0 → ∃ w0 w1 w2 lit, decode ws = .instr (.nop (Raw.ofWords ws).form w0 w1 w2 lit)) ∧
  decode [0] = .instr (.nop .base 0 0 0 0) ∧
  ∀ (form : Form) (w0 w1 w2 : Word) (lit : DWord) (s : State) (c slot : Nat) (wp : Warp),
    s.focus = .warp c slot → s.warp? c slot = some wp → wp.executing ≠ [] →
    exec (.nop form w0 w1 w2 lit) s = .next ((s.setWarp c slot (wp.nextPc wp.executing form.len)).conclude c slot
      ⟨wp.issuePc.getD 0, form.len, 0, 0, 0, 3⟩ wp.executing [] none false wp.executing.length (w0.getLsbD 2))

/-- ADD, SUB, MUL, MULHN, FMA, MIN, MAX, AND, OR, XOR, ANDN, SHL, SHR, ROT, BITS, BFX, BFI, ADD64, SUB64, MUL64, FMA64, MOV, CVT of one value, FUN and LEA: where the operands are readable and no participant's computation faults, the instruction completes; every participant's value, the function the spec gives of that thread's own operands, is written to its destination, its flags are raised, and every executing thread advances. (R76, R99, R102, R103, R104, R105, R111, R113, R115, R116, R122) -/
def Obligations.ComputingInstructionsComplete : Prop :=
  ∀ (i : Instr) (op : Nat) (o : Ops) (each : Nat) (f : Vals → AluRes) (s : State) (j : Issued) (rs : List (Nat × Nat × XFlags)),
    aluOf i = some (op, o, each, f) → issued s op o false false = some j →
    j.p.vals.map (fun x => (x.1, f x.2)) = rs.map (fun x => (x.1, AluRes.ok x.2.1 x.2.2)) →
    exec i s = .next (j.ends op o ((j.wp.writeAll (Ops.dst o j.r) rs).nextPc j.p.exec o.form.len)
      (j.wp.aluAc j.r o j.p.exec each))

/-- Where a computation faults in some participants (a conversion or a function that traps under its overflow mode), those participants write nothing and take that fault at the instruction, and the others write their results and advance: no participant's fault stops another. (R189, R191) -/
def Obligations.ComputationFaultsAreTaken : Prop :=
  ∀ (i : Instr) (op : Nat) (o : Ops) (each : Nat) (f : Vals → AluRes) (s : State) (j : Issued),
    aluOf i = some (op, o, each, f) → issued s op o false false = some j →
    ∃ (oks : List (Nat × Nat × XFlags)) (flts : List Flt),
      (∀ t v fl, (t, v, fl) ∈ oks ↔ ∃ x ∈ j.p.vals, x.1 = t ∧ f x.2 = .ok v fl) ∧
      (∀ t code sub addr, (⟨t, code, sub, addr⟩ : Flt) ∈ flts ↔ ∃ x ∈ j.p.vals, x.1 = t ∧ f x.2 = .flt code sub addr) ∧
      exec i s = .next ((j.s.setWarp j.c j.slot ((j.wp.writeAll (Ops.dst o j.r) oks).nextPc
          (j.p.exec.filter fun t => !flts.any fun q => decide (q.thread = t)) o.form.len)).conclude j.c j.slot
        (siteOf j.wp op o 0 3) j.p.exec flts none false (j.wp.aluAc j.r o j.p.exec each) o.brk)

/-- In 32 and in 64 bits: ADD and SUB of type 0 wrap and raise nothing; their saturating forms clamp to the ends of the signed range and raise SAT exactly where they clamped; MUL gives the low half or the signed high half by type, MUL64 T3 and MULHN the unsigned high half; FMA of type 0 wraps. MIN and MAX of types 0 and 1 compare as signed and as unsigned numbers. DIV by 0 gives 0xFFFFFFFF and REM by 0 the dividend; otherwise the unsigned forms divide exactly and the signed forms truncate toward zero, wrapping at −2^31 / −1; quotient times divisor plus remainder is the dividend modulo 2^32; the 64-bit remainders likewise; no flag is raised. (R102, R106) -/
def Obligations.IntegerArithmeticValues : Prop :=
  (∀ (w : Nat) (F : Fmt) (m : RMode) (a b c : Nat), ((w = 32 ∧ F = .f32) ∨ (w = 64 ∧ F = .f64)) → a < 2 ^ w → b < 2 ^ w → c < 2 ^ w →
    addOn w F m 0 a b = .ok ((a + b) % 2 ^ w) 0 ∧
    subOn w F m 0 a b = .ok ((a + 2 ^ w - b) % 2 ^ w) 0 ∧
    mulOn w F m 0 a b = .ok (a * b % 2 ^ w) 0 ∧
    mulOn w F m 1 a b = .ok ((sext a w * sext b w / 2 ^ w % 2 ^ w).toNat) 0 ∧
    mulHigh w false a b = a * b / 2 ^ w ∧ (w = 64 → mulOn w F m 3 a b = .ok (a * b / 2 ^ w) 0) ∧
    fmaOn w F m 0 a b c = .ok ((a * b + c) % 2 ^ w) 0 ∧
    ∀ (x : Int) (r : AluRes), ((x = sext a w + sext b w ∧ r = addOn w F m 1 a b) ∨ (x = sext a w - sext b w ∧ r = subOn w F m 1 a b)) →
      ∃ v fl, r = .ok v fl ∧ v < 2 ^ w ∧ sext v w = max (-(2 ^ (w - 1) : Int)) (min (2 ^ (w - 1) - 1) x) ∧
        fl = (if -(2 ^ (w - 1) : Int) ≤ x ∧ x ≤ 2 ^ (w - 1) - 1 then 0 else xSAT)) ∧
  (∀ o : Ops, aluOf (.mulhn o) = some (4, o, 1, fun v => .ok (mulHigh 32 false v.a v.b) 0)) ∧
  (∀ a b : Nat, a < 2 ^ 32 → b < 2 ^ 32 →
    minmaxOn false 1 a b = .ok (Nat.min a b) 0 ∧ minmaxOn true 1 a b = .ok (Nat.max a b) 0 ∧
    minmaxOn false 0 a b = .ok (if sext a 32 ≤ sext b 32 then a else b) 0 ∧
    minmaxOn true 0 a b = .ok (if sext a 32 ≤ sext b 32 then b else a) 0) ∧
  (∀ (m : RMode) (a b : Nat), a < 2 ^ 32 → b < 2 ^ 32 →
    divOn m 1 a b = ⟨if b = 0 then 0xFFFFFFFF else a / b, 0, false⟩ ∧ remOn 1 a b = ⟨a % b, 0, false⟩ ∧
    (b = 0 → (divOn m 0 a b).v = 0xFFFFFFFF ∧ (remOn 0 a b).v = a) ∧
    (b ≠ 0 → ((divOn m 0 a b).v * b + (remOn 0 a b).v) % 2 ^ 32 = a ∧
      (sext (divOn m 0 a b).v 32 = Int.tdiv (sext a 32) (sext b 32) ∨ (a = 2 ^ 31 ∧ b = 2 ^ 32 - 1)) ∧
      sext (remOn 0 a b).v 32 = Int.tmod (sext a 32) (sext b 32)) ∧
    (divOn m 0 a b).fl = 0 ∧ (remOn 0 a b).fl = 0 ∧
    divOn m 0 (2 ^ 31) (2 ^ 32 - 1) = ⟨2 ^ 31, 0, false⟩) ∧
  (∀ a b : Nat, a < 2 ^ 64 → b < 2 ^ 64 → remOn 3 a b = ⟨a % b, 0, false⟩ ∧ (remOn 2 a b).fl = 0 ∧
    (b = 0 → (remOn 2 a b).v = a) ∧ (b ≠ 0 → sext (remOn 2 a b).v 64 = Int.tmod (sext a 64) (sext b 64)))

/-- Bit k of AND, OR, XOR and ANDN is that function of the operands' bits k. BITS counts the ones, the leading zeros or the trailing zeros, reverses the bits, clears, flips the sign bit, complements, or reverses the bytes. For a width of 32 or 64: SHL by n gives a times 2 to the n modulo the width's range; the logical SHR divides; the arithmetic SHR gives the floor of the signed quotient, so all sign bits from the width on; ROT moves each bit n modulo the width places to the left, the highest going round to the lowest. With pos the low 5 bits of b and wd its bits 8+6 cut to the bits left: BFX gives that field unsigned or sign-extended, 0 where wd is 0; BFI leaves every bit outside the field as the base has it and sets the field to the low wd bits of a. (R103, R104, R105) -/
def Obligations.ShiftAndFieldValues : Prop :=
  (∀ (w a n : Nat), (w = 32 ∨ w = 64) → a < 2 ^ w → n < 2 ^ 32 →
    shlOn w a n = a * 2 ^ n % 2 ^ w ∧
    shrOn w false a n = a / 2 ^ n ∧
    sext (shrOn w true a n) w = sext a w / 2 ^ n ∧
    rotOn w a n = (a * 2 ^ (n % w) + a / 2 ^ (w - n % w)) % 2 ^ w ∧ (∀ k, k < w → bit (rotOn w a n) ((k + n) % w) = bit a k)) ∧
  (∀ (o : Ops) (v : Vals), v.a < 2 ^ widthOf o.t → v.b < 2 ^ widthOf o.t → ∃ f g h e : Vals → AluRes, ∃ rf rg rh re : Nat,
    aluOf (.and o) = some (8, o, 1, f) ∧ f v = .ok rf 0 ∧ aluOf (.or o) = some (9, o, 1, g) ∧ g v = .ok rg 0 ∧
    aluOf (.xor o) = some (10, o, 1, h) ∧ h v = .ok rh 0 ∧ aluOf (.andn o) = some (11, o, 1, e) ∧ e v = .ok re 0 ∧
    ∀ k, bit rf k = (bit v.a k && bit v.b k) ∧ bit rg k = (bit v.a k || bit v.b k) ∧ bit rh k = (bit v.a k ^^ bit v.b k) ∧
      bit re k = (bit v.a k && !bit v.b k)) ∧
  (∀ (w a : Nat), (w = 32 ∨ w = 64) → a < 2 ^ w →
    bitsOn w 0 a = ((List.range w).filter (bit a)).length ∧
    (a = 0 → bitsOn w 1 a = w ∧ bitsOn w 2 a = w) ∧
    (a ≠ 0 → bitsOn w 1 a < w ∧ a / 2 ^ (w - 1 - bitsOn w 1 a) = 1 ∧ bit a (bitsOn w 2 a) = true ∧ a % 2 ^ bitsOn w 2 a = 0) ∧
    (∀ k, k < w → bit (bitsOn w 3 a) k = bit a (w - 1 - k) ∧ bit (bitsOn w 4 a) k = (bit a k && decide (k ≠ w - 1)) ∧
      bit (bitsOn w 5 a) k = (bit a k ^^ decide (k = w - 1)) ∧ bit (bitsOn w 6 a) k = !bit a k ∧
      bit (bitsOn w 7 a) k = bit a (w - 8 - k / 8 * 8 + k % 8)) ∧
    ∀ code, 3 ≤ code → code < 8 → bitsOn w code a < 2 ^ w) ∧
  (∀ (a b base k : Nat), a < 2 ^ 32 → base < 2 ^ 32 → k < 32 →
    bfxOn false a b = a / 2 ^ (b % 32) % 2 ^ (min (b / 256 % 64) (32 - b % 32)) ∧
    (min (b / 256 % 64) (32 - b % 32) ≠ 0 →
      sext (bfxOn true a b) 32 = sext (bfxOn false a b) (min (b / 256 % 64) (32 - b % 32))) ∧
    bit (bfiOn base a b) k =
      (if b % 32 ≤ k ∧ k < b % 32 + min (b / 256 % 64) (32 - b % 32) then bit a (k - b % 32) else bit base k))

/-- LEA writes to each participant's D pair the A pair plus B sign-extended from 32 bits times 1, 2, 4 or 8 by T plus word 2 sign-extended, modulo 2^64; where its operands are readable it completes for every address, and raises no flag. (R122) -/
def Obligations.LeaForms : Prop :=
  ∀ (o : Ops) (s : State) (j : Issued), issued s 36 o false false = some j →
    exec (.lea o) s = .next (j.ends 36 o ((j.wp.writeAll (Ops.dst o j.r) (j.p.vals.map fun x =>
      (x.1, (((x.2.a : Int) + sext x.2.b 32 * (2 ^ o.t : Nat) + o.w2) % 2 ^ 64).toNat, (0 : XFlags)))).nextPc
        j.p.exec o.form.len) (j.wp.aluAc j.r o j.p.exec 1))

/-- Where the operands are readable, CMP, CMP64 and PLOG complete: each participant's predicate named in bits 0+3 of D, and no other, becomes the condition of its own operands, the flags of the comparisons are raised and no other, no register changes, and every executing thread advances. Of integers the codes eq, ne, lt, le, gt, ge, t and f of Table 5 hold where the signed or unsigned numbers compare so, and no flag is raised; of finite floats, eq, lt and gt hold where the numbers compare so and ord holds; where an operand is a NaN, ne, unord, the five unordered codes and t hold, the other codes do not, and NV is raised exactly for a signalling NaN. PLOG's function is qa and qb for T 0, qa or qb for T 1, qa xor qb for T 2 and qa and not qb for T 3, where qa and qb are the named predicates, inverted if the negate bit is set. Where its operands are readable SEL completes and writes to each participant a where the condition is true and b where it is not; the condition is the predicate T names in a base form and a nonzero C in an extended form, whose T must be 0. (R107, R108, R109, R110) -/
def Obligations.PredicateInstructionsComplete : Prop :=
  (((∀ (i : Instr) (op : Nat) (o : Ops) (f : Thread → Vals → Bool × XFlags) (s : State) (j : Issued),
    predOf i = some (op, o, f) → issued s op o false false = some j →
    ∃ w' : Warp,
      exec i s = .next (j.ends op o (w'.nextPc j.p.exec o.form.len) (j.wp.aluAc j.r o j.p.exec 1)) ∧
      w'.threads.length = j.wp.threads.length ∧ w'.copies = j.wp.copies ∧
      (∀ k, k < 6 → (w'.xf.getLsbD k = true ↔ j.wp.xf.getLsbD k = true ∨
        ∃ x ∈ j.p.vals, ∃ th, j.wp.thread? x.1 = some th ∧ bit (f th x.2).2 k = true)) ∧
      ∀ t th, j.wp.thread? t = some th → ∃ th', w'.thread? t = some th' ∧
        th'.cells = th.cells ∧ th'.pc = th.pc ∧
        ∀ q, q < 8 → th'.pred q = (match j.p.vals.find? (fun x => decide (x.1 = t)) with
          | some x => if q = bits (rawField o.d) 0 3 then (f th x.2).1 else th.pred q
          | none => th.pred q)) ∧
  ((∀ qa qb : Bool, plogOn 0 qa qb = (qa && qb) ∧ plogOn 1 qa qb = (qa || qb) ∧ plogOn 2 qa qb = (qa ^^ qb) ∧
    plogOn 3 qa qb = (qa && !qb)) ∧
  ∀ (th : Thread) (n : Nat), n < 8 → plogArg th n = th.pred n ∧ plogArg th (n + 8) = !(th.pred n)) ∧
  (∀ (w t a b : Nat) (x y : Int), (w = 32 ∨ w = 64) → a < 2 ^ w → b < 2 ^ w →
    ((t = 0 ∧ x = sext a w ∧ y = sext b w) ∨ (t = 1 ∧ x = a ∧ y = b)) →
    (cmpOn w t a b).2 = 0 ∧ condHolds 0 (cmpOn w t a b).1 = decide (x = y) ∧ condHolds 1 (cmpOn w t a b).1 = decide (x ≠ y) ∧
    condHolds 2 (cmpOn w t a b).1 = decide (x < y) ∧ condHolds 3 (cmpOn w t a b).1 = decide (x ≤ y) ∧
    condHolds 4 (cmpOn w t a b).1 = decide (y < x) ∧ condHolds 5 (cmpOn w t a b).1 = decide (y ≤ x) ∧
    condHolds 14 (cmpOn w t a b).1 = true ∧ condHolds 15 (cmpOn w t a b).1 = false) ∧
  (∀ (w t a b : Nat) (F : Fmt), ((t = 2 ∧ F = Fmt.f32) ∨ (t = 3 ∧ F = Fmt.f64)) →
    ((∃ q, F.decode a = .nan q) ∨ ∃ q, F.decode b = .nan q) →
    (∀ c, c < 16 → condHolds c (cmpOn w t a b).1 = [1, 7, 8, 9, 10, 11, 13, 14].contains c) ∧
    ((cmpOn w t a b).2 = 1 ↔ F.decode a = .nan true ∨ F.decode b = .nan true)) ∧
  (∀ (w t a b : Nat) (F : Fmt) (x y : Rat), ((t = 2 ∧ F = Fmt.f32) ∨ (t = 3 ∧ F = Fmt.f64)) →
    numOf (F.decode a) = some x → numOf (F.decode b) = some y →
    (cmpOn w t a b).2 = 0 ∧ condHolds 0 (cmpOn w t a b).1 = decide (x = y) ∧ condHolds 2 (cmpOn w t a b).1 = decide (x < y) ∧
    condHolds 4 (cmpOn w t a b).1 = decide (y < x) ∧ condHolds 6 (cmpOn w t a b).1 = true ∧ condHolds 7 (cmpOn w t a b).1 = false)) ∧
  ((∀ (o : Ops) (s : State) (j : Issued), issued s 26 o false false = some j →
    exec (.sel o) s = .next (j.ends 26 o ((j.wp.writeAll (Ops.dst o j.r) (j.p.vals.filterMap fun x =>
      (j.wp.thread? x.1).map fun th => (x.1,
        (if (if o.form.hasExt then decide (x.2.c ≠ 0) else th.pred o.t) then x.2.a else x.2.b), (0 : XFlags)))).nextPc
        j.p.exec o.form.len) (j.wp.aluAc j.r o j.p.exec 1))) ∧
  (∀ ws : List Word, (Raw.ofWords ws).op = 26 → (Raw.ofWords ws).form.hasExt = true → (Raw.ofWords ws).t ≠ 0 →
    decode ws = .trap 1 26 (Raw.ofWords ws).x (Raw.ofWords ws).form.len
      (Raw.ofWords ws).brk) ∧
  (∀ n, n < 8 → s8src (160 + n) = some (.pred n))))

/-- In f64, f32, f16 and bf16: the sum, difference, product and fused product-sum of finite operands, and the quotient by a nonzero one, is the exact number rounded once in the rounding mode: the nearest finite value (ties to the even pattern, or away from zero), the one toward zero, below or above, NX being raised exactly where it is not exact; beyond every finite value an infinity with OF and NX. An exact zero sum of opposite numbers is −0 only under RD. A NaN operand gives the canonical NaN, with NV exactly for a signalling one; ∞ − ∞ and 0 × ∞ give it with NV, an FMA's 0 × ∞ whatever the addend. MIN and MAX give the lesser and greater number, order −0 below +0, and give the other operand where exactly one is a NaN. The instructions use f32, f64 or two f16 elements by type. (R55, R56, R64, R65, R66, R102, R106) -/
def Obligations.FloatArithmeticValues : Prop :=
  (∀ (F : Fmt) (m : RMode) (a b : Nat) (x y : Rat), F ∈ [Fmt.f64, Fmt.f32, Fmt.f16, Fmt.bf16] →
    numOf (F.decode a) = some x → numOf (F.decode b) = some y →
    Rounded F m (x + y) (F.add m a b) ∧ Rounded F m (x - y) (F.sub m a b) ∧ Rounded F m (x * y) (F.mul m a b) ∧
    (∀ c z, numOf (F.decode c) = some z → Rounded F m (x * y + z) (F.fma m a b c)) ∧
    (y ≠ 0 → Rounded F m (x / y) (F.div m a b)) ∧
    (x + y = 0 → x ≠ 0 → (F.add m a b).v = F.sign (decide (m = .rd))) ∧
    numOf (F.decode (F.minmax false a b).v) = some (min x y) ∧ numOf (F.decode (F.minmax true a b).v) = some (max x y) ∧
    (F.minmax false a b).fl = 0 ∧ (F.minmax true a b).fl = 0) ∧
  (∀ (F : Fmt) (m : RMode) (a b c : Nat) (mx : Bool), F ∈ [Fmt.f64, Fmt.f32, Fmt.f16, Fmt.bf16] →
    F.minmax false (F.sign true) 0 = ⟨F.sign true, 0, false⟩ ∧ F.minmax true (F.sign true) 0 = ⟨0, 0, false⟩ ∧
    (((∃ q, F.decode a = .nan q) ∨ ∃ q, F.decode b = .nan q) → ∀ fl, fl = (if F.decode a = .nan true ∨ F.decode b = .nan true then xNV else 0) →
      F.add m a b = ⟨F.nan, fl, false⟩ ∧ F.sub m a b = ⟨F.nan, fl, false⟩ ∧ F.mul m a b = ⟨F.nan, fl, false⟩ ∧ (F.minmax mx a b).fl = fl ∧
      ((∃ q, F.decode a = .nan q) → (∃ q, F.decode b = .nan q) → (F.minmax mx a b).v = F.nan) ∧
      ((∀ q, F.decode a ≠ .nan q) → a < 2 ^ F.width → (F.minmax mx a b).v = a) ∧
      ((∀ q, F.decode b ≠ .nan q) → b < 2 ^ F.width → (F.minmax mx a b).v = b)) ∧
    (∀ n, F.decode a = .inf n → F.decode b = .inf (!n) → F.add m a b = ⟨F.nan, xNV, false⟩) ∧
    (∀ n, F.decode a = .inf n → F.decode b = .inf n → F.sub m a b = ⟨F.nan, xNV, false⟩) ∧
    (∀ n, ((F.decode a = .inf n ∧ numOf (F.decode b) = some 0) ∨ (F.decode b = .inf n ∧ numOf (F.decode a) = some 0)) →
      F.mul m a b = ⟨F.nan, xNV, false⟩ ∧ F.fma m a b c = ⟨F.nan, xNV, false⟩)) ∧
  (∀ (w : Nat) (F : Fmt) (m : RMode) (a b c : Nat), ((w = 32 ∧ F = .f32) ∨ (w = 64 ∧ F = .f64)) →
    addOn w F m 2 a b = .ok (F.add m a b).v (F.add m a b).fl ∧ subOn w F m 2 a b = .ok (F.sub m a b).v (F.sub m a b).fl ∧
    mulOn w F m 2 a b = .ok (F.mul m a b).v (F.mul m a b).fl ∧ fmaOn w F m 2 a b c = .ok (F.fma m a b c).v (F.fma m a b c).fl ∧
    (divOn m 2 a b = Fmt.f32.div m a b ∧ divOn m 3 a b = Fmt.f64.div m a b) ∧
    ∀ mx, minmaxOn mx 2 a b = .ok (Fmt.f32.minmax mx a b).v (Fmt.f32.minmax mx a b).fl) ∧
  (∀ (m : RMode) (a b : Nat) (r : AluRes) (f : Nat → Nat → FRes),
    ((r = addOn 32 .f32 m 3 a b ∧ f = Fmt.f16.add m) ∨ (r = subOn 32 .f32 m 3 a b ∧ f = Fmt.f16.sub m) ∨
      (r = mulOn 32 .f32 m 3 a b ∧ f = Fmt.f16.mul m) ∨ (∃ mx, r = minmaxOn mx 3 a b ∧ f = Fmt.f16.minmax mx)) →
    r = .ok ((f (a % 2 ^ 16) (b % 2 ^ 16)).v + (f (a / 2 ^ 16 % 2 ^ 16) (b / 2 ^ 16 % 2 ^ 16)).v * 2 ^ 16)
      ((f (a % 2 ^ 16) (b % 2 ^ 16)).fl ||| (f (a / 2 ^ 16 % 2 ^ 16) (b / 2 ^ 16 % 2 ^ 16)).fl))

/-- Where the operands are readable DIV and REM complete: the flags of each participant's division are raised, its destination is marked empty, and its result, the quotient or remainder that the table of R106 gives, is in flight to it; every executing thread advances. That the flags are raised at issue is the model's choice (log entry 99). (R80, R106) -/
def Obligations.DivisionEmptiesItsDestination : Prop :=
  ∀ (o : Ops) (s : State) (j : Issued) (op : Nat) (f : Vals → FRes) (i : Instr),
    ((op = 22 ∧ f = (fun v => divOn (RMode.ofRM o.rm) o.t v.a v.b) ∧ i = .div o) ∨
      (op = 23 ∧ f = (fun v => remOn o.t v.a v.b) ∧ i = .rem o)) →
    issued s op o false false = some j →
    ∃ (w' : Warp) (s' : State),
      j.s.deliverLater j.c j.slot (j.p.vals.foldl (fun (w : Warp) x => w.raise (f x.2).fl) j.wp) op (Ops.dst o j.r) true
        (j.p.vals.map fun x => (x.1, toWords (f x.2).v ((Ops.dst o j.r).elim 0 (·.2)))) = (w', s') ∧
      exec i s = .next ((s'.setWarp j.c j.slot (w'.nextPc j.p.exec o.form.len)).conclude j.c j.slot (siteOf j.wp op o 0 3)
        j.p.exec [] none false (j.wp.aluAc j.r o j.p.exec 1) o.brk)

/-- With idx the unsigned B plus word 2 sign-extended, each participant acts for itself: where idx and, for b64, idx + 1 lie inside its frame, GETX, whose row is readable, writes V(t, idx) or the pair to its D, and PUTX, whose rows no fill is pending for, writes the A value or pair to V(t, idx), and the thread advances; one whose index is negative or not covered by S takes FRAME_INDEX (code 14) at the instruction and writes nothing, whatever the window holds. Every executing thread that does not fault advances, so where every index is inside the frame the instruction completes, and where every one is outside the whole step is those faults. (R91, R93, R121) -/
def Obligations.FrameIndexing : Prop :=
  (∀ (o : Ops) (s : State) (j : Issued) (n : Nat) (res : Nat → Option Nat) (flts : List Flt),
    n = (if o.t = 1 then 2 else 1) → issued s 34 o false false = some j →
    (∀ x ∈ j.p.vals, ∃ th : Thread, j.wp.thread? x.1 = some th ∧ match res x.1 with
      | some v => ∃ i : Nat, (i : Int) = x.2.b + o.w2 ∧ i + n ≤ th.s ∧
          j.wp.readReg x.1 th (.v i) n (match o.a with | .src _ e => e | _ => false) = .val v
      | none => (x.2.b : Int) + o.w2 < 0 ∨ (th.s : Int) < x.2.b + o.w2 + n) →
    flts = j.p.vals.filterMap (fun x => if (res x.1).isNone then some ⟨x.1, 14, 0, 0⟩ else none) →
    exec (.getx o) s = .next ((j.s.setWarp j.c j.slot ((j.wp.writeAll (Ops.dst o j.r) (j.p.vals.filterMap fun x =>
        (res x.1).map fun v => (x.1, v, (0 : XFlags)))).nextPc
          (j.p.exec.filter fun t => !flts.any fun f => decide (f.thread = t)) o.form.len)).conclude j.c j.slot
      (siteOf j.wp 34 o 0 3) j.p.exec flts none false (j.wp.aluAc j.r o j.p.exec 1) o.brk)) ∧
  (∀ (o : Ops) (s : State) (j : Issued) (n : Nat) (idx : Nat → Option Nat) (flts : List Flt),
    n = (if o.t = 1 then 2 else 1) → issued s 35 o false false = some j →
    (∀ x ∈ j.p.vals, ∃ th : Thread, j.wp.thread? x.1 = some th ∧ match idx x.1 with
      | some i => (i : Int) = x.2.b + o.w2 ∧ i + n ≤ th.s ∧
          ∀ k, k < n → j.s.rowPending j.c j.slot j.wp.uid x.1 (th.fp + i + k) = false
      | none => (x.2.b : Int) + o.w2 < 0 ∨ (th.s : Int) < x.2.b + o.w2 + n) →
    flts = j.p.vals.filterMap (fun x => if (idx x.1).isNone then some ⟨x.1, 14, 0, 0⟩ else none) →
    exec (.putx o) s = .next ((j.s.setWarp j.c j.slot ((j.p.vals.foldl (fun (w : Warp) x => match idx x.1 with
        | some i => w.writeDst x.1 (.reg (.v i)) n x.2.a
        | none => w) j.wp).nextPc (j.p.exec.filter fun t => !flts.any fun f => decide (f.thread = t)) o.form.len)).conclude j.c j.slot
      (siteOf j.wp 35 o 0 3) j.p.exec flts none false (j.wp.aluAc j.r o j.p.exec 1) o.brk))

/-- MOV T2 gives every participant the B of the lowest-numbered one; MOV T3 gives every participant the A of the thread that bits 0+5 of B name, 0 where that thread is not alive or the register lies at or above its S; SHFL gives thread t the A of the thread its T and B select, its own A where that thread lies outside the warp or is no participant. A constant window gives every participant its one value. Where the rows read are readable each completes; a uniform destination receives one value (R117, R100). The model's choices are: MOV T3's index is that of the lowest participant's copy (log entry 99), a SHFL's distance is an unsigned number, and the one value of its uniform destination is that of the lowest participant (log entry 22). (R100, R111, R117) -/
def Obligations.WarpWideMovesComplete : Prop :=
  (∀ (o : Ops) (s : State) (j : Issued) (x : Nat × Vals) (rest : List (Nat × Vals)) (t v : Nat) (ts : List Nat),
    issuedBy s 27 o false false (fun r => if Machine.Opd.isWindow o.b then r else { r with b := .zero }) = some j →
    j.p.vals = x :: rest → j.p.vals.map (·.1) = t :: ts → j.wp.beyondIn t 1 o.b = false →
    j.s.readIn j.c j.wp x.2.b t 1 o.b = .val v →
    exec (.movFirst o) s = .next (j.ends 27 o ((j.wp.writeAll (Ops.dst o j.r)
      ((t :: ts).map fun u => (u, v, (0 : XFlags)))).nextPc j.p.exec o.form.len) (j.wp.aluAc j.r o j.p.exec 1))) ∧
  (∀ (o : Ops) (s : State) (j : Issued) (x : Nat × Vals) (rest : List (Nat × Vals)) (v : Nat),
    issuedBy s 27 o false false (fun r => if Machine.Opd.isWindow o.a then r else { r with a := .zero }) = some j →
    j.p.vals = x :: rest →
    ((Machine.Opd.isWindow o.a = true ∧ v = x.2.a) ∨ (Machine.Opd.isWindow o.a = false ∧ ∃ th, j.wp.thread? (bits x.2.b 0 5) = some th ∧ th.alive = true ∧ Machine.Opd.beyond th 1 o.a = false ∧
        j.s.readIn j.c j.wp 0 (bits x.2.b 0 5) 1 o.a = .val v) ∨
      (Machine.Opd.isWindow o.a = false ∧ v = 0 ∧ ∀ th, j.wp.thread? (bits x.2.b 0 5) = some th → th.alive = false ∨ Machine.Opd.beyond th 1 o.a = true)) →
    exec (.movFrom o) s = .next (j.ends 27 o ((j.wp.writeAll (Ops.dst o j.r)
      (j.p.vals.map fun y => (y.1, v, (0 : XFlags)))).nextPc j.p.exec o.form.len) (j.wp.aluAc j.r o j.p.exec 1))) ∧
  (∀ (o : Ops) (s : State) (j : Issued) (src val out : Nat → Nat),
    issuedBy s 30 o false false (fun r => if Machine.Opd.isWindow o.a then r else { r with a := .zero }) = some j →
    ((∀ i n, Ops.dst o j.r ≠ some (.reg (.g i), n)) → ∀ x ∈ j.p.vals, out x.1 = val x.1) →
    ((∃ i n, Ops.dst o j.r = some (.reg (.g i), n)) → ∀ x ∈ j.p.vals, out x.1 = (j.p.vals.map fun y => val y.1).headD 0) →
    (∀ x ∈ j.p.vals, j.wp.beyondIn x.1 1 o.a = false) →
    (∀ x ∈ j.p.vals,
      let k : Int := match o.t with
        | 0 => ((x.2.b % 32 : Nat) : Int)
        | 1 => (x.1 : Int) - x.2.b
        | 2 => (x.1 : Int) + x.2.b
        | _ => ((x.1 ^^^ (x.2.b % 32) : Nat) : Int)
      (src x.1 : Int) = (if ∃ y ∈ j.p.vals, (y.1 : Int) = k then k else x.1) ∧
        (if Machine.Opd.isWindow o.a then Rd.val x.2.a else j.s.readIn j.c j.wp 0 (src x.1) 1 o.a) = .val (val x.1)) →
    exec (.shfl o) s = .next (j.ends 30 o ((j.wp.writeAll (Ops.dst o j.r)
      (j.p.vals.map fun x => (x.1, out x.1, (0 : XFlags)))).nextPc j.p.exec o.form.len) (j.wp.aluAc j.r o j.p.exec 1)))

/-- Where the operands are readable: REDUX gives every participant the operation over all of them; SCAN gives participant t the operation over the participants up to t, or below t in the exclusive form; VOTE gives every participant any, all, the ballot mask or uniform of the votes; CVT codes 100 to 102 pack the 32 inputs, +0 for a thread that does not participate, into one block: thread t receives word t of the packed elements or 0, a uniform destination that of the lowest participant (log entry 22), and C the scale word in every copy a participant holds. The flags are raised once and every executing thread advances. Over integers of 32 or 64 bits the sum is the sum modulo 2^32 or 2^64, signed and unsigned min and max are the least and greatest value, and, or, xor are bitwise; over no value the result is the identity of Table 10. VOTE's ballot has bit t set exactly for each participant t whose vote is true, and uniform is 1 exactly where all votes are equal. (R62, R100, R114, R118, R119, R120) -/
def Obligations.ReductionsComplete : Prop :=
  (((∀ (o : Ops) (s : State) (j : Issued), issued s 31 o false false = some j →
    exec (.redux o) s = .next (j.ends 31 o ((j.wp.writeAll (Ops.dst o j.r) (j.p.vals.map fun x =>
      (x.1, redAll (RMode.ofRM o.rm) (rawField o.b) o.t (j.p.vals.map (·.2.a))))).nextPc j.p.exec o.form.len)
        (j.wp.aluAc j.r o j.p.exec 1))) ∧
  (∀ (o : Ops) (s : State) (j : Issued) (part : Nat → List Nat), issued s 32 o false false = some j →
    (∀ t, part t = (j.p.vals.filter fun y => if o.t = 0 then decide (y.1 ≤ t) else decide (y.1 < t)).map (·.2.a)) →
    ∃ fl : XFlags,
      exec (.scan o) s = .next (j.ends 32 o ((j.wp.writeAll (Ops.dst o j.r) (j.p.vals.map fun x =>
        (x.1, (redAll (RMode.ofRM o.rm) (rawField o.b % 8) (rawField o.b / 8 % 4) (part x.1)).1, fl))).nextPc
          j.p.exec o.form.len) (j.wp.aluAc j.r o j.p.exec 1))) ∧
  (∀ (o : Ops) (s : State) (j : Issued) (vote : Nat → Bool), issued s 33 o false false = some j →
    (∀ x ∈ j.p.vals, ∃ th, j.wp.thread? x.1 = some th ∧
      vote x.1 = (if bit (rawField o.b) 3 then th.pred (rawField o.b % 8) else decide (x.2.a ≠ 0))) →
    exec (.vote o) s = .next (j.ends 33 o ((j.wp.writeAll (Ops.dst o j.r) (j.p.vals.map fun x =>
      (x.1, voteOn o.t (j.p.vals.map fun y => (y.1, vote y.1)), (0 : XFlags)))).nextPc j.p.exec o.form.len)
        (if o.a = .none then j.p.exec.length else j.wp.aluAc j.r o j.p.exec 1)))) ∧
  (∀ (o : Ops) (s : State) (j : Issued) (g : Dst) (x : Nat → FVal) (k : Nat → Nat),
    (∀ t, k t = if (match Ops.dst o j.r with | some (.reg (.g _), _) => true | _ => false) = true
      then (j.p.vals.map (·.1)).headD 0 else t) →
    packs o = true → o.c = .dst g → issued s 28 o false false = some j →
    (∀ t, x t = match j.p.vals.find? fun y => decide (y.1 = t) with
      | some y => Fmt.f32.decode y.2.a
      | none => FVal.fin false 0 0) →
    let F := dsbF (rawField o.b - 100)
    let blk := dsbPack F ((List.range 32).map x)
    exec (.cvt o) s = .next (j.ends 28 o ((j.p.vals.foldl (fun (w : Warp) y => w.writeDst y.1 g 1 blk.scale)
      (j.wp.writeAll (Ops.dst o j.r) (j.p.vals.map fun y =>
        (y.1, (if k y.1 < F + 2 then bits (packCodes (F + 2) blk.codes) (32 * k y.1) 32 else 0), blk.fl)))).nextPc
          j.p.exec o.form.len) j.p.exec.length))) ∧
  (∀ (m : RMode) (w ty v : Nat) (vs : List Nat), ((w = 32 ∧ ty = 1) ∨ (w = 32 ∧ ty = 0) ∨ (w = 64 ∧ ty = 3)) → (∀ x ∈ v :: vs, x < 2 ^ w) →
    redAll m 0 ty (v :: vs) = ((v :: vs).sum % 2 ^ w, 0) ∧
    (ty = 1 → redAll m 1 ty (v :: vs) = (vs.foldl Nat.min v, 0) ∧ redAll m 2 ty (v :: vs) = (vs.foldl Nat.max v, 0)) ∧
    (ty ≠ 1 → ∃ a b, redAll m 1 ty (v :: vs) = (a, 0) ∧ redAll m 2 ty (v :: vs) = (b, 0) ∧ a ∈ v :: vs ∧ b ∈ v :: vs ∧
      ∀ x ∈ v :: vs, sext a w ≤ sext x w ∧ sext x w ≤ sext b w) ∧
    redAll m 3 ty (v :: vs) = (vs.foldl (· &&& ·) v, 0) ∧ redAll m 4 ty (v :: vs) = (vs.foldl (· ||| ·) v, 0) ∧
    redAll m 5 ty (v :: vs) = (vs.foldl (· ^^^ ·) v, 0)) ∧
  (∀ m : RMode, (∀ ty, ty < 4 → redAll m 0 ty [] = (0, 0)) ∧ redAll m 1 0 [] = (2 ^ 31 - 1, 0) ∧ redAll m 2 0 [] = (2 ^ 31, 0) ∧
    redAll m 1 1 [] = (2 ^ 32 - 1, 0) ∧ redAll m 2 1 [] = (0, 0) ∧ redAll m 3 0 [] = (2 ^ 32 - 1, 0) ∧
    redAll m 3 1 [] = (2 ^ 32 - 1, 0) ∧ (∀ ty, ty = 0 ∨ ty = 1 ∨ ty = 3 → redAll m 4 ty [] = (0, 0) ∧ redAll m 5 ty [] = (0, 0)) ∧
    redAll m 1 3 [] = (2 ^ 63 - 1, 0) ∧ redAll m 2 3 [] = (2 ^ 63, 0) ∧ redAll m 3 3 [] = (2 ^ 64 - 1, 0) ∧
    redAll m 1 2 [] = (0x7F800000, 0) ∧ redAll m 2 2 [] = (0xFF800000, 0)) ∧
  (∀ (vs : List (Nat × Bool)), (vs.map (·.1)).Nodup → ∀ t, bit (voteOn 2 vs) t = vs.any fun x => decide (x.1 = t) && x.2) ∧
  (∀ vs : List (Nat × Bool), voteOn 3 vs = 1 ↔ ∀ x ∈ vs, ∀ y ∈ vs, x.2 = y.2)

/-- A conversion of codes 0 to 95 takes its source, of the format code mod 8, to the format code / 8 of Table 6. To a floating-point format a finite value is rounded once; where that overflows, policy 0 gives the largest finite value of its sign, 1 the infinity, 2 the canonical NaN and 3 ARITH_OVERFLOW (13). To an integer of w bits it is the nearest integer of the mode, wrapped in range with NX where it changed; outside, policy 0 clamps with SAT and 3 faults; a NaN gives 0 with NV, an infinity the nearest end with NV. A conversion within one format gives the nearest integral value. FUN's rcp is the reciprocal rounded once, its sqrt the root rounded in the mode, NX being raised exactly where it is inexact; exp2 of an integer and log2 of a power of two are exact, sinpi and cospi are zero where Table 9 says so, and zeros, infinities, negative operands and NaNs give what Table 9 says. (R57, R64, R65, R68, R112, R113, R116) -/
def Obligations.ConversionAndFunctionValues : Prop :=
  (∀ (F : Fmt) (mode : RMode) (ov : Nat) (n : Bool) (m : Nat) (e : Int) (x : Rat), F ∈ [Fmt.f64, Fmt.f32, Fmt.f16, Fmt.bf16] →
    numOf (.fin n m e) = some x → ov < 4 →
    ∀ r, r = F.round mode (.fin n m e) → Rounded F mode x r ∧
      (r.ovf = true → r.fl = xOF + xNX ∧ ∀ w q, numOf (F.decode w) = some q → mag q < mag x) ∧
      F.cvt mode ov (.fin n m e) = (if r.ovf then (match ov with
        | 0 => .ok (F.maxFinite n) r.fl
        | 1 => .ok (F.inf n) r.fl
        | 2 => .ok F.nan r.fl
        | _ => .overflow) else .ok r.v r.fl)) ∧
  (∀ (w : Nat) (sg : Bool) (mode : RMode) (n : Bool) (m : Nat) (e lo hi : Int) (x : Rat), w ∈ [8, 16, 32, 64] →
    numOf (.fin n m e) = some x → lo = (if sg then -(2 ^ (w - 1) : Int) else 0) → hi = (if sg then 2 ^ (w - 1) - 1 else 2 ^ w - 1) →
    ∃ i : Int, NearestInt mode x i ∧
      (lo ≤ i ∧ i ≤ hi → ∀ ov, cvtInt w sg mode ov (.fin n m e) = .ok (i % 2 ^ w).toNat (if (i : Rat) = x then 0 else xNX)) ∧
      (¬(lo ≤ i ∧ i ≤ hi) → cvtInt w sg mode 0 (.fin n m e) = .ok ((if i < lo then lo else hi) % 2 ^ w).toNat xSAT ∧
        cvtInt w sg mode 3 (.fin n m e) = .overflow) ∧
      (∀ q, cvtInt w sg mode 0 (.nan q) = .ok 0 xNV ∧ cvtInt w sg mode 3 (.nan q) = .overflow) ∧
      ∀ neg, cvtInt w sg mode 0 (.inf neg) = .ok ((if neg then lo else hi) % 2 ^ w).toNat xNV ∧ cvtInt w sg mode 3 (.inf neg) = .overflow) ∧
  (∀ (mode : RMode) (ov code x : Nat) (src : FVal), code < 96 →
    (∀ F, [Fmt.f64, Fmt.f32, Fmt.f16, Fmt.bf16][code % 8]? = some F → src = F.decode (x % 2 ^ F.width)) →
    (∀ w sg, [(32, true), (32, false), (64, true), (64, false)][code % 8 - 4]? = some (w, sg) → 4 ≤ code % 8 →
      src = FVal.ofInt (if sg then sext x w else ((x % 2 ^ w : Nat) : Int))) →
    (∀ F, [Fmt.f64, Fmt.f32, Fmt.f16, Fmt.bf16][code / 8]? = some F → code / 8 ≠ code % 8 → (∀ q, src ≠ .nan q) →
      cvtScalar mode ov code x = (match F.cvt mode ov src with | .ok v fl => .ok v fl | .overflow => .flt 13 0 0)) ∧
    (∀ F q, [Fmt.f64, Fmt.f32, Fmt.f16, Fmt.bf16][code / 8]? = some F → code / 8 ≠ code % 8 → src = .nan q →
      cvtScalar mode ov code x = .ok F.nan (if q then xNV else 0)) ∧
    (∀ F n m e r v fl, [Fmt.f64, Fmt.f32, Fmt.f16, Fmt.bf16][code / 8]? = some F → code / 8 = code % 8 → src = .fin n m e →
      numOf src = some r → cvtScalar mode ov code x = .ok v fl →
      ∃ i : Int, NearestInt mode r i ∧ numOf (F.decode v) = some (i : Rat) ∧ fl = (if (i : Rat) = r then 0 else xNX)) ∧
    (∀ w sg, [(32, true), (32, false), (64, true), (64, false), (16, true), (16, false), (8, true), (8, false)][code / 8 - 4]? = some (w, sg) →
      4 ≤ code / 8 → cvtScalar mode ov code x = (match cvtInt w sg mode ov src with
        | .ok v fl => .ok (if sg ∧ w < 32 then (sext v w % 2 ^ 32).toNat else v) fl
        | .overflow => .flt 13 0 0))) ∧
  (∀ (F : Fmt) (mode : RMode) (a : Nat) (x : Rat), F ∈ [Fmt.f64, Fmt.f32, Fmt.f16, Fmt.bf16] → numOf (F.decode a) = some x →
    (x ≠ 0 → Rounded F mode (1 / x) (F.fn mode 1 a)) ∧
    (0 < x → ∃ r, numOf (F.decode (F.fn mode 0 a).v) = some r ∧ 0 ≤ r ∧ (bit (F.fn mode 0 a).fl 4 = true ↔ r * r ≠ x) ∧
      ∀ w q, numOf (F.decode w) = some q → 0 ≤ q →
        (mode = .rd ∨ mode = .rz → r * r ≤ x ∧ (q * q ≤ x → q ≤ r)) ∧ (mode = .ru → x ≤ r * r ∧ (x ≤ q * q → r ≤ q)) ∧
        (mode = .rne ∨ mode = .rna → (r < q → 4 * x ≤ (r + q) * (r + q)) ∧ (q < r → (r + q) * (r + q) ≤ 4 * x))) ∧
    (x < 0 → ∀ code, code = 0 ∨ code = 2 ∨ code = 4 → F.fn mode code a = ⟨F.nan, xNV, false⟩) ∧
    (x = 0 → (F.fn mode 4 a = ⟨F.inf true, xDZ, false⟩) ∧ ∃ n, (n = true ↔ bit a (F.width - 1) = true) ∧ F.fn mode 0 a = ⟨F.sign n, 0, false⟩ ∧
      F.fn mode 1 a = ⟨F.inf n, xDZ, false⟩ ∧ F.fn mode 2 a = ⟨F.inf n, xDZ, false⟩) ∧
    (∀ k : Int, (x = (k : Rat) → F.emin - F.mb ≤ k → k ≤ F.bias →
        (F.fn mode 3 a).fl = 0 ∧ numOf (F.decode (F.fn mode 3 a).v) = some ((2 : Rat) ^ k)) ∧
      (x = (2 : Rat) ^ k → (F.fn mode 4 a).fl = 0 ∧ numOf (F.decode (F.fn mode 4 a).v) = some (k : Rat)) ∧
      (x = (k : Rat) → F.fn mode 5 a = ⟨F.sign (bit a (F.width - 1)), 0, false⟩) ∧
      (2 * x = 2 * (k : Rat) + 1 → F.fn mode 6 a = ⟨0, 0, false⟩))) ∧
  (∀ (F : Fmt) (mode : RMode) (a : Nat), F ∈ [Fmt.f64, Fmt.f32, Fmt.f16, Fmt.bf16] →
    (∀ q code, F.decode a = .nan q → F.fn mode code a = ⟨F.nan, if q then xNV else 0, false⟩) ∧
    (F.decode a = .inf true → F.fn mode 3 a = ⟨0, 0, false⟩ ∧ F.fn mode 8 a = ⟨0, 0, false⟩ ∧ F.fn mode 9 a = ⟨0, 0, false⟩ ∧
      numOf (F.decode (F.fn mode 7 a).v) = some (-1)) ∧
    (F.decode a = .inf false → numOf (F.decode (F.fn mode 7 a).v) = some 1 ∧ numOf (F.decode (F.fn mode 8 a).v) = some 1) ∧
    ∀ n, F.decode a = .inf n → F.fn mode 5 a = ⟨F.nan, xNV, false⟩ ∧ F.fn mode 6 a = ⟨F.nan, xNV, false⟩) ∧
  (∀ (mode : RMode) (code a : Nat), funOn mode 0 code a = .ok (Fmt.f32.fn mode code a).v (Fmt.f32.fn mode code a).fl ∧
    funOn mode 2 code a = .ok (Fmt.f64.fn mode code a).v (Fmt.f64.fn mode code a).fl ∧
    (∀ t F, (t = 1 ∧ F = Fmt.f16) ∨ (t = 3 ∧ F = Fmt.bf16) → funOn mode t code a =
      .ok ((F.fn mode code (a % 2 ^ 16)).v + (F.fn mode code (a / 2 ^ 16 % 2 ^ 16)).v * 2 ^ 16)
        ((F.fn mode code (a % 2 ^ 16)).fl ||| (F.fn mode code (a / 2 ^ 16 % 2 ^ 16)).fl)))

/-- After results are written to the frame registers of a destination, those cells of each receiving thread hold the words of its value, full and clear of poison; every other cell of the window of every thread, its predicates and its PC are as before; the uniform files are as before. Two registers of one destination are two cells where the window has as many rows. (R76, R91) -/
def Obligations.ResultsReachTheirDestinations : Prop :=
  ∀ (w : Warp) (i n : Nat) (rs : List (Nat × Nat × XFlags)), (rs.map (·.1)).Nodup → n ≤ w.win →
    (∀ th ∈ w.threads, th.cells.length = w.win) →
    let w' := w.writeAll (some (.reg (.v i), n)) rs
    w'.copies = w.copies ∧ w'.threads.length = w.threads.length ∧
    ∀ t th, w.thread? t = some th → ∃ th', w'.thread? t = some th' ∧
      th'.pc = th.pc ∧ th'.preds = th.preds ∧ th'.fp = th.fp ∧ th'.s = th.s ∧ th'.link = th.link ∧
      th'.cells.length = w.win ∧
      (∀ v fl, (t, v, fl) ∈ rs → ∀ k, k < n → th'.cell (th.fp + i + k) = Cell.of (v / 2 ^ (32 * k))) ∧
      (∀ row, row < w.win → ((∀ k, k < n → (th.fp + i + k) % w.win ≠ row) ∨ t ∉ rs.map (·.1)) → th'.cell row = th.cell row)

/-- For the per-thread computations, compares, PLOG and SEL, where nothing faults and no meeting point is pending: memory but for what of the warp has left for its private area, poison, the results and accesses in flight, contexts, queues, groups, dies but for their counts of migration notices and snoop filters, clusters but for their TLBs, and every other warp are unchanged, provided no constant window is read or no line is noted for a release; in the warp, every thread keeps its frame, link stack, depth, gambit and trap state; every cell outside the destination registers keeps its value, fullness and poison; predicates change only where the destination is a predicate, the uniform copies only where it is a uniform register. Reading operands may fill the constant cache, a TLB and an L2 slice, which may give a migration notice, and count free values. (R75, R76, R95, R99) -/
def Obligations.RegisterInstructionFrame : Prop :=
  ∀ (i : Instr) (op : Nat) (o : Ops) (s t : State) (j : Issued) (wp : Warp),
    ((∃ each f, aluOf i = some (op, o, each, f) ∧ ∀ x ∈ j.p.vals, ∃ v fl, f x.2 = .ok v fl) ∨
      (∃ f, predOf i = some (op, o, f)) ∨ (op = 26 ∧ i = .sel o)) →
    issued s op o false false = some j → readsQuietly s o j.r → s.warp? j.c j.slot = some wp →
    (∀ th ∈ wp.threads, th.meetA = 0 ∧ ∀ a d, LinkRec.meet a d ∈ th.link → a = 0) →
    exec i s = .next t →
    sameMem s t j.c j.slot ∧ t.poison = s.poison ∧ t.results = s.results ∧ t.acc = s.acc ∧ t.vers = s.vers ∧ t.ctxs = s.ctxs ∧
    t.queues = s.queues ∧ t.groups = s.groups ∧ t.time = s.time ∧
    (∀ k, { (t.die k) with noticeCount := 0, snoop := [] } = { (s.die k) with noticeCount := 0, snoop := [] } ∧ { (t.cluster k) with tlb := [] } = { (s.cluster k) with tlb := [] }) ∧
    (∀ k, k ≠ 256 * j.c + j.slot → t.warps.get? k = s.warps.get? k) ∧
    ∃ wp', t.warp? j.c j.slot = some wp' ∧ wp'.threads.length = wp.threads.length ∧ wp'.ctx = wp.ctx ∧
      wp'.fences = wp.fences ∧ wp'.ln = wp.ln ∧
      ∀ n th, wp.thread? n = some th → ∃ th', wp'.thread? n = some th' ∧
        th'.fp = th.fp ∧ th'.s = th.s ∧ th'.depth = th.depth ∧ th'.link = th.link ∧ th'.alive = th.alive ∧
        th'.copy = th.copy ∧ th'.trap = th.trap ∧ th'.gambit = th.gambit ∧
        (n ∉ wp.executing → th'.pc = th.pc ∧ th'.cells = th.cells ∧ th'.preds = th.preds) ∧
        (∀ row, (∀ g k, Ops.dst o j.r = some (.reg (.v g), k) → ∀ q, q < k → (th.fp + g + q) % th.cells.length ≠ row) →
          row < th.cells.length → th'.cell row = th.cell row) ∧
        ((∀ q k, Ops.dst o j.r ≠ some (.pred q, k)) → predOf i = none → th'.preds = th.preds) ∧
        ((∀ g k, Ops.dst o j.r ≠ some (.reg (.g g), k)) → th.alive = true →
          (wp'.copy th'.copy).vals = (wp.copy th.copy).vals)

/-- With every target formed valid: BRA T0 sends to the relative target the participants whose named predicate differs from the negate bit, T1 all, T2 each to the pair it reads in A, BRAU those whose A satisfies the condition of T; the others advance by the length. Every BRA may fork the warp, T1 where its guard leaves threads behind (05:R83; log entry 40); BRAU does not. (R124, R125, R126, R127) -/
def Obligations.BranchesComplete : Prop :=
  ∀ (o : Ops) (s : State) (j : Issued) (th : Nat → Thread), (∀ x ∈ j.p.vals, j.wp.thread? x.1 = some (th x.1)) →
    (issued s 38 o false false = some j → (∀ x ∈ j.p.vals, goodTarget (relTarget (th x.1).pc o o.a) = true) →
      exec (.bra o) s = .next (j.moves 38 o j.s (j.p.vals.map fun x => (x.1,
        if ((th x.1).pred (rawField o.d % 8) ^^ bit (rawField o.d) 3) then Move.to (relTarget (th x.1).pc o o.a) else .next)) true) ∧
      exec (.braAlways o) s = .next (j.moves 38 o j.s (j.p.vals.map fun x => (x.1, .to (relTarget (th x.1).pc o o.a))) true)) ∧
    (issued s 38 o false false = some j → (∀ x ∈ j.p.vals, goodTarget x.2.a = true) →
      exec (.braInd o) s = .next (j.moves 38 o j.s (j.p.vals.map fun x => (x.1, .to x.2.a)) true)) ∧
    (issued s 39 o false false = some j → (∀ x ∈ j.p.vals, goodTarget (relTarget (th x.1).pc o o.d) = true) →
      exec (.brau o) s = .next (j.moves 39 o j.s (j.p.vals.map fun x => (x.1,
        if (match o.t with
          | 0 => decide (x.2.a ≠ 0)
          | 1 => decide (x.2.a = 0)
          | 2 => true
          | _ => bit x.2.a 31) = true
        then Move.to (relTarget (th x.1).pc o o.d) else .next)) false))

/-- In a base form the offset is the 14-bit signed number whose high 7 bits stand in the first field and whose low 7 bits stand in Bs, so from −8192 to 8191 words; in an extended form it is word 2 as a signed 32-bit number. A target is invalid exactly where it is no multiple of 4 or is 2^57 or above. At a BRA, BRAU, CALL or MEET whose relative target is invalid, every executing thread whose guard holds takes BAD_TARGET (code 23) with that target as the address, whether or not its condition would take the branch; its effects are suppressed. A MEET of target 0 faults likewise. (R124, R128, R132) -/
def Obligations.Targets : Prop :=
  ((∀ (pc : DWord) (o : Ops) (h b : Nat) (hi : Opd), o.form.hasExt = false → hi = .num h → o.b = .num b → h < 128 → b < 128 →
    (relTarget pc o hi : Int) = ((pc.toNat : Int) + 4 * (if h < 64 then ((128 * h + b : Nat) : Int)
      else ((128 * h + b : Nat) : Int) - 16384)) % 2 ^ 64) ∧
  (∀ (pc : DWord) (o : Ops) (hi : Opd), o.form.hasExt = true → -2 ^ 31 ≤ o.w2 → o.w2 < 2 ^ 31 →
    (relTarget pc o hi : Int) = ((pc.toNat : Int) + 4 * o.w2) % 2 ^ 64) ∧
  (∀ x : Nat, goodTarget x = false ↔ x % 4 ≠ 0 ∨ 2 ^ 57 ≤ x)) ∧
  (∀ (o : Ops) (s : State) (j : Issued) (op tgt : Nat) (i : Instr) (forks : Bool) (hi : Opd),
    ((op = 38 ∧ hi = o.a ∧ ((i = .bra o ∧ forks = true) ∨ (i = .braAlways o ∧ forks = true))) ∨
      (op = 39 ∧ hi = o.d ∧ i = .brau o ∧ forks = false) ∨ (op = 40 ∧ hi = o.a ∧ i = .call o ∧ forks = false) ∨
      (op = 44 ∧ hi = o.a ∧ i = .meet o ∧ forks = false)) →
    issued s op o false false = some j → (∀ pc, j.wp.issuePc = some pc → relTarget pc o hi = tgt) →
    (goodTarget tgt = false ∨ (op = 44 ∧ tgt = 0)) →
    ∃ u, (u = j.s ∨ u = j.s.setWarp j.c j.slot j.wp) ∧
      exec i s = .next (j.moves op o u (j.p.vals.map fun x => (x.1, Move.flt 23 0 tgt)) forks))

/-- Where BRA T0, BRA T2 or BRAU completes and no meeting point is pending in the warp, each participant that branches has its target as PC, every other executing thread the PC after the instruction, and every other thread its old PC; memory is unchanged but for what of the warp leaves for its private area, where a fork has made copies of the uniform file. (R75, R86, R95, R125, R126) -/
def Obligations.BranchesSetThePcs : Prop :=
  ∀ (op : Nat) (o : Ops) (s t : State) (j : Issued) (ms : List (Nat × Move)) (forks : Bool),
    issued s op o false false = some j → readsQuietly s o j.r → ms.map (·.1) = j.p.vals.map (·.1) →
    (∀ x ∈ ms, x.2 = .next ∨ ∃ pc, x.2 = .to pc) →
    (∀ th ∈ j.wp.threads, th.meetA = 0 ∧ ∀ a d, LinkRec.meet a d ∈ th.link → a = 0) →
    j.moves op o j.s ms forks = t →
    sameMem s t j.c j.slot ∧ ∃ wp', t.warp? j.c j.slot = some wp' ∧
      ∀ n th, j.wp.thread? n = some th → ∃ th', wp'.thread? n = some th' ∧ th'.link = th.link ∧ th'.fp = th.fp ∧
        th'.cells = th.cells ∧ th'.preds = th.preds ∧ th'.depth = th.depth ∧
        (∀ pc, (n, Move.to pc) ∈ ms → th'.pc = BitVec.ofNat 64 pc) ∧
        (n ∈ j.p.exec → (∀ pc, (n, Move.to pc) ∉ ms) → th'.pc = th.pc + BitVec.ofNat 64 o.form.len) ∧
        (n ∉ j.p.exec → th'.pc = th.pc)

/-- Where the target is valid, k is at most S, the link stack has room and no spilled page is missing, CALL and CALLI make the callee's frame in every participant and go to the target, CALLI forking where targets differ; RET with a call record on top of each link stack goes to its address, with the frame restored, and forks by outcome; FRAME of at most W registers, without a missing page, sets S. (R125, R128, R130, R131) -/
def Obligations.CallsAndReturnsComplete : Prop :=
  ∀ (o : Ops) (s : State) (j : Issued) (th : Nat → Thread), (∀ x ∈ j.p.vals, j.wp.thread? x.1 = some (th x.1)) →
    (∀ (i : Instr) (op : Nat) (tgt : Nat × Vals → Nat) (forks : Bool),
      ((i = .call o ∧ op = 40 ∧ forks = false ∧ tgt = fun x => relTarget (th x.1).pc o o.a) ∨
        (i = .calli o ∧ op = 41 ∧ forks = true ∧ tgt = fun x => x.2.a)) →
      issued s op o false false = some j →
      (∀ x ∈ j.p.vals, goodTarget (tgt x) = true ∧ rawField o.d ≤ (th x.1).s ∧ (th x.1).link.length < 260 ∧
        j.s.spillCheck j.c j.wp x.1 (th x.1) ((th x.1).fp + (th x.1).s - rawField o.d + max (rawField o.d) 1) = .ok) →
      exec i s = .next (j.moves op o (j.p.vals.foldl (fun (s : State) x =>
        s.callThread j.c j.slot x.1 (rawField o.d) (tgt x) o.form.len op) (j.s.setWarp j.c j.slot j.wp)) (j.p.vals.map fun x => (x.1, .to (tgt x))) forks)) ∧
    (issued s 42 o false false = some j → ∀ (ret : Nat → DWord) (sz k : Nat → Nat),
      (∀ x ∈ j.p.vals, (th x.1).link.head? = some (.call (ret x.1) (sz x.1) (k x.1))) →
      exec (.ret o) s = .next (j.moves 42 o (j.s.setWarp j.c j.slot (j.p.vals.foldl (fun (w : Warp) x =>
        w.modThread x.1 fun u => u.popFrame (sz x.1) (k x.1)) j.wp)) (j.p.vals.map fun x => (x.1, .to (ret x.1).toNat)) true)) ∧
    (issued s 43 o false false = some j → rawField o.d ≤ j.wp.win →
      (∀ x ∈ j.p.vals, (th x.1).s < rawField o.d → j.s.spillCheck j.c j.wp x.1 (th x.1) ((th x.1).fp + rawField o.d) = .ok) →
      exec (.frame o) s = .next (j.moves 43 o (j.p.vals.foldl (fun (s : State) x =>
        s.frameThread j.c j.slot x.1 (rawField o.d) o.form.len) (j.s.setWarp j.c j.slot j.wp)) [] false))

/-- A call in a thread leaves FP + S − k as FP, max(k, 1) as S, DEPTH one higher, the target as PC, and a call record with the return address, S and k on top of the link stack; popping that record gives the caller's FP, S and DEPTH back. (R88, R128, R130) -/
def Obligations.CallFrames : Prop :=
  ∀ (s : State) (c slot t k tgt len op : Nat) (wp : Warp) (th : Thread),
    s.warp? c slot = some wp → wp.thread? t = some th → k ≤ th.s →
    ∃ wp' th', (s.callThread c slot t k tgt len op).warp? c slot = some wp' ∧ wp'.thread? t = some th' ∧
      th'.fp = th.fp + th.s - k ∧ th'.s = max k 1 ∧ th'.depth = th.depth + 1 ∧ th'.pc = BitVec.ofNat 64 tgt ∧
      th'.link = .call (th.pc + BitVec.ofNat 64 len) th.s k :: th.link ∧ th'.preds = th.preds ∧
      (th'.popFrame th.s k).fp = th.fp ∧ (th'.popFrame th.s k).s = th.s ∧ (th'.popFrame th.s k).depth = th.depth ∧
      (th'.popFrame th.s k).link = th.link

/-- With a valid nonzero target, room in the link stacks, and every participant's point in the meeting table or room for all of them, MEET completes: each participant pushes a meet record of its old meeting register, its meeting register becomes the target with its DEPTH, and it advances; the hold tests follow. (R77, R78, R132) -/
def Obligations.MeetCompletes : Prop :=
  ∀ (o : Ops) (s : State) (j : Issued) (tgt : Nat) (th : Nat → Thread),
    (∀ x ∈ j.p.vals, j.wp.thread? x.1 = some (th x.1)) → issued s 44 o false false = some j →
    relTarget (j.wp.issuePc.getD 0) o o.a = tgt → goodTarget tgt = true → tgt ≠ 0 →
    (∀ x ∈ j.p.vals, (th x.1).link.length < 260) →
    (j.wp.meets.length + j.p.vals.length ≤ 32 ∨
      ∀ x ∈ j.p.vals, (BitVec.ofNat 64 tgt, (th x.1).depth) ∈ j.wp.meets.map fun e => (e.addr, e.depth)) →
    exec (.meet o) s = .next (j.moves 44 o (j.s.setWarp j.c j.slot (j.p.vals.foldl (fun (w : Warp) x =>
      w.modThread x.1 fun u => { u with link := .meet u.meetA u.meetD :: u.link, linkRes := min (u.linkRes + 1) 4,
                                        meetA := BitVec.ofNat 64 tgt, meetD := u.depth }) j.wp))
      (j.p.vals.map fun x => (x.1, Move.next)) false)

/-- Where a task's earlier accesses are performed, EXIT ends every participant; the castling exit ends every participant and records its card address in the phalanx where none or the same address is recorded. After an EXIT no participant is alive, and where every alive thread of the warp took part, its warp slot is free. (R133, R134, R305) -/
def Obligations.ExitsComplete : Prop :=
  (∀ (o : Ops) (s : State) (j : Issued), issued s 45 o false false = some j →
    j.s.exitWaits j.c j.slot j.wp (j.p.vals.map (·.1)) = [] →
    exec (.exit o) s = .next (j.moves 45 o ((j.p.vals.map (·.1)).foldl (fun s t => s.exitThread j.c j.slot t) j.s) [] false) ∧
    ∀ (g : Group) (ph : Phalanx) (card : Nat), j.s.group? j.c j.wp.gslot = some g → j.s.phalanx? j.c g.phx = some ph →
      card < 2 ^ 64 → card ≠ 0 → (∀ x ∈ j.p.vals, x.2.a = card) → (ph.castle = 0 ∨ ph.castle.toNat = card) →
      exec (.exitCastle o) s = .next (j.moves 45 o ((j.p.vals.map (·.1)).foldl (fun s t => s.exitThread j.c j.slot t)
        (j.s.setPhalanx j.c g.phx (some { ph with
          castle := if j.p.vals.isEmpty then ph.castle else BitVec.ofNat 64 card })))
        (j.p.vals.map fun x => (x.1, Move.next)) false)) ∧
  (∀ (o : Ops) (s : State) (j : Issued), issued s 45 o false false = some j →
    j.s.exitWaits j.c j.slot j.wp (j.p.vals.map (·.1)) = [] →
    ∃ t, exec (.exit o) s = .next t ∧
      (∀ wp', t.warp? j.c j.slot = some wp' → ∀ x ∈ j.p.vals, ∀ th, wp'.thread? x.1 = some th → th.alive = false) ∧
      ((∀ n th, j.wp.thread? n = some th → th.alive = true → n ∈ j.p.vals.map (·.1)) → t.warp? j.c j.slot = none))

/-- TRAP completes by its own effect: every executing thread whose guard holds takes USER_TRAP (code 25) at the TRAP, with D as its subcode and 0 as the address; the others advance. A SLEEP with a participant advances every executing thread and yields the warp until device time has advanced by the duration, word 2 or the largest A; one without a participant only advances. WAITFE, where the checked rows of every participant lie in its frame and are full, only advances; while such a row is empty, the warp yields at it. (R135, R136, R137, R191) -/
def Obligations.TrapSleepAndWait : Prop :=
  (∀ (o : Ops) (s : State) (j : Issued), issued s 46 o false false = some j →
    (∀ x ∈ j.p.vals, ∃ th, j.wp.thread? x.1 = some th) →
    exec (.trap o) s = .next (j.moves 46 o j.s (j.p.vals.map fun x => (x.1, Move.flt 25 (rawField o.d) 0)) false)) ∧
  ((∀ (o : Ops) (s : State) (j : Issued), issued s 53 o false false = some j →
    (j.p.vals = [] → exec (.sleep o) s = .next (j.moves 53 o j.s [] false)) ∧
    (j.p.vals ≠ [] → ∀ d : Nat, d = (match o.a with
        | .src _ _ => (j.p.vals.map (·.2.a)).foldl max 0
        | _ => (o.w2 % 2 ^ 32).toNat) →
      exec (.sleep o) s = .next (j.moves 53 o (j.s.setWarp j.c j.slot { j.wp with
        wait := .sleep (j.s.time + BitVec.ofNat 64 d), waitOp := 53 + 8 * 64 }) [] false))) ∧
  (∀ (o : Ops) (s : State) (j : Issued) (th : Nat → Thread) (n : Nat), issued s 53 o false false = some j →
    n = (o.w2 % 2 ^ 32).toNat → (∀ x ∈ j.p.vals, j.wp.thread? x.1 = some (th x.1) ∧ rawField o.a + n ≤ (th x.1).s) →
    ((∀ x ∈ j.p.vals, ∀ k, k < n → ((th x.1).cell ((th x.1).fp + rawField o.a + k)).full = true) →
      exec (.waitfe o) s = .next (j.moves 53 o j.s [] false)) ∧
    ((∃ x ∈ j.p.vals, ∃ k, k < n ∧ ((th x.1).cell ((th x.1).fp + rawField o.a + k)).full = false) →
      ∃ needs, needs ≠ [] ∧ exec (.waitfe o) s = .next (j.s.yieldBefore j.c j.slot (.regs needs) (53 + 9 * 64)))))

/-- Where the context has a handler, the thread is not already in one, its link stack and frame stack have room and nothing must be spilled or awaited first: the thread pushes a trap record with the resume PC and S, DEPTH rises by one, the frame becomes the 16 registers above the old frame, the PC is the handler base, v0 to v7 hold the record's words and, without a valid handle, v8 to v15 hold 0; the meeting register and the predicates are unchanged. (R92, R190, R191, R192) -/
def Obligations.HandlerEntry : Prop :=
  ∀ (s : State) (c slot len : Nat) (rec : FaultRecord) (resume : DWord) (wp : Warp) (th : Thread) (x : Ctx),
    s.warp? c slot = some wp → wp.thread? rec.thread = some th → s.ctx? wp.ctx = some x → x.hbase ≠ 0 → th.trap = none →
    rec.handle.getLsbD 31 = false → th.link.length < 260 → wp.stackLimit th (th.fp + th.s + 16) = none →
    wp.newLo th (th.fp + th.s + 16) = th.lo → 16 ≤ th.cells.length →
    s.claimReady c slot wp.uid rec.thread th.lo th.lo (th.fp + th.s) (th.fp + th.s + 16) wp.win = true →
    ∃ wp' th', (s.takeFault c slot rec resume len).warp? c slot = some wp' ∧ wp'.thread? rec.thread = some th' ∧
      th'.pc = x.hbase ∧ th'.fp = th.fp + th.s ∧ th'.s = 16 ∧ th'.depth = th.depth + 1 ∧
      th'.link = .trap resume th.s :: th.link ∧ th'.trap = some ⟨rec, len, th.depth + 1⟩ ∧
      th'.meetA = th.meetA ∧ th'.meetD = th.meetD ∧ th'.preds = th.preds ∧ th'.held = false ∧ th'.twait = .none ∧
      (∀ k, k < 16 → th'.cell (th'.fp + k) = Cell.of ((rec.words ++ List.replicate 8 0).getD k 0).toNat) ∧
      (s.takeFault c slot rec resume len).mem = s.mem

/-- ELECT's participants are the executing threads whose guard holds, and the lowest-numbered is elected: a v or predicate destination receives 1 in it and 0 in the other participants, a g destination its index in every copy a participant holds; without a participant, or with S8 200 as destination, nothing is written. (R138) -/
def Obligations.ElectElectsTheLowest : Prop :=
  ∀ (o : Ops) (s : State) (j : Issued), issued s 62 o false false = some j →
    (∀ x ∈ j.p.vals, x.1 ∈ j.wp.executing ∧ ∃ th, j.wp.thread? x.1 = some th ∧ Guard.holds o.guard th = true) ∧
    (j.p.vals.map (·.1)).Pairwise (· < ·) ∧ s8dst 200 = some .discard ∧
    ∃ w', exec (.elect o) s = .next (j.moves 62 o (j.s.setWarp j.c j.slot w') [] false) ∧
      (j.p.vals = [] → w' = j.wp) ∧
      ∀ e rest, j.p.vals = e :: rest →
        (∀ i n, Ops.dst o j.r = some (.reg (.v i), n) → w' = j.p.vals.foldl (fun (w : Warp) x =>
          w.writeDst x.1 (.reg (.v i)) n (if x.1 = e.1 then 1 else 0)) j.wp) ∧
        (∀ p n, Ops.dst o j.r = some (.pred p, n) → w' = j.p.vals.foldl (fun (w : Warp) x =>
          w.writeDst x.1 (.pred p) n (if x.1 = e.1 then 1 else 0)) j.wp) ∧
        (∀ i n, Ops.dst o j.r = some (.reg (.g i), n) → w' = j.p.vals.foldl (fun (w : Warp) x =>
          w.writeDst x.1 (.reg (.g i)) n e.1) j.wp) ∧
        (∀ n, Ops.dst o j.r = some (.discard, n) → w' = j.wp)

/-- LD, ST, LDP, STP, ATOM, RED, ZFILL, L2WB, L2INV, LDV, STV, RECON and VCNT: where the operands are readable, the operand log has an entry and no earlier access of a participant must come first, the instruction issues in one step, forming and starting its participants' accesses in ascending order. Where every participant's access is formed and its parts translate to data of the package, no gambit is open, no meeting point is pending and there are release tags enough, that step leaves of each participant one access in flight, at the addresses formed and found, with its data, ordering and scope, not yet performed; its result is awaited where its destination stands, the rows of an LD, LDP, LDV or ATOM are empty, and every participant has advanced past the instruction. A participant whose access is not formed takes its fault and starts none. Without an entry the warp yields before the instruction. (R80, R158, R163, R194, R195, R198) -/
def Obligations.MemoryInstructionsIssue : Prop :=
  (∀ (i : Instr) (op : Nat) (o : Ops) (s : State) (j : Issued), memOf i = some (op, o) →
    issued s op o false (decide (52 ≤ op)) = some j →
    (j.s.memWaits j.c j.slot op o j.wp j.p = none →
      exec i s = .next (j.s.memIssue i j.c j.slot op o j.wp j.r j.p)) ∧
    ((j.s.core j.c).logFull j.slot j.wp.uid (j.wp.privileged j.p.exec) = true →
      exec i s = .next (j.s.yieldBefore j.c j.slot .oplog (op + o.x * 64))) ∧
    (∀ (form : Nat → AccForm) (pas : Nat → List Nat) (ver : Nat → Bool) (st : Nat → Nat),
      j.s.memWaits j.c j.slot op o j.wp j.p = none →
      (∀ x ∈ j.p.vals, j.wp.tracks op x.1 = false ∧
        memForm op o j.wp x.1 (logSources op o j.wp x.2).1 (logSources op o j.wp x.2).2.1 (logSources op o j.wp x.2).2.2
          = .ok (form x.1) ∧
        j.s.xlatAll (form x.1).kind (j.s.tlbLook j.c j.wp.ctx) j.wp.ctx
          ((List.range (form x.1).parts).map fun k => ((form x.1).va + k * (form x.1).stride) % 2 ^ 64)
          = .ok (pas x.1) (ver x.1) (st x.1) ∧
        ∀ pa ∈ pas x.1, regionOf pa = .ram) →
      (o.t / 2 = 1 → o.sc < 3 →
        ((j.s.core j.c).releases.filter fun r => r.tag5.isSome).length + j.p.vals.length ≤ 32) →
      (∀ th ∈ j.wp.threads, th.points = []) →
      ∃ t, exec i s = .next t ∧ ∀ x ∈ j.p.vals, ∀ th, j.wp.thread? x.1 = some th →
        ∃ w' th' id a, t.warp? j.c j.slot = some w' ∧ w'.thread? x.1 = some th' ∧
          th'.pc = th.pc + BitVec.ofNat 64 o.form.len ∧
          t.acc.get? id = some a ∧ a.core = j.c ∧ a.slot = j.slot ∧ a.uid = j.wp.uid ∧ a.thread = x.1 ∧ a.ctx = j.wp.ctx ∧
          a.kind = (form x.1).kind ∧ a.va = (form x.1).va ∧ a.pas = pas x.1 ∧ a.size = (form x.1).size ∧
          a.b = BitVec.ofNat 128 (form x.1).b ∧ a.c = BitVec.ofNat 64 (form x.1).c ∧ a.acq = (form x.1).acq ∧
          a.rel = (form x.1).rel ∧ a.scope = (form x.1).scope ∧ a.loc = none ∧
          ∀ d n, Ops.dst o j.r = some (d, n) → ∃ r res, a.result = some r ∧ t.results.get? r = some res ∧
            res.thread = x.1 ∧ res.lands = landsOf th d n ∧ res.ready = false ∧
            (∀ k, d = .reg (.v k) → producer op o.x = true → 0 < th.cells.length →
              ∀ q, q < n → (th'.cell (th.fp + k + q)).full = false))) ∧
  (∀ (acc : Issuing) (c slot op : Nat) (o : Ops) (wp : Warp) (site : Site) (entry : Nat) (dst : Option (Dst × Nat))
    (batch : Nat) (fs : List (Nat × FormRes)) (t a b cc code addr : Nat), wp.tracks op t = false →
    let e := acc.step c slot op o wp site entry dst batch fs (t, (a, b, cc), .flt code addr)
    e.faults = acc.faults ++ [⟨t, code, 0, addr⟩] ∧ e.s.acc = acc.s.acc ∧ e.ids = acc.ids ∧
      e.log = acc.log ++ [⟨t, BitVec.ofNat 64 a, BitVec.ofNat 64 b, BitVec.ofNat 128 cc, .faulted, none⟩])

/-- LD and ST form a plus word 2, with b times the size added in the indexed mode, modulo 2^64; ATOM, RED and the versioned forms a plus word 2; ZFILL, L2WB and L2INV the lines from a on, as many as word 2 says; LDP and STP of thread t the private words from a plus word 2 on, 128 bytes apart, an index outside PLIM being PRIVATE_LIMIT (9). An address of 2^57 or above is ADDRESS_RANGE, before any alignment; one that is no multiple of the size MISALIGNED (7), of an atomic MISALIGNED_ATOMIC (8). Where every part of an access translates with the permissions it needs, and a narrow release finds a tag, starting it puts one access into flight: of that thread, context and kind, at the physical addresses found, with its data, ordering and scope, not yet performed; an STV keeps its place in the operand log until its verdict. Memory is unchanged, and but for the fence marks of a release's thread every warp. (R50, R162, R163, R164, R165, R166, R172, R194, R258, R260, R267, R271) -/
def Obligations.AccessesAreFormedAndStart : Prop :=
  ((∀ (o : Ops) (wp : Warp) (t a b c : Nat),
    (∀ op, op = 48 ∨ op = 49 → ∀ n ea : Nat, n = 2 ^ (o.x % 8) →
      (ea : Int) = ((a : Int) + (if o.x / 8 % 4 = 1 then sext b 32 * n else 0) + o.w2) % 2 ^ 64 →
      (2 ^ 57 ≤ ea → memForm op o wp t a b c = .flt 6 ea) ∧
      (ea < 2 ^ 57 → ea % n ≠ 0 → memForm op o wp t a b c = .flt 7 ea) ∧
      (ea < 2 ^ 57 → ea % n = 0 → ∃ f, memForm op o wp t a b c = .ok f ∧ f.va = ea ∧ f.size = n ∧ f.parts = 1 ∧
        (op = 48 → f.kind = .load (o.x / 32 % 2 == 1)) ∧ (op = 49 → f.kind = .store ∧ f.b = c))) ∧
    (∀ n ea : Nat, n = (if o.x / 16 % 2 = 1 then 8 else 4) → (ea : Int) = ((a : Int) + o.w2) % 2 ^ 64 →
      (2 ^ 57 ≤ ea → memForm 52 o wp t a b c = .flt 6 ea) ∧
      (ea < 2 ^ 57 → ea % n ≠ 0 → memForm 52 o wp t a b c = .flt 8 ea) ∧
      (ea < 2 ^ 57 → ea % n = 0 → ∃ f, memForm 52 o wp t a b c = .ok f ∧ f.va = ea ∧ f.size = n ∧ f.b = b ∧ f.c = c ∧
        f.kind = .atomic (o.x % 16) (o.x / 16 % 2 == 1)))) ∧
  (∀ (o : Ops) (wp : Warp) (t a b c k : Nat), k = 2 ^ (o.x / 2 % 4) →
    (((a : Int) + o.w2 < 0 ∨ (wp.plim : Int) < a + o.w2 + k) → ∃ va, memForm 50 o wp t a b c = .flt 9 va) ∧
    (∀ idx : Nat, (idx : Int) = a + o.w2 → idx + k ≤ wp.plim → 2 ^ 57 ≤ (wp.pbase.toNat + (idx * 32 + t) * 4) % 2 ^ 64 →
      memForm 50 o wp t a b c = .flt 6 ((wp.pbase.toNat + (idx * 32 + t) * 4) % 2 ^ 64)) ∧
    (∀ idx : Nat, (idx : Int) = a + o.w2 → idx + k ≤ wp.plim → (wp.pbase.toNat + (idx * 32 + t) * 4) % 2 ^ 64 < 2 ^ 57 →
      ∃ f, memForm 50 o wp t a b c = .ok f ∧
      f.va = (wp.pbase.toNat + (idx * 32 + t) * 4) % 2 ^ 64 ∧ f.size = 4 ∧ f.parts = k ∧ f.stride = 128 ∧
      f.kind = (if o.x % 2 = 1 then .store else .load false))) ∧
  (∀ (o : Ops) (wp : Warp) (t a b c : Nat),
    (2 ^ 57 ≤ a → memForm 58 o wp t a b c = .flt 6 a) ∧ (a < 2 ^ 57 → a % 128 ≠ 0 → memForm 58 o wp t a b c = .flt 7 a) ∧
    (a < 2 ^ 57 → a % 128 = 0 → ∃ f, ∃ n : Nat, memForm 58 o wp t a b c = .ok f ∧ (n : Int) = o.w2 % 2 ^ 32 ∧ f.va = a ∧ f.size = 128 ∧
      f.stride = 128 ∧ f.parts = n ∧ (o.x = 3 → f.kind = .zfill n) ∧ (o.x = 4 → f.kind = .wback n false) ∧
      (o.x = 5 → f.kind = .wback n true)) ∧
    (∀ ea : Nat, (ea : Int) = ((a : Int) + o.w2) % 2 ^ 64 →
      (2 ^ 57 ≤ ea → memForm 59 o wp t a b c = .flt 6 ea) ∧ (ea < 2 ^ 57 → ea % 8 ≠ 0 → memForm 59 o wp t a b c = .flt 7 ea) ∧
      (ea < 2 ^ 57 → ea % 8 = 0 → o.x ≤ 3 → ∃ f, memForm 59 o wp t a b c = .ok f ∧ f.va = ea ∧ f.size = 8 ∧ f.parts = 1 ∧
        f.kind = (match o.x with | 0 => .ldv c | 1 => .stv b | 2 => .recon (rawField o.b) | _ => .vcnt))))) ∧
  (∀ (s : State) (wp : Warp) (t : Nat) (i : StartInfo) (f : AccForm) (lands : List Land) (result : Option Nat)
    (pas : List Nat) (ver : Bool) (st : Nat), (f.rel = true → f.scope < 3 → ((s.core i.core).releases.filter fun r => r.tag5.isSome).length < 32) →
    s.xlatAll f.kind (s.tlbLook i.core wp.ctx) wp.ctx ((List.range f.parts).map fun k => (f.va + k * f.stride) % 2 ^ 64)
      = .ok pas ver st →
    ∃ id s', s.startAccess wp t i f lands result = ((match f.kind with | .stv _ => StartRes.waits id | _ => .done id), s') ∧
      s'.mem = s.mem ∧ (f.rel = false → s'.warps = s.warps) ∧
      ∃ a, s'.acc.get? id = some a ∧ a.core = i.core ∧ a.slot = i.slot ∧ a.uid = wp.uid ∧ a.thread = t ∧ a.ctx = wp.ctx ∧
        a.kind = f.kind ∧ a.va = f.va ∧ a.pas = pas ∧ a.size = f.size ∧ a.parts = f.parts ∧ a.stride = f.stride ∧
        a.b = BitVec.ofNat 128 f.b ∧ a.c = BitVec.ofNat 64 f.c ∧ a.acq = f.acq ∧ a.rel = f.rel ∧ a.scope = f.scope ∧ a.lands = lands ∧
        a.result = result ∧ a.loc = none)

/-- Where the operands are readable, the operand log has an entry, nothing earlier must come first and the flag condition of the mode holds, LDS and STS execute in one step. With a flag mode or an ordering, no participant at fault, tags for a release and no meeting point pending, the step is the access: an STS leaves the core's scratchpad as writing each participant's data, in ascending order, at its byte address within the group's rows does, every other byte as before, and an LDS gives its participants the words of those bytes and changes none. An access without a flag mode or ordering is in flight after the step and changes no byte of the scratchpad; when it is performed, an STS writes its bytes and no other, and an LDS hands the bytes it finds to its result. SROWSET sets the flags of the union of the participants' ranges to bit 12 of word 2, SROWGET gives each participant the flags of the 32 rows from its A on, and every executing thread advances. (R149, R167, R168, R169, R287) -/
def Obligations.ScratchpadInstructionsComplete : Prop :=
  (∀ (o : Ops) (s : State) (j : Issued) (i : Instr), (i = .lds o ∨ i = .sts o) → issued s 51 o false false = some j →
    j.s.scratchWaits j.c j.slot o j.wp j.p (memSite 51 o).1 = none →
    exec i s = .next (j.s.scratchIssue i j.c j.slot 51 o j.wp j.r j.p (memSite 51 o).1 (memSiteOf j.wp 51 o))) ∧
  (∀ (o : Ops) (s : State) (j : Issued) (i : Instr) (n base : Nat) (addr : Nat → Nat), n = (memSite 51 o).1 →
    ((i = .lds o ∧ bit o.x 0 = false) ∨ (i = .sts o ∧ bit o.x 0 = true)) → bits o.x 3 2 ≠ 3 →
    issued s 51 o false false = some j → j.s.scratchWaits j.c j.slot o j.wp j.p n = none →
    base = 128 * (j.s.groupOf j.c j.wp).scratchBase →
    (∀ x ∈ j.p.vals, (addr x.1 : Int) = x.2.a + o.w2 ∧ addr x.1 % n = 0 ∧
      addr x.1 + n ≤ 128 * (j.s.groupOf j.c j.wp).scratchCount ∧ (j.s.core j.c).scratchBad (base + addr x.1) n = false) →
    (o.t / 2 = 1 → ((j.s.core j.c).releases.filter fun r => r.tag5.isSome).length + j.p.vals.length ≤ 32) →
    (∀ th ∈ j.wp.threads, th.points = []) → readsQuietly s o j.r →
    ∃ t, exec i s = .next t ∧ sameMem s t j.c j.slot ∧
      (∀ x ∈ j.p.exec, ∀ th, j.wp.thread? x = some th → ∃ w' th', t.warp? j.c j.slot = some w' ∧ w'.thread? x = some th' ∧
        th'.pc = th.pc + BitVec.ofNat 64 o.form.len) ∧
      (i = .sts o → scratchLater o = false →
        (t.core j.c).scratch = j.p.vals.foldl (fun m x => m.writeNat (base + addr x.1) n x.2.c) (s.core j.c).scratch ∧
        ∀ a, (∀ x ∈ j.p.vals, a < base + addr x.1 ∨ base + addr x.1 + n ≤ a) →
          (t.core j.c).scratch.get a = (s.core j.c).scratch.get a) ∧
      (i = .lds o ∨ scratchLater o = true → (t.core j.c).scratch = (s.core j.c).scratch) ∧
      (scratchLater o = true → ∀ x ∈ j.p.vals, ∃ id a, t.acc.get? id = some a ∧ a.core = j.c ∧ a.slot = j.slot ∧
        a.uid = j.wp.uid ∧ a.thread = x.1 ∧ a.pas = [scratchPa j.c (base + addr x.1)] ∧ a.size = n ∧
        a.kind = (if bit o.x 0 then .sts else .lds) ∧ (i = .sts o → a.b = BitVec.ofNat 128 x.2.c) ∧
        (i = .lds o → ∀ d m th, Ops.dst o j.r = some (d, m) → j.wp.thread? x.1 = some th → ∃ r res, a.result = some r ∧
          t.results.get? r = some res ∧ res.thread = x.1 ∧ res.lands = landsOf th d m ∧ res.ready = false)) ∧
      (i = .lds o → scratchLater o = false → ∀ d m, Ops.dst o j.r = some (d, m) → ∀ x ∈ j.p.vals, ∃ r res,
        t.results.get? r = some res ∧ res.core = j.c ∧ res.slot = j.slot ∧ res.thread = x.1 ∧
        res.words = toWords ((j.s.core j.c).scratch.readNat (base + addr x.1) n) (n / 4))) ∧
  (∀ (s : State) (id : Nat) (a : Access) (k : Core) (at_ : Nat), s.acc.get? id = some a → s.gate id a = true →
    (∀ x ∈ s.sleepers, x.access ≠ id) → a.pas = [scratchPa a.core at_] → 0 < a.size → s.core a.core = k →
    (a.kind = .sts → a.b.toNat < 256 ^ a.size →
      ((s.perform id).core a.core).scratch = k.scratch.writeNat at_ a.size a.b.toNat ∧ (s.perform id).mem = s.mem ∧
      (s.perform id).acc.get? id = none) ∧
    (∀ r res, a.kind = .lds → k.scratchBad at_ a.size = false → a.result = some r → s.results.get? r = some res →
      ∃ res', (s.perform id).results.get? r = some res' ∧ res'.words = toWords (k.scratch.readNat at_ a.size) (a.size / 4) ∧
        (s.perform id).mem = s.mem ∧ ((s.perform id).core a.core).scratch = k.scratch)) ∧
  (∀ (o : Ops) (s : State) (j : Issued), issued s 51 o false false = some j → j.s.acc = [] → j.wp.fences = [] →
    (j.s.core j.c).logFull j.slot j.wp.uid (j.wp.privileged j.p.exec) = false → o.t / 2 ≠ 1 → j.p.vals ≠ [] →
    (∀ x ∈ j.p.vals, x.2.a + wrap o.w2 32 % 4096 ≤ (j.s.groupOf j.c j.wp).scratchCount) →
    ∃ e s', j.s.pickEntry j.c = (e, s') ∧
      exec (.srowset o) s = .next (((s'.setCore j.c ((s'.core j.c).setFlags (rowUnion (j.s.groupOf j.c j.wp).scratchBase
        (wrap o.w2 32 % 4096) (j.p.vals.map (·.2.a))) (wrap o.w2 32 / 4096 % 2 == 1))).modWarp j.c j.slot fun w =>
          w.nextPc j.p.exec o.form.len).conclude j.c j.slot (siteOf j.wp 51 o 0 3) j.p.exec [] (some e) false
            j.p.exec.length o.brk)) ∧
  (∀ (o : Ops) (s : State) (j : Issued), issued s 51 o false false = some j → j.s.acc = [] → j.wp.fences = [] →
    (j.s.core j.c).logFull j.slot j.wp.uid (j.wp.privileged j.p.exec) = false →
    (∀ x ∈ j.p.vals, x.2.a < (j.s.groupOf j.c j.wp).scratchCount) →
    ∃ e s', j.s.pickEntry j.c = (e, s') ∧
      exec (.srowget o) s = .next ((s'.modWarp j.c j.slot fun w => (w.writeAll (Ops.dst o j.r) (j.p.vals.map fun x =>
        (x.1, rowMask (j.s.core j.c) (j.s.groupOf j.c j.wp).scratchBase (j.s.groupOf j.c j.wp).scratchCount x.2.a,
          (0 : XFlags)))).nextPc j.p.exec o.form.len).conclude j.c j.slot (siteOf j.wp 51 o 0 3) j.p.exec [] (some e) false
            j.p.exec.length o.brk))

/-- A legal copy descriptor is queued last at the engine of the core's cluster with that engine's next number, the fields of its descriptor, nothing moved, and the warp's accesses in flight before it; its handle holds number, engine and die, its promise is t + 2,600 + ceil(1.1 × q) over the lines queued before it and its own; an illegal one is ILLEGAL_OPERAND (2), a queue of 64 full. COLL likewise enters a collective, with the number that the copy engine of its cluster gives next (log entry 24, the model's choice). PREF changes no byte of memory, no register, no access and no result where no line is noted for a release. PHASE opens a phase with the counts of its destination words, answers 2 at one open and incomplete, 1 where PHCNT incomplete phases are held, and else takes the place of the complete phase opened earliest; PARRIVE takes one from its destination's count, and answers 1, 2 or 3 where there is no phase, the count is 0, or the destination takes no arrivals of warps; every other phase is unchanged. TSPAWN gives each participant in turn a free entry of the queue's slice, with the task in it, or FULL. (R253, R262, R263, R266, R268, R286, R304, R305, R306, R317, R320, R321) -/
def Obligations.DieAndTaskOperations : Prop :=
  (∀ (s : State) (c slot : Nat) (wp : Warp) (x die e : Nat) (k : CopyEngine), copyEngineOf (clusterOf c) = (die, e) →
    s.copyEngine die e = k →
    ((CopyDesc.parse x).legal = false → s.cpyAct c slot wp x = .flt 2 0) ∧
    ((CopyDesc.parse x).legal = true → 64 ≤ k.queue.length → s.cpyAct c slot wp x = .full) ∧
    ((CopyDesc.parse x).legal = true → k.queue.length < 64 → ∃ u cp promise handle, s.cpyAct c slot wp x = .go u promise handle ∧
      (u.copyEngine die e).queue = k.queue ++ [cp] ∧ (u.copyEngine die e).seq = (k.seq + 1) % 2 ^ 20 ∧
      cp.seq = k.seq ∧ cp.ctx = wp.ctx ∧ cp.launch = wp.launch ∧ cp.src = x % 2 ^ 64 ∧ cp.dst = x / 2 ^ 64 % 2 ^ 64 ∧
      cp.lines = x / 2 ^ 128 % 2 ^ 20 + 1 ∧ cp.ssp = x / 2 ^ 148 % 4 ∧ cp.dsp = x / 2 ^ 150 % 4 ∧ cp.crec = x / 2 ^ 160 % 2 ^ 64 ∧
      cp.moved = 0 ∧ cp.status = none ∧
      (∀ i a, s.acc.get? i = some a → a.core = c → a.slot = slot → a.uid = wp.uid → i ∈ cp.after_) ∧
      handle = k.seq % 2 ^ 20 + e * 2 ^ 20 + die * 2 ^ 24 + 2 ^ 31 ∧
      promise = s.time + BitVec.ofNat 64 (2600 + (11 * (leftOf k.queue + cp.lines) + 9) / 10) ∧
      u.mem = s.mem ∧ u.warps = s.warps)) ∧
  (∀ (s : State) (c slot : Nat) (wp : Warp) (x die e : Nat) (k : Coll) (clean : Bool) (ce : CopyEngine),
    copyEngineOf (clusterOf c) = (die, e) → s.copyEngine die e = ce → collParse x = (k, clean) →
    ((clean = false ∨ k.legal = false) → s.collAct c slot wp x = .flt 2 0) ∧
    (clean = true → k.legal = true → ∃ u id k' promise handle, s.collAct c slot wp x = .go u promise handle ∧
      u.colls.get? id = some k' ∧ k'.ctx = wp.ctx ∧ k'.cluster = clusterOf c ∧ k'.kind = x % 4 ∧ k'.rop = x / 4 % 4 ∧
      k'.etype = x / 16 % 4 ∧ k'.collid = x / 2 ^ 32 % 2 ^ 32 ∧ k'.src = x / 2 ^ 64 % 2 ^ 64 ∧ k'.dst = x / 2 ^ 128 % 2 ^ 64 ∧
      k'.lines = x / 2 ^ 192 % 2 ^ 20 + 1 ∧ k'.crec = x / 2 ^ 256 % 2 ^ 64 ∧ k'.moved = 0 ∧ k'.status = none ∧
      (∀ i a, s.acc.get? i = some a → a.core = c → a.slot = slot → a.uid = wp.uid → i ∈ k'.after_) ∧
      handle = ce.seq % 2 ^ 20 + e * 2 ^ 20 + die * 2 ^ 24 + 2 ^ 31 ∧ (u.copyEngine die e).seq = (ce.seq + 1) % 2 ^ 20 ∧
      promise = s.time + BitVec.ofNat 64 (2600 + (11 * k'.lines + 9) / 10) ∧ u.mem = s.mem ∧ u.warps = s.warps)) ∧
  (∀ (s : State) (c ctx ea rm : Nat), (∀ l d, s.dir.get? l = some d → d.note = none) →
    (s.prefetch c ctx ea rm).mem = s.mem ∧ (s.prefetch c ctx ea rm).warps = s.warps ∧ (s.prefetch c ctx ea rm).acc = s.acc ∧
    (s.prefetch c ctx ea rm).results = s.results) ∧
  (∀ (s t : State) (ctx core hdr st limit : Nat) (dests : List Word), s.openPhase ctx core hdr dests = (st, t) →
    limit = (match s.ctx? ctx with | some c => c.claim.phcnt | none => 0) - s.phasesGranted ctx →
    let opened := ∃ ph, t.phaseOf ctx hdr = some ph ∧ ph.dests = dests.map (fun w => (w, w.toNat % 2 ^ 16)) ∧
      ph.complete = false ∧ ph.fail = false ∧ ph.core = core
    (∀ ph, s.phaseOf ctx hdr = some ph → (ph.complete = false → st = 2 ∧ t = s) ∧ (ph.complete = true → st = 0 ∧ opened)) ∧
    (s.phaseOf ctx hdr = none →
      (s.phasesHeld ctx < limit → st = 0 ∧ opened) ∧
      (limit ≤ s.phasesHeld ctx → (∀ e ∈ s.phases, e.1 = ctx → e.2.complete = false) → st = 1 ∧ t = s) ∧
      (limit ≤ s.phasesHeld ctx → (∃ e ∈ s.phases, e.1 = ctx ∧ e.2.complete = true) → st = 0 ∧ opened ∧
        ∃ old, (ctx, old) ∈ s.phases ∧ old.complete = true ∧ t.phaseOf ctx old.hdr = none ∧
          ∀ e ∈ s.phases, e.1 = ctx → e.2.complete = true → old.opened ≤ e.2.opened))) ∧
  (∀ (s t : State) (ctx hdr i st : Nat), s.phaseArrival ctx hdr i = (st, t) →
    (s.phaseOf ctx hdr = none → st = 1 ∧ t = s) ∧
    (∀ ph, s.phaseOf ctx hdr = some ph →
      ((i = 0 ∨ ph.dests.length < i) → st = 3 ∧ t = s) ∧
      (∀ w n, 1 ≤ i → ph.dests[i - 1]? = some (w, n) →
        (2 ≤ w.toNat / 2 ^ 16 % 4 → st = 3 ∧ t = s) ∧ (w.toNat / 2 ^ 16 % 4 < 2 → n = 0 → st = 2 ∧ t = s) ∧
        (w.toNat / 2 ^ 16 % 4 < 2 → 0 < n → st = 0 ∧ (∃ ph', t.phaseOf ctx hdr = some ph' ∧ ph'.complete = ph.complete ∧
          ph'.dests[i - 1]? = some (w, n - 1) ∧ ∀ m, m ≠ i - 1 → ph'.dests[m]? = ph.dests[m]?) ∧
          ∀ c h, (c, h) ≠ (ctx, hdr) → t.phaseOf c h = s.phaseOf c h)))) ∧
  (∀ (q hdr ctx sigc : Nat) (s : State) (t : Nat) (v : Vals) (rest : List (Nat × Vals)), spawnAll q hdr ctx sigc s [] = ([], s) ∧
    ((s.slice (q / 64)).tasks.free 0 32768 = none →
      spawnAll q hdr ctx sigc s ((t, v) :: rest) = ((t, toWords (2 ^ 24) 1) :: (spawnAll q hdr ctx sigc s rest).1,
        (spawnAll q hdr ctx sigc s rest).2)) ∧
    (∀ e, (s.slice (q / 64)).tasks.free 0 32768 = some e → ∃ u, (∃ k, (u.slice (q / 64)).tasks.get? e = some k ∧
        k.hdr = hdr ∧ k.ctx = ctx ∧ k.queue = q ∧ k.arg = BitVec.ofNat 64 v.a ∧ k.sigc = sigc ∧ k.arrived = s.time ∧ k.poisoned = false) ∧
      spawnAll q hdr ctx sigc s ((t, v) :: rest) = ((t, toWords e 1) :: (spawnAll q hdr ctx sigc u rest).1,
        (spawnAll q hdr ctx sigc u rest).2)))

/-- Where no earlier access must come first and no release tag is waited for: FENCE adds each participant's order of later accesses after earlier ones; BAR and BARA arrive once for the warp with the count C at the barrier of word 2, and the last arrival frees it and releases the waiting warps, while BAR waits where it is not the last; BARW waits while the barrier is in use; PBAR brings the core's released stores home, arrives at the phalanx barrier and waits for its release (that these stores come home is the model's choice, log entry 103). Every executing thread advances. (R153, R175, R176, R177, R203, R235) -/
def Obligations.FencesAndBarriersComplete : Prop :=
  ∀ (o : Ops) (s : State) (j : Issued) (ts : List Nat), issued s 53 o false true = some j → ts = j.p.vals.map (·.1) →
    (j.s.strongWaits j.c j.slot j.wp.uid ts = ([], []) → (2 ≤ o.t → o.sc < 3 → j.s.tagWaits j.c ts.length = []) →
      exec (.fence o) s = .next (j.moves 53 o (ts.foldl (fun s t => s.fenceThread j.c j.slot j.wp.uid o t) j.s) [] false)) ∧
    (∀ (i : Instr) (waits : Bool) (x : Nat × Vals) (rest : List (Nat × Vals)) (b b' : Barrier) (g : Group) (last : Bool),
      ((i = .bar o ∧ waits = true) ∨ (i = .bara o ∧ waits = false)) → j.p.vals = x :: rest →
      j.s.notLocal j.c j.slot j.wp.uid ts = [] → j.s.tagWaits j.c ts.length = [] → j.s.group? j.c j.wp.gslot = some g →
      b = g.bars.getD (wrap o.w2 32 % 16) ⟨0, 0⟩ → 1 ≤ x.2.c → x.2.c ≤ g.warps → (b.n = 0 ∨ b.n = x.2.c) →
      last = decide ((if b.n = 0 then 0 else b.a) + 1 = x.2.c) →
      b' = (if last then ⟨0, 0⟩ else ⟨x.2.c, (if b.n = 0 then 0 else b.a) + 1⟩) →
      exec i s = .next (j.moves 53 o (
        let u := (j.s.releaseThreads j.c j.slot j.wp.uid ts).setBar j.c j.wp.gslot (wrap o.w2 32 % 16) b'
        if last then u.releaseBar j.c j.wp.gslot (wrap o.w2 32 % 16)
        else if waits then u.modWarp j.c j.slot fun w =>
          { w with wait := .barrier (wrap o.w2 32 % 16) true, waitOp := 53 + o.x * 64 }
        else u) [] false)) ∧
    (∀ busy : Bool, busy = decide (((j.s.groupOf j.c j.wp).bars.getD (wrap o.w2 32 % 16) ⟨0, 0⟩).n ≠ 0) →
      exec (.barw o) s = .next (j.moves 53 o (if busy && !ts.isEmpty then j.s.modWarp j.c j.slot fun w =>
        { w with wait := .barrier (wrap o.w2 32 % 16) false, waitOp := 53 + o.x * 64, back := j.p.exec, backLen := o.form.len }
        else j.s) [] false)) ∧
    (∀ (u : State) (ph : Phalanx), ts ≠ [] → j.s.notGlobal j.c j.slot j.wp.uid ts = [] → j.s.widen j.c = some u →
      u.phalanx? j.c (u.groupOf j.c j.wp).phx = some ph →
      exec (.pbar o) s = .next (j.moves 53 o (((u.setPhalanx j.c (u.groupOf j.c j.wp).phx
        (some { ph with arr := ph.arr + 1 })).modWarp j.c j.slot fun w => { w with wait := .pbar, waitOp := 53 + o.x * 64 }).checkPbar
          j.c (u.groupOf j.c j.wp).phx) [] false))

/-- An arrival with a count of 0 or above the group's warps takes BAR_RANGE (27); at a barrier in use with another count BAR_MISMATCH (28); an arrival at a free barrier sets N; the arrival that makes the number of arrivals N frees the barrier and releases; every other adds one. From a free barrier exactly the Nth arrival with count N releases. (R176) -/
def Obligations.BarrierArrivals : Prop :=
  (∀ (b : Barrier) (cnt warps : Nat), (cnt = 0 ∨ warps < cnt) → b.arrive cnt warps = .flt 27) ∧
  (∀ (b : Barrier) (cnt warps : Nat), 1 ≤ cnt → cnt ≤ warps → b.n ≠ 0 → b.n ≠ cnt → b.arrive cnt warps = .flt 28) ∧
  ∀ (cnt warps k : Nat), 1 ≤ cnt → cnt ≤ warps → k < cnt →
    ∃ b, (List.range k).foldl (fun (acc : Option Barrier) _ => match acc.map fun b => b.arrive cnt warps with
        | some (Arrival.ok b false) => some b
        | _ => none) (some ⟨0, 0⟩) = some b ∧
      b.arrive cnt warps = if k + 1 = cnt then Arrival.ok ⟨0, 0⟩ true else Arrival.ok ⟨cnt, k + 1⟩ false

/-- Where the operands are readable, nothing earlier must come first, and each participant's word is aligned, in range and mapped readable, WAITV, NTFY1 and NTFYA put one access of that kind per participant into flight, each behind the one before it and charged once for the words of its line, and the warp waits until every outcome has landed, NTFY1's and NTFYA's too (log entry 37, the model's choice); every executing thread advances. (R163, R178, R179) -/
def Obligations.WordWaitsComplete : Prop :=
  ∀ (o : Ops) (s : State) (j : Issued) (i : Instr) (kind : Vals → AccKind) (va pa : Nat → Nat) (ver : Nat → Bool),
    ((i = .waitv o ∧ kind = fun v => .waitv (v.c % 2 ^ 32)) ∨ (i = .ntfy1 o ∧ kind = fun _ => .ntfy false) ∨
      (i = .ntfya o ∧ kind = fun _ => .ntfy true)) →
    issued s 53 o false true = some j →
    (∀ x ∈ j.p.vals, (va x.1 : Int) = ((x.2.a : Int) + o.w2) % 2 ^ 64 ∧
      j.s.homeCheck j.c j.wp.ctx (va x.1) = .ok (va x.1) (pa x.1) (ver x.1) ∧
      j.s.logConflicts j.c j.slot j.wp.uid x.1 (o.t == 2) [va x.1 / 128] = ([], [])) →
    (o.t = 2 → o.sc < 3 → j.s.tagWaits j.c j.p.vals.length = []) →
    ∃ (batch : Nat) (s' s'' : State) (last ids : List Nat), j.s.takeId = (batch, s') ∧
      j.p.vals.foldl (fun (acc : List Nat × List Nat × State) x =>
        let q := acc.2.2.homeWait j.c j.slot 53 batch o j.wp (Ops.dst o j.r) acc.1 x.1 (va x.1) (pa x.1)
          (homeCharge (j.p.vals.map fun y => (y.1, HomeCheck.ok (va y.1) (pa y.1) (ver y.1))) x.1 (va x.1)) (kind x.2) x.2.b
        ([q.1], acc.2.1 ++ [q.2.1], q.2.2)) (([] : List Nat), ([] : List Nat), s')
        = (last, ids, s'') ∧ ids.length = j.p.vals.length ∧
      exec i s = .next (j.moves 53 o (if ids.isEmpty then s'' else s''.modWarp j.c j.slot fun w =>
        { w with wait := .results ids, waitOp := 53 + o.x * 64 }) [] false)

/-- Where the operands are readable and the participants' tracked accesses have joined their sets: TXB opens each participant's gambit with empty sets, or dooms an open one with NESTED; TXA dooms an open gambit that is not doomed with EXPLICIT and the user code; TXQ gives each participant its gambit's status and user code; TXC, where the accesses of those that go on to the homes are performed and the core's released stores can be brought home, gives each participant an outcome, at once or from the homes of its words, and the warp waits for them. That the participants' tracked accesses are waited for is log entry 104 and that released stores come home log entry 103, both the model's choice; a gambit that the homes would refuse now may fail before its thread's earlier accesses, which orders nothing. (R180, R181, R182, R183, R184, R288) -/
def Obligations.GambitInstructionsComplete : Prop :=
  ∀ (o : Ops) (s : State) (j : Issued), issued s 54 o false false = some j →
    j.s.trackedOf j.c j.slot j.wp.uid (j.p.vals.map (·.1)) = [] →
    exec (.txb o) s = .next (j.moves 54 o (j.s.setWarp j.c j.slot (j.p.vals.foldl (fun (w : Warp) x =>
      w.modThread x.1 fun th => { th with gambit := if th.gambit.opened
        then (if th.gambit.code = 0 then { th.gambit with code := 10 } else th.gambit) else ⟨true, none, 0, 0, [], [], []⟩ }) j.wp)) [] false) ∧
    exec (.txa o) s = .next (j.moves 54 o (j.s.setWarp j.c j.slot (j.p.vals.foldl (fun (w : Warp) x =>
      w.modThread x.1 fun th => { th with gambit := if th.gambit.opened && decide (th.gambit.code = 0)
        then { th.gambit with code := 9, user := wrap o.w2 32 % 256 } else th.gambit }) j.wp)) [] false) ∧
    (∀ q : Nat → Nat, (∀ x ∈ j.p.vals, ∃ th, j.wp.thread? x.1 = some th ∧ q x.1 = th.gambit.code + th.gambit.user * 256) →
      exec (.txq o) s = .next (j.moves 54 o (j.s.setWarp j.c j.slot (j.wp.writeAll (Ops.dst o j.r)
        (j.p.vals.map fun x => (x.1, q x.1, (0 : XFlags))))) [] false)) ∧
    (∀ (offered won : List Nat) (early : List (Nat × Nat)) (v u : State),
      offered = winners ((j.p.vals.map (·.1)).filterMap fun t => (j.wp.thread? t).bind fun th =>
          if th.gambit.opened && decide (th.gambit.code = 0) then some (t, th.gambit) else none) [] →
      j.s.txEarly j.c j.slot j.wp offered = (early, v) → won = offered.filter (fun t => !early.any fun e => decide (e.1 = t)) →
      v.notGlobal j.c j.slot j.wp.uid won = [] → (won = [] ∧ u = v ∨ won ≠ [] ∧ v.widen j.c = some u) →
      ∃ (batch : Nat) (s' s'' : State) (ids : List Nat), u.takeId = (batch, s') ∧ ids.length = j.p.vals.length ∧
        (j.p.vals.map (·.1)).foldl (fun (acc : List Nat × State) t =>
          (acc.1 ++ [(acc.2.txThread j.c j.slot (rawField o.d) batch j.wp offered early t).1],
            (acc.2.txThread j.c j.slot (rawField o.d) batch j.wp offered early t).2)) (([] : List Nat), s') = (ids, s'') ∧
        exec (.txc o) s = .next (j.moves 54 o (if ids.isEmpty then s'' else s''.modWarp j.c j.slot fun w =>
          { w with wait := .results ids, waitOp := 54 + o.x * 64 }) [] false))

/-- Among the gambits that one TXC offers, the winners are pairwise without conflict, the first offered wins, and every loser conflicts with a lower winner; a participant without an open gambit fails with code 13, a doomed one with its own code, a loser with code 2. (R181, R182, R183) -/
def Obligations.GambitOutcomes : Prop :=
  (∀ (xs : List (Nat × Gambit)), (xs.map (·.1)).Pairwise (· < ·) →
    (∀ x ∈ xs, ∀ y ∈ xs, x.1 ∈ winners xs [] → y.1 ∈ winners xs [] → x.1 < y.1 → x.2.conflicts y.2 = false) ∧
    (∀ y ∈ xs, y.1 ∉ winners xs [] → ∃ x ∈ xs, x.1 ∈ winners xs [] ∧ x.1 < y.1 ∧ x.2.conflicts y.2 = true)) ∧
  (∀ (won : List Nat) (t : Nat) (g : Gambit), (g.opened = false → txFail won t g = some 13) ∧
    (g.opened = true → g.code ≠ 0 → txFail won t g = some g.code) ∧
    (g.opened = true → g.code = 0 → txFail won t g = if t ∈ won then none else some 2))

/-- With a participant, and where the unit's state allows it: LNSET sets an induction's trip and enters its level, LNCOEF sets a base or stride or clears a set, LNLOOP counts the innermost level and branches to its target while trips remain, LNNEXT advances the odometer and gives every participant the carry, LNGET gives them the induction's count; where the state does not allow an LNSET, LNLOOP or LNNEXT, every participant takes LN_STATE (26), at an LNLOOP with an invalid target BAD_TARGET (23), and the unit is unchanged. That every participant, and no other executing thread, takes the fault is the model's choice (log entry 32); of participants whose values of B differ, the lowest's is taken (log entry 99). A level entered by LNSET with a trip of n counts from 0; each LNLOOP adds one, and branches while the count is below n: the first n − 1 executions branch, the nth leaves the level for the one outside it. LNSET of trip 0, or of a level more than one deeper, is refused. (R37, R156, R170, R171) -/
def Obligations.LoopNestCompletes : Prop :=
  (∀ (o : Ops) (s : State) (j : Issued) (x : Nat × Vals) (rest : List (Nat × Vals)),
    issued s 55 o false false = some j → j.p.vals = x :: rest →
    (o.x = 0 → (∀ l, j.wp.ln.set o.t x.2.b = some l →
        exec (.lnset o) s = .next (j.moves 55 o (j.s.setWarp j.c j.slot { j.wp with ln := l }) [] false)) ∧
      (j.wp.ln.set o.t x.2.b = none →
        exec (.lnset o) s = .next (j.moves 55 o j.s (j.p.vals.map fun y => (y.1, Move.flt 26 0 0)) false))) ∧
    (o.x = 1 → exec (.lncoef o) s = .next (j.moves 55 o (j.s.setWarp j.c j.slot
      { j.wp with ln := j.wp.ln.coefSet o.t (rawField o.d) (wrap o.w2 32 % 4) x.2.b }) [] false)) ∧
    (∀ l take tgt, j.wp.ln.loop = some (l, take) → tgt = relTarget (j.wp.issuePc.getD 0) o .none → goodTarget tgt = true →
      exec (.lnloop o) s = .next (j.moves 55 o (j.s.setWarp j.c j.slot { j.wp with ln := l })
        (j.p.vals.map fun y => (y.1, if take then Move.to tgt else .next)) false)) ∧
    (∀ l take tgt, j.wp.ln.loop = some (l, take) → tgt = relTarget (j.wp.issuePc.getD 0) o .none → goodTarget tgt = false →
      exec (.lnloop o) s = .next (j.moves 55 o j.s (j.p.vals.map fun y => (y.1, Move.flt 23 0 tgt)) false)) ∧
    (j.wp.ln.next o.t = none →
      exec (.lnnext o) s = .next (j.moves 55 o j.s (j.p.vals.map fun y => (y.1, Move.flt 26 0 0)) false)) ∧
    (∀ l carry d n, j.wp.ln.next o.t = some (l, carry) → Ops.dst o j.r = some (d, n) →
      exec (.lnnext o) s = .next (j.moves 55 o (j.s.setWarp j.c j.slot (j.p.vals.foldl (fun (w : Warp) y =>
        w.writeDst y.1 d n (if carry then 1 else 0)) { j.wp with ln := l })) [] false)) ∧
    (∀ d n, Ops.dst o j.r = some (d, n) →
      exec (.lnget o) s = .next (j.moves 55 o (j.s.setWarp j.c j.slot (j.p.vals.foldl (fun (w : Warp) y =>
        w.writeDst y.1 d n (j.wp.ln.n.getD o.t 0).toNat) j.wp)) [] false)) ∧
    (j.wp.ln.loop = none → exec (.lnloop o) s = .next (j.moves 55 o j.s (j.p.vals.map fun y => (y.1, Move.flt 26 0 0)) false))) ∧
  ((∀ (l : LoopNest) (i trip : Nat), (trip = 0 ∨ (i : Int) > l.lev + 1) → l.set i trip = none) ∧
  (∀ (l l' : LoopNest) (i trip k : Nat), l.n.length = 4 → l.trip.length = 4 → i < 4 → trip < 2 ^ 32 → l.set i trip = some l' →
    k < trip →
    ∃ q, (List.range k).foldl (fun (acc : Option LoopNest) _ => match acc.bind LoopNest.loop with
        | some (l, true) => some l
        | _ => none) (some l') = some q ∧ (q.n.getD i 0).toNat = k ∧ q.level = i ∧
      ∃ q', q.loop = some (q', decide (k + 1 < trip)) ∧
        (k + 1 = trip → q'.level = if i = 0 then 4 else i - 1)))

/-- CTXNEW with a legal block and room gives the lowest free id to a child of the issuer, one level deeper, not running, with the block's claim and handlers and nothing mapped; a parent at depth 8 is refused with 2, 4,095 contexts with 3, a claim outside what remains with 1, quota registers under resident groups with 8 and gangs that differ with 10. CTXGRANT gives a child the block's larger claim and changes nothing else of it. CTXMAP adds the composed leaves to the child, charges them, and where something was mapped there leaves its ranges to be invalidated; it waits for entries under revocation, answers 5 where the parent maps nothing and 7 beyond MEM. CTXUNMAP leaves nothing mapped in the range and every other translation as it was. CTXRUN sets RUN 1, and takes the save area from the budget once. CTXQ writes a queue's descriptor, resumes it behind the card at which it halted, gives its image, or takes it out of use. A target that is no child is refused with 4 and nothing changes. Where a mapping change meets waiting items that fail, or collectives under way, its reports and ends are further effects, left out here. That an id in use before keeps its GEN is log entry 106, NAMED regions log entry 109 and CTXMAP's own invalidation log entry 105, the model's choices. (R16, R289, R291, R292, R293, R294, R295, R300, R327, R328) -/
def Obligations.ContextOperations : Prop :=
  (∀ (s : State) (issuer a b block : Nat) (p : Ctx) (c : Claim), c = Claim.parse block → s.ctx? issuer = some p → b = 0 →
    claimReserved block = true → c.inRange = true → bits block 1024 64 % 4 = 0 → bits block 1088 64 % 4 = 0 →
    bits block 1024 64 < 2 ^ 57 → bits block 1088 64 < 2 ^ 57 → bits block 1184 864 = 0 →
    let out := s.ctxNew issuer a b block
    (8 ≤ p.depth → out.status = 2 ∧ out.s = s) ∧
    (p.depth < 8 → 4095 ≤ s.aliveCount → out.status = 3 ∧ out.s = s) ∧
    (p.depth < 8 → s.aliveCount < 4095 → c.within p ((s.children issuer).map (·.2.claim)) = false → out.status = 1 ∧ out.s = s) ∧
    (p.depth < 8 → s.aliveCount < 4095 → c.within p ((s.children issuer).map (·.2.claim)) = true →
      s.phasesHeld issuer + s.phasesGranted issuer + c.phcnt ≤ p.claim.phcnt → s.gainsNamed Claim.empty c = false →
      ∃ child : Ctx, child.parent = issuer ∧ child.depth = p.depth + 1 ∧ child.run = 0 ∧ child.claim = c ∧
        child.hbase = BitVec.ofNat 64 (bits block 1024 64) ∧ child.uibase = BitVec.ofNat 64 (bits block 1088 64) ∧
        child.fq = none ∧ child.posts = [] ∧ child.leaves = [] ∧ child.memUsed = 0 ∧ child.saveTaken = false ∧
        (∀ d, s.ctx? s.freeCtxId = some d → child.gen = d.gen) ∧
        let s' := s.setCtx s.freeCtxId child
        (s'.quotasBlocked issuer c.clusters = true → out.status = 8 ∧ out.s = s) ∧
        (s'.quotasBlocked issuer c.clusters = false → s'.gangsOk = false → out.status = 10 ∧ out.s = s) ∧
        (s'.quotasBlocked issuer c.clusters = false → s'.gangsOk = true → s'.quotaRoom s.freeCtxId c.clusters = true →
          out.status = 0 ∧ out.id = s.freeCtxId ∧ out.s.ctx? s.freeCtxId = some child ∧ out.s.mem = s.mem ∧
          out.wr = some (a + 144, toBytes s.freeCtxId 2 ++ toBytes child.gen 2) ∧
          ∀ x, x ≠ s.freeCtxId → out.s.ctx? x = s.ctx? x))) ∧
  (∀ (s : State) (x issuer a b c w2 block : Nat),
    ((1 ≤ x ∧ x ≤ 6 ∧ s.child? issuer b = none) ∨ (x = 8 ∧ s.child? issuer a = none)) →
    (s.ctxDo x issuer a b c w2 block).status = 4 ∧ (s.ctxDo x issuer a b c w2 block).s = s) ∧
  (∀ (s : State) (issuer b block : Nat) (p c : Ctx) (n : Claim), n = Claim.parse block → s.child? issuer b = some c →
    s.ctx? issuer = some p → claimReserved block = true → n.inRange = true → c.alive = true → n.contains c.claim = true →
    n.within p (s.siblings issuer b) = true →
    s.phasesHeld issuer + ((s.siblings issuer b).map (·.phcnt)).sum + n.phcnt ≤ p.claim.phcnt → s.gainsNamed c.claim n = false →
    let s' := s.startAllDue.setCtx b { c with claim := n }
    s'.quotasBlocked issuer n.clusters = false → s'.quotasBlocked b n.clusters = false → s'.gangsOk = true →
    s'.quotaRoom b n.clusters = true →
    (s.ctxGrant issuer b block).status = 0 ∧ (s.ctxGrant issuer b block).s.ctx? b = some { c with claim := n }) ∧
  (∀ (s : State) (issuer b block : Nat) (c : Ctx) (m : MapBlock), m = MapBlock.parse block → s.child? issuer b = some c →
    m.ok block (issuer = 0) = true → (m.ver = true → s.shadowFree m = true) → c.alive = true →
    let out := s.ctxMap issuer b block
    (s.revoking issuer m.pva m.ext = true → out.wait = true ∧ out.s = s) ∧
    (s.revoking issuer m.pva m.ext = false → s.compose issuer m = none → out.status = 5 ∧ out.s = s) ∧
    (∀ (fs : List Leaf) (used : Nat) (rs : List (Nat × Nat × Nat)), s.revoking issuer m.pva m.ext = false →
      s.compose issuer m = some fs → rs = State.removedFrom treeFuel s b m.cva m.ext →
      used = c.memUsed - ((c.leaves.map Leaf.cost).sum - ((c.leaves.flatMap fun f => f.cut m.cva m.ext).map Leaf.cost).sum)
        + (fs.map Leaf.cost).sum →
      (c.claim.mem < used + ((s.children b).map fun e => e.2.claim.mem).sum → out.status = 7 ∧ out.s = s) ∧
      (used + ((s.children b).map fun e => e.2.claim.mem).sum ≤ c.claim.mem → s.failedItems rs = [] → s.colls = [] →
        out.status = 0 ∧ out.ranges = (if rs = [] then none else some rs) ∧
        ∃ c', out.s.ctx? b = some c' ∧ c'.claim = c.claim ∧ c'.memUsed = used ∧ (∀ f ∈ fs, f ∈ c'.leaves) ∧
          (rs = [] → c'.leaves = c.leaves ++ fs)))) ∧
  (∀ (s : State) (issuer a b n : Nat) (c : Ctx) (rs : List (Nat × Nat × Nat)), s.child? issuer b = some c →
    let out := s.ctxUnmap issuer a b n
    ((a % 4096 ≠ 0 ∨ n % 4096 ≠ 0 ∨ 2 ^ 57 < a + n) → out.status = 9 ∧ out.s = s) ∧
    (a % 4096 = 0 → n % 4096 = 0 → a + n ≤ 2 ^ 57 → c.alive = true → rs = State.removedFrom treeFuel s b a n →
      s.failedItems rs = [] → s.colls = [] → (∀ r ∈ rs, r.1 = b → a ≤ r.2.1 ∧ r.2.1 + r.2.2 ≤ a + n) →
      out.status = 0 ∧ out.ranges = some rs ∧ (∀ va, a ≤ va → va < a + n → out.s.leafAt b va = none) ∧
      ∀ va f, (va < a ∨ a + n ≤ va) → s.leafAt b va = some f → ∃ g, out.s.leafAt b va = some g ∧
        g.pa + (va - g.va) = f.pa + (va - f.va) ∧ g.r = f.r ∧ g.w = f.w ∧ g.x = f.x ∧ g.v = f.v)) ∧
  (∀ (s : State) (issuer b : Nat) (c : Ctx), s.child? issuer b = some c → c.alive = true →
    let out := s.ctxRun issuer b
    let area := 2 ^ 22 * c.claim.clusters.length
    let granted := ((s.children b).map fun e => e.2.claim.mem).sum
    (c.saveTaken = true → out.status = 0 ∧ out.s.ctx? b = some { c with run := 1 }) ∧
    (c.saveTaken = false → c.memUsed + area + granted ≤ c.claim.mem → out.status = 0 ∧
      ∃ d, out.s.ctx? b = some d ∧ d.run = 1 ∧ d.saveTaken = true ∧ d.memUsed = c.memUsed + area ∧ d.claim = c.claim) ∧
    (c.saveTaken = false → c.claim.mem < c.memUsed + area + granted → out.status = 7 ∧ out.s = s)) ∧
  (∀ (s : State) (issuer a q op image : Nat) (p : Ctx) (old : Queue), s.ctx? issuer = some p → old = s.queues.getD q Queue.blank →
    let out := s.ctxQ issuer a q op image
    (rangeIn (q, 1) (p.claim.qlo, p.claim.qcnt) = false → out.status = 11 ∧ out.s = s) ∧
    (rangeIn (q, 1) (p.claim.qlo, p.claim.qcnt) = true →
      (∀ n c, op = 0 → n = Queue.parse image → n.ok image = true → s.descends issuer n.ctx = true → s.ctx? n.ctx = some c →
        rangeIn (q, 1) (c.claim.qlo, c.claim.qcnt) = true → (old.v = false ∨ old.head = old.tail) → out.status = 0 ∧
        ∃ d, out.s.queues.get? q = some d ∧ d.v = n.v ∧ d.hoe = n.hoe ∧ d.log2sz = n.log2sz ∧ d.ctx = n.ctx ∧ d.base = n.base ∧
          d.head = n.head ∧ d.tail = n.tail ∧ d.gto = n.gto ∧ d.errrec = n.errrec ∧
          d.pasid = (if issuer = 0 then n.pasid else old.pasid)) ∧
      (op = 1 → old.v = true → out.status = 0 ∧ out.s.queues.get? q = some { old with
        halted := false, head := (old.head + old.skip) % 2 ^ old.log2sz, skip := 0 }) ∧
      (op = 2 → out.status = 0 ∧ out.s = s ∧ out.wr = some (a, toBytes old.image 32)) ∧
      (op = 3 → (old.v = false ∨ old.head = old.tail) → out.status = 0 ∧
        out.s.queues.get? q = some { old with v := false })))

/-- MMA, MXLD, MXST, MXZ, MXCVT and MXEW: with a participant, an entry in the reservation table and room in the slot's count, an engine instruction whose operands pass its checks takes one entry with its operation, wait mask and set slot. MXWAIT, where every selected slot is idle, gives every participant the slots' error bits, and otherwise the warp waits; MXSLOT gives every participant the slot's 16 bits, and with T 1 clears its error fields. Every executing thread advances. The operation taken into the table is not started, belongs to the warp's context and group, holds the accesses its warp has in flight as its fork edge, and its set slot's count is one higher; every other slot of the group and memory are unchanged. (R215, R218, R219, R224, R225, R226, R229, R230, R231, R232, R233, R286) -/
def Obligations.EngineInstructionsComplete : Prop :=
  ((∀ (o : Ops) (s : State) (j : Issued) (x : Nat × Vals) (rest : List (Nat × Vals)) (i : Instr) (kind : EngKind)
    (wmask sset nt w : Nat),
    issued s 56 o true true = some j → j.p.vals = x :: rest → nt = (j.s.tilesOf j.c j.wp).2 → w = wrap o.w2 32 →
    ((∃ (sa : Nat) (g : Group) (img : Nat), i = .mma o ∧ (sa : Int) = x.2.a + o.w2 ∧ g = j.s.groupOf j.c j.wp ∧ sa % 64 = 0 ∧
        sa + 64 ≤ 128 * g.scratchCount ∧ j.s.imageWaits j.c j.slot j.wp (List.range 32) sa 64 = [] ∧
        img = (j.s.core j.c).scratch.readNat (128 * g.scratchBase + sa) 64 ∧
        (j.s.core j.c).scratchBad (128 * g.scratchBase + sa) 64 = false ∧ blockReserved img = true ∧
        (MmaBlock.parse img).legal nt (j.s.tdRange j.wp.ctx).2 = true ∧ kind = .mma (MmaBlock.parse img) ∧
        wmask = (MmaBlock.parse img).wmask ∧ sset = (MmaBlock.parse img).sset) ∨
      (wmask = w % 256 ∧ sset = w / 256 % 8 ∧
        (((i = .mxld o ∧ kind = .mxld (rawField o.d) x.2.a (w / 4096 % 4096 + 1)) ∨
            (i = .mxst o ∧ kind = .mxst (rawField o.d) x.2.a (w / 4096 % 4096 + 1))) ∧
          16384 * rawField o.d + 128 * (w / 4096 % 4096 + 1) ≤ 16384 * nt ∧ x.2.a < 2 ^ 57 ∧ x.2.a % 128 = 0 ∨
        (i = .mxz o ∧ kind = .mxz (rawField o.d) (w / 4096 % 4096 + 1) ∧
          16384 * rawField o.d + 128 * (w / 4096 % 4096 + 1) ≤ 16384 * nt) ∨
        (i = .mxcvt o ∧ kind = .mxcvt (rawField o.d) (rawField o.a) (rawField o.b) (w / 4096 % 128) o.ov ∧ rawField o.a < nt ∧
          16384 * rawField o.d + 128 * (w / 4096 % 128) + cvtBytes (rawField o.b) ≤ 16384 * nt ∧
          overlap (16384 * rawField o.d + 128 * (w / 4096 % 128)) (cvtBytes (rawField o.b)) (16384 * rawField o.a) 16384 = false) ∨
        (i = .mxew o ∧ kind = .mxew (rawField o.d) (rawField o.a) (rawField o.b) o.t (w / 4096 % 16) o.ov ∧
          rawField o.d < nt ∧ rawField o.a < nt ∧ (w / 4096 % 16 = 5 ∨ rawField o.b < nt))))) →
    j.s.engineFull j.c j.wp sset = false →
    exec i s = .next (j.moves 56 o (j.s.startOp j.c j.slot j.wp kind wmask sset) [] false)) ∧
  (∀ (o : Ops) (s : State) (j : Issued) (g : Group) (mask : Nat), issued s 56 o false true = some j → j.p.vals ≠ [] →
    g = j.s.groupOf j.c j.wp → mask = wrap o.w2 32 % 256 →
    (g.slotsIdle mask = true → exec (.mxwait o) s = .next (j.moves 56 o (j.s.modWarp j.c j.slot fun w =>
      w.writeAll (Ops.dst o j.r) (j.p.vals.map fun x => (x.1, g.slotErrors mask, (0 : XFlags)))) [] false)) ∧
    (g.slotsIdle mask = false → ∃ ws, exec (.mxwait o) s = .next (j.moves 56 o (j.s.modWarp j.c j.slot fun w =>
      { w with wait := .mxwait mask ws, waitOp := 56 + o.x * 64, back := j.p.exec, backLen := o.form.len }) [] false)) ∧
    (∀ n, n = wrap o.w2 32 % 8 → exec (.mxslot o) s = .next (j.moves 56 o (
      let u := j.s.modWarp j.c j.slot fun w => w.writeAll (Ops.dst o j.r) (j.p.vals.map fun x =>
        (x.1, (g.deps.getD n DepSlot.zero).bits, (0 : XFlags)))
      if o.t = 1 then u.modDep j.c j.wp.gslot g.uid n fun d => { d with ovf := false, err := false, ecode := 0 } else u)
      [] false)))) ∧
  (∀ (s : State) (c slot : Nat) (wp : Warp) (kind : EngKind) (wmask sset : Nat) (g : Group),
    s.group? c wp.gslot = some g → sset < 8 → g.deps.length = 8 →
    let t := s.startOp c slot wp kind wmask sset
    (∃ id o, (t.cluster (clusterOf c)).ops.get? id = some o ∧ o.kind = kind ∧ o.wmask = wmask ∧ o.sset = sset ∧
      o.ctx = wp.ctx ∧ o.core = c ∧ o.gslot = wp.gslot ∧ o.started = false ∧ o.next = 0 ∧
      ∀ k a, s.acc.get? k = some a → a.core = c → a.slot = slot → a.uid = wp.uid → k ∈ o.after_) ∧
    (∃ g', t.group? c wp.gslot = some g' ∧ (g'.deps.getD sset DepSlot.zero).count = (g.deps.getD sset DepSlot.zero).count + 1 ∧
      ∀ k, k ≠ sset → g'.deps.getD k DepSlot.zero = g.deps.getD k DepSlot.zero) ∧
    t.mem = s.mem ∧ t.warps = s.warps)

/-- With identifiers inside the context's range and an image that is aligned, in the group's rows and not poisoned where it is read, operations that may start having started, and, but for TDGET, every earlier access of the elected thread and every store of the core's releases globally performed: TDSET writes the image with CTX by the hardware on every die of the claim, TDGET stores the entry of the issuing core's die, TDINV clears V of the identifiers named, TDCOPY copies the entry; the warp yields until the writes have landed, and every executing thread advances. That operations which may start have started first is log entry 95, and the wait for the core's released stores log entry 103, both the model's choice. (R210, R224, R234) -/
def Obligations.DescriptorInstructionsComplete : Prop :=
  ∀ (o : Ops) (s : State) (j : Issued) (x : Nat × Vals) (rest : List (Nat × Vals)) (lo n sa at_ : Nat) (fin : State → State) (ordered : Prop),
    issued s 57 o true true = some j → j.p.vals = x :: rest → j.s.tdRange j.wp.ctx = (lo, n) →
    (ordered = (j.s.notGlobal j.c j.slot j.wp.uid [x.1] = [] ∧ j.s.released j.c = [])) →
    (fin = fun u => j.moves 57 o (u.modWarp j.c j.slot fun w => { w with wait := .results [], waitOp := 57 + o.x * 64 }) [] false) →
    ((sa : Int) = x.2.a + o.w2 → sa % 64 = 0 → sa + 64 ≤ 128 * (j.s.groupOf j.c j.wp).scratchCount → x.2.b < n →
      at_ = 128 * (j.s.groupOf j.c j.wp).scratchBase + sa → j.s.imageWaits j.c j.slot j.wp [x.1] sa 64 = [] →
      ((j.s.core j.c).scratchBad at_ 64 = false → ordered → exec (.tdset o) s = .next (fin (j.s.startAllDue.writeDesc j.wp.ctx (lo + x.2.b) fun _ =>
        BitVec.ofNat 512 (setBits ((j.s.core j.c).scratch.readNat at_ 64) 16 16 j.wp.ctx)))) ∧
      ∀ m, m = (j.s.core j.c).scratch.writeNat at_ 64 ((j.s.die (dieOf j.c)).descs.getD (lo + x.2.b) 0).toNat →
        exec (.tdget o) s = .next (fin (j.s.setCore j.c { (j.s.core j.c) with
          scratch := m, scratchPoison := (j.s.core j.c).scratchPoison.filter fun r => !(decide (at_ ≤ 8 * r) && decide (8 * r + 8 ≤ at_ + 64)) }))) ∧
    (x.2.b + wrap o.w2 32 ≤ n → ordered → exec (.tdinv o) s = .next (fin ((rangeFrom (lo + x.2.b) (wrap o.w2 32)).foldl (fun s i =>
      s.writeDesc j.wp.ctx i fun d => BitVec.ofNat 512 (setBits d.toNat 0 1 0)) j.s.startAllDue))) ∧
    (x.2.a < n → x.2.b < n → ordered → exec (.tdcopy o) s = .next (fin (j.s.startAllDue.writeDesc j.wp.ctx (lo + x.2.b) fun _ =>
      (j.s.die (dieOf j.c)).descs.getD (lo + x.2.a) 0)))

/-- With an entry of the operand log: CPY, with a legal descriptor and room in its engine's queue, queues its copy with the engine's next number, and COLL its collective, and the participants receive promise and handle; CPYW makes the warp wait; CPYQ gives each participant its new estimate; WSOPEN and WSLOCK give the status over the regions named and, on success, set their state; WSREF gives the window's start; PREF prefetches each participant's line. Every executing thread advances. What a COLL's handle counts is log entry 24, the order of WSOPEN's and WSLOCK's statuses log entry 25, and that a misaligned PREF is dropped log entry 35, the model's choices. (R224, R253, R262, R263, R264, R265, R266, R268, R269, R270) -/
def Obligations.DieInstructionsComplete : Prop :=
  (∀ (o : Ops) (s : State) (j : Issued) (x : Nat × Vals) (rest : List (Nat × Vals)) (i : Instr) (n d handle : Nat) (act : CopyAct)
    (u : State) (promise : DWord), issued s 58 o true true = some j → j.p.vals = x :: rest →
    j.s.logBusy j.c j.slot j.wp j.p = false →
    ((i = .cpy o ∧ n = 32 ∧ act = j.s.cpyAct j.c j.slot j.wp d) ∨ (i = .coll o ∧ n = 64 ∧ act = j.s.collAct j.c j.slot j.wp d)) →
    j.s.copyDesc j.c j.slot j.wp ((x.2.a : Int) + o.w2) n = .ok d → act = .go u promise handle →
    exec i s = .next ((u.awaitKnown j.c j.slot j.wp (58 + o.x * 64) (Ops.dst o j.r)
      (j.p.parts.map fun t => (t, toWords promise.toNat 2 ++ [BitVec.ofNat 32 handle, 0]))).endLogged
        j.c j.slot j.wp i (siteOf j.wp 58 o 0 3) j.p [] o.brk)) ∧
  (∀ (o : Ops) (s : State) (j : Issued), issued s 58 o false true = some j → j.s.logBusy j.c j.slot j.wp j.p = false →
    (j.p.vals ≠ [] → ∃ (e : Nat) (u : State) (ws : List (Nat × Waiter)),
      exec (.cpyw o) s = .next ((u.modWarp j.c j.slot fun w => { (w.nextPc j.p.exec o.form.len) with wait := .cpyw ws, waitOp := 58 + o.x * 64 }).conclude j.c j.slot (siteOf j.wp 58 o 0 3) j.p.exec [] (some e) false
          j.p.exec.length o.brk) ∧ ws.map (fun w => (w.2.thread, w.2.p, w.2.h)) =
            j.p.vals.map (fun x => (x.1, BitVec.ofNat 64 x.2.a, BitVec.ofNat 32 x.2.b)) ∧ u.mem = j.s.mem ∧ u.warps = j.s.warps) ∧
    exec (.cpyq o) s = .next ((j.s.awaitKnown j.c j.slot j.wp (58 + o.x * 64) (Ops.dst o j.r) (j.p.vals.map fun x =>
      (x.1, toWords (j.s.estimate j.wp.ctx x.2.b) 2))).endLogged j.c j.slot j.wp (.cpyq o) (siteOf j.wp 58 o 0 3) j.p [] o.brk) ∧
    exec (.wsref o) s = .next ((j.s.modWarp j.c j.slot fun w => w.writeAll (Ops.dst o j.r) (j.p.vals.map fun x =>
      (x.1, wsWindow (dieOf j.c) (wrap o.w2 32 % 32) j.s.time, (0 : XFlags)))).endLogged j.c j.slot j.wp (.wsref o)
        (siteOf j.wp 58 o 0 3) j.p [] o.brk)) ∧
  (∀ (o : Ops) (s : State) (j : Issued), issued s 58 o false true = some j →
    exec (.pref o) s = .next (j.moves 58 o (j.p.vals.foldl (fun s x =>
      s.prefetch j.c j.wp.ctx (wrap ((x.2.a : Int) + o.w2) 64) o.rm) j.s) [] false)) ∧
  (∀ (o : Ops) (s : State) (j : Issued) (x : Nat × Vals) (rest : List (Nat × Vals)) (i : Instr) (locked : Bool) (st : Nat),
    issued s 58 o true true = some j → j.p.vals = x :: rest → j.s.logBusy j.c j.slot j.wp j.p = false →
    ((i = .wsopen o ∧ locked = false) ∨ (i = .wslock o ∧ locked = true)) →
    st = j.s.wsStatus (dieOf j.c) j.wp.ctx x.2.a (wrap o.w2 32) →
    exec i s = .next (((if st = 0 then j.s.wsSet (dieOf j.c) x.2.a (wrap o.w2 32) locked else j.s).awaitKnown j.c j.slot j.wp
      (58 + o.x * 64) (Ops.dst o j.r) (j.p.parts.map fun t => (t, toWords st 1))).endLogged j.c j.slot j.wp i
        (siteOf j.wp 58 o 0 3) j.p [] o.brk))

/-- With access to the queue and nothing earlier to come first: ENQ posts its card and gives every participant the slot, or the status FULL; POST likewise for each participant's card; TSPAWN posts each participant's task; QSTAT gives each participant its queue's state; PHASE opens a phase; PARRIVE arrives once; PWAIT waits or answers 2 without a phase; INTR raises a vector or answers 1. Every executing thread advances. That PARRIVE and PWAIT take the header of their lowest participant is log entry 53, TSPAWN's admission log entry 90 and the homecoming of released stores log entry 103, the model's choices. (R300, R305, R306, R313, R315, R317, R319, R320, R321, R322, R323) -/
def Obligations.TaskInstructionsComplete : Prop :=
  (∀ (o : Ops) (s : State) (j : Issued) (x : Nat × Vals) (rest : List (Nat × Vals)) (fin : State → Nat → State),
    issued s 60 o true true = some j → j.p.vals = x :: rest →
    (fin = fun u v => j.moves 60 o (u.electedResult j.c j.slot j.wp (60 + o.x * 64) j.p (Ops.dst o j.r) v) [] false) →
    (∀ (g : Group) (sa n : Nat) (card : List Byte), g = j.s.groupOf j.c j.wp → (sa : Int) = x.2.a + o.w2 → sa % 64 = 0 →
      card = (j.s.core j.c).scratch.read (128 * g.scratchBase + sa) n →
      n = (if bit (ofBytes ((j.s.core j.c).scratch.read (128 * g.scratchBase + sa) 2)) 8 then 128 else 64) →
      sa + n ≤ 128 * g.scratchCount → j.s.imageWaits j.c j.slot j.wp (List.range 32) sa 128 = [] → (j.s.core j.c).scratchBad (128 * g.scratchBase + sa) n = false →
      j.s.mayPost j.wp.ctx x.2.b = true → j.s.postOrder j.c j.slot j.wp [x.1] (o.t = 2) = ([], []) →
      (∀ u slot, j.s.arrive j.c (actorOf j.c j.slot x.1) x.2.b card = .done u slot → exec (.enq o) s = .next (fin u slot)) ∧
      (j.s.arrive j.c (actorOf j.c j.slot x.1) x.2.b card = .noRoom → exec (.enq o) s = .next (fin j.s (2 ^ 24)))) ∧
    (∀ (bs : List Byte) (u u' : State) (st : Nat), x.2.a % 64 = 0 →
      j.s.threadRead j.c j.slot j.wp x.1 x.2.a 64 = .ok bs u →
      (∃ k, u.ctx? j.wp.ctx = some k ∧ phaseOk k.claim (ofBytes bs) = true) →
      u.openPhase j.wp.ctx j.c x.2.a (phaseDests (ofBytes bs)) = (st, u') → exec (.phase o) s = .next (fin u' st)) ∧
    ((o.t = 2 → j.s.notGlobal j.c j.slot j.wp.uid [x.1] = [] ∧ j.s.released j.c = []) →
      (∀ u, j.s.raiseVec j.wp.ctx x.2.a (wrap o.w2 32 % 32) x.2.b j.wp.ctx = some u → exec (.intr o) s = .next (fin u 0)) ∧
      (j.s.raiseVec j.wp.ctx x.2.a (wrap o.w2 32 % 32) x.2.b j.wp.ctx = none → exec (.intr o) s = .next (fin j.s 1)))) ∧
  (∀ (o : Ops) (s : State) (j : Issued) (x : Nat × Vals) (rest : List (Nat × Vals)),
    issued s 60 o false true = some j → j.p.vals = x :: rest →
    (∀ (cards : List (Nat × Nat × List Byte)) (rs : List (Nat × CardRead)) (out : List (Nat × List Word)) (u u' : State),
      readCards j.c j.slot j.wp o.w2 j.s j.p.vals = (rs, u) →
      j.s.postOrder j.c j.slot j.wp (j.p.vals.map (·.1)) (o.t = 2) = ([], []) →
      rs.map (fun y => (y.1, match y.2 with | .ok bs _ => some bs | _ => none)) = cards.map (fun y => (y.1, some y.2.2)) →
      cards.map (fun y => (y.1, y.2.1)) = j.p.vals.map (fun y => (y.1, y.2.b)) →
      postAll j.c j.slot u cards = some (out, u') →
      exec (.post o) s = .next (j.moves 60 o (u'.awaitKnown j.c j.slot j.wp (60 + o.x * 64) (Ops.dst o j.r) out) [] false)) ∧
    ((∀ y ∈ j.p.vals, j.s.mayPost j.wp.ctx y.2.b = true) →
      exec (.qstat o) s = .next (j.moves 60 o (j.s.awaitKnown j.c j.slot j.wp (60 + o.x * 64) (Ops.dst o j.r) (j.p.vals.map
        fun y => (y.1, toWords (j.s.queues.getD y.2.b Queue.blank).stat 2))) [] false)) ∧
    (∀ (bs : List Byte) (q sigc ctx : Nat) (u u' : State) (out : List (Nat × List Word)), q = wrap o.w2 32 % 4096 →
      sigc = wrap o.w2 32 / 4096 % 4096 → ctx = (j.s.queues.getD q Queue.blank).ctx →
      j.s.threadRead j.c j.slot j.wp x.1 x.2.b 16 = .ok bs u → taskHeader x.2.b bs = true →
      (sigc = 0 ∨ sigc < j.s.counterLimit ctx) → j.s.mayPost j.wp.ctx q = true →
      j.s.postOrder j.c j.slot j.wp (j.p.vals.map (·.1)) (o.t = 2) = ([], []) →
      spawnAll q x.2.b ctx sigc u j.p.vals = (out, u') → u'.counterBad ctx q sigc = false →
      exec (.tspawn o) s = .next (j.moves 60 o (((if bit (wrap o.w2 32) 24 then State.flush 1024 u' q ctx x.2.b else u').admitFormed q).awaitKnown j.c j.slot j.wp (60 + o.x * 64) (Ops.dst o j.r) out) [] false)) ∧
    (∀ (st : Nat) (u : State), x.2.a % 64 = 0 → j.s.notGlobal j.c j.slot j.wp.uid (j.p.vals.map (·.1)) = [] → j.s.released j.c = [] →
      j.s.phaseArrival j.wp.ctx x.2.a (wrap o.w2 32 % 16) = (st, u) →
      exec (.parrive o) s = .next (j.moves 60 o (u.electedResult j.c j.slot j.wp (60 + o.x * 64) j.p (Ops.dst o j.r) st) [] false)) ∧
    (x.2.a % 64 = 0 →
      (j.s.phaseOf j.wp.ctx x.2.a = none → exec (.pwait o) s = .next (j.moves 60 o
        (j.s.electedResult j.c j.slot j.wp (60 + o.x * 64) j.p (Ops.dst o j.r) 2) [] false)) ∧
      (∀ ph, j.s.phaseOf j.wp.ctx x.2.a = some ph → ∃ ws, exec (.pwait o) s = .next (j.moves 60 o
        (j.s.modWarp j.c j.slot fun w => { w with
        wait := .pwait x.2.a ph.opened (if ph.complete then some ph.verdict else none) ws, waitOp := 60 + o.x * 64,
        back := j.p.exec, backLen := o.form.len }) [] false))))

/-- CTXNEW, CTXGRANT, CTXREVOKE, CTXMAP, CTXUNMAP, CTXRUN, CTXSTOP, CTXQ and CTXQATTACH: with a participant, an aligned address and a readable block, the elected thread's instruction acts as its entry says for the issuing context. Every participant receives STATUS with the id of a new context in bits 16+16, at once or, where mappings were removed, when the invalidation has completed; CTXSTOP yields the warp until every save has ended. That the block is read as a load of the elected thread is log entry 50, and that CTXMAP waits for its invalidation log entry 105, the model's choices. (R289, R291, R293, R295, R314, R327, R328) -/
def Obligations.ContextInstructionsComplete : Prop :=
  ∀ (i : Instr) (n : Nat) (o : Ops) (s u : State) (j : Issued) (x : Nat × Vals) (rest : List (Nat × Vals)) (block : Nat) (out : CtxOut)
    (wop w2 v : Nat),
    ((i = .ctxnew o ∧ n = 0) ∨ (i = .ctxgrant o ∧ n = 1) ∨ (i = .ctxrevoke o ∧ n = 2) ∨ (i = .ctxmap o ∧ n = 3) ∨
      (i = .ctxunmap o ∧ n = 4) ∨ (i = .ctxrun o ∧ n = 5) ∨ (i = .ctxstop o ∧ n = 6) ∨ (i = .ctxq o ∧ n = 7) ∨
      (i = .ctxqattach o ∧ n = 8)) → o.x = n → wop = 61 + n * 64 → w2 = wrap o.w2 32 →
    issued s 61 o true true = some j → j.p.vals = x :: rest → x.2.a % ctxAlign n x.2.a w2 = 0 →
    ((ctxBlock n x.2.a w2 = 0 ∧ block = 0 ∧ u = j.s) ∨
      (ctxBlock n x.2.a w2 ≠ 0 ∧ ∃ bs, j.s.threadRead j.c j.slot j.wp x.1 x.2.a (ctxBlock n x.2.a w2) = .ok bs u ∧
        block = ofBytes bs)) →
    out = u.ctxDo n j.wp.ctx x.2.a x.2.b x.2.c w2 block → v = out.status + out.id * 2 ^ 16 → out.wait = false →
    ∀ u2, ((out.wr = none ∧ u2 = out.s) ∨
        ∃ va bs, out.wr = some (va, bs) ∧ out.s.devWrite (some j.c) j.wp.ctx va (actorOf j.c j.slot x.1) bs = .done u2) →
      (out.stop = none → out.ranges = none →
        exec i s = .next (j.moves 61 o (u2.electedResult j.c j.slot j.wp wop j.p (Ops.dst o j.r) v) [] false)) ∧
      (∀ rs, out.stop = none → out.ranges = some rs → ∃ ids u3, u2.pendingResults j.c j.slot j.wp wop j.p (Ops.dst o j.r) = (ids, u3) ∧
        exec i s = .next (j.moves 61 o (u3.startShootdown ⟨rs, ids, v, none, none⟩) [] false)) ∧
      (∀ child, out.stop = some child → ∃ ws, exec i s = .next (j.moves 61 o (u2.modWarp j.c j.slot fun w =>
        { w with wait := .stopping child ws, waitOp := wop }) [] false))

/-- In a participant at handler privilege with its trap record on top and no valid handle, TRET RETRY and FIXRETRY resume at the record's PC and SKIP after that instruction, with FP, S, DEPTH and the link stack as before the fault; KILL ends the thread. A TRET outside a handler takes PRIVILEGE (67), and one at another DEPTH or without the record on top LINK_MISMATCH (22), at once and before the threads above it act; all four complete. (R192, R193, R199, R329) -/
def Obligations.LeavingAHandler : Prop :=
  (∀ (i : Instr) (action : Nat) (o : Ops) (s : State) (j : Issued),
    ((i = .tretRetry o ∧ action = 0) ∨ (i = .tretSkip o ∧ action = 1) ∨ (i = .tretFixretry o ∧ action = 2) ∨
      (i = .tretKill o ∧ action = 3)) → issued s 62 o false false = some j →
    ∀ k : Tret, k = (j.p.vals.map (·.1)).foldl (fun (k : Tret) t =>
        k.step j.c j.slot action (bit (wrap o.w2 32) 2) (siteOf j.wp 62 o 0 3) t) ⟨j.s, [], [], none⟩ →
      k.wait = none → k.ids = [] → k.cpyw = [] →
      exec i s = .next (j.moves 62 o k.s ((j.p.vals.map (·.1)).filterMap fun t =>
        ((k.s.warp? j.c j.slot).bind (·.thread? t)).map fun th => (t, Move.to th.pc.toNat)) true)) ∧
  (∀ (k : Tret) (c slot t action : Nat) (reflect : Bool) (site : Site) (wp : Warp) (th : Thread), k.s.warp? c slot = some wp →
    wp.thread? t = some th → action ≤ 3 →
    (th.trap = none → k.step c slot action reflect site t = { k with
      s := k.s.takeFault c slot (site.record ⟨t, 67, 0, 0⟩ false none slot th.depth) th.pc site.len }) ∧
    (∀ e, th.trap = some e → ((∀ r z, th.link.head? ≠ some (.trap r z)) ∨ th.depth ≠ e.depth) →
      k.step c slot action reflect site t = { k with
        s := k.s.takeFault c slot (site.record ⟨t, 22, 0, 0⟩ false none slot th.depth) th.pc site.len }) ∧
    (∀ e resume sz, th.trap = some e → th.link.head? = some (.trap resume sz) → th.depth = e.depth →
      e.record.handle.getLsbD 31 = false → action ≤ 2 →
      ∃ wp' th', (k.step c slot action reflect site t).s.warp? c slot = some wp' ∧ wp'.thread? t = some th' ∧ th'.trap = none ∧
        th'.pc = (if action = 1 then e.record.pc + BitVec.ofNat 64 e.len else e.record.pc) ∧ th'.fp = th.fp - sz ∧ th'.s = sz ∧
        th'.depth = th.depth - 1 ∧ th'.link = th.link.tail ∧ th'.preds = th.preds ∧ th'.meetA = th.meetA) ∧
    (∀ e resume sz, th.trap = some e → th.link.head? = some (.trap resume sz) → th.depth = e.depth → action = 3 →
      th.alive = true → ∀ wp' th', (k.step c slot action reflect site t).s.warp? c slot = some wp' → wp'.thread? t = some th' →
        th'.alive = false))

/-- SYSR gives each participant the register that word 2 names, in its own thread; SYSW writes STATUS, or the context's handler or interrupt base, from the elected thread; IMASK gives every participant the old mask and sets, raises or clears bits of it; IRET, in the thread whose interrupt it is, goes to the record's PC with its frame; LSPOST posts its 32 bytes to a mailbox with room and gives every participant the ticket; LSWAIT gives a known status, or the warp waits. Every other executing thread advances. (R97, R160, R324, R326, R330, R331, R332) -/
def Obligations.SystemInstructionsComplete : Prop :=
  (∀ (o : Ops) (s : State) (j : Issued) (th : Nat → Thread), issued s 62 o false false = some j →
    (∀ x ∈ j.p.vals, j.wp.thread? x.1 = some (th x.1)) →
    exec (.sysr o) s = .next (j.moves 62 o (j.s.modWarp j.c j.slot fun w => w.writeAll (Ops.dst o j.r) (j.p.vals.map fun x =>
      (x.1, j.s.sysReg j.c j.slot j.wp (th x.1) (wrap o.w2 32 % 256), (0 : XFlags)))) [] false) ∧
    ((∀ x ∈ j.p.vals, j.wp.irq = some (x.1, (th x.1).depth) ∧ ∃ pc z, (th x.1).link.head? = some (.trap pc z)) →
      ∀ pc : Nat → DWord, (∀ x ∈ j.p.vals, ∃ z, (th x.1).link.head? = some (.trap (pc x.1) z)) →
      exec (.iret o) s = .next (j.moves 62 o (j.s.modWarp j.c j.slot fun w => j.p.vals.foldl (fun (w : Warp) x =>
        { (w.modThread x.1 fun u => u.leaveTrap (BitVec.ofNat 64 (pc x.1).toNat)) with irq := none }) w)
        (j.p.vals.map fun x => (x.1, .to (pc x.1).toNat)) true))) ∧
  (∀ (o : Ops) (s : State) (j : Issued) (x : Nat × Vals) (rest : List (Nat × Vals)), issued s 62 o true false = some j →
    j.p.vals = x :: rest →
    (wrap o.w2 32 % 256 = 0 → exec (.sysw o) s = .next (j.moves 62 o (j.s.modWarp j.c j.slot fun w => w.setStatus x.2.b) [] false)) ∧
    (∀ k, wrap o.w2 32 % 256 ≠ 0 → goodTarget x.2.b = true → j.s.ctx? j.wp.ctx = some k →
      exec (.sysw o) s = .next (j.moves 62 o ((j.s.setCtx j.wp.ctx (if wrap o.w2 32 % 256 = 14
        then { k with hbase := BitVec.ofNat 64 x.2.b } else { k with uibase := BitVec.ofNat 64 x.2.b })).modWarp j.c j.slot fun w =>
          { w with wait := .results [], waitOp := 62 + o.x * 64 }) [] false)) ∧
    (∀ (g : Group) (m : Word), j.s.group? j.c j.wp.gslot = some g →
      m = (if o.t = 0 then BitVec.ofNat 32 x.2.b else if o.t = 1 then g.imask ||| BitVec.ofNat 32 x.2.b
        else g.imask &&& ~~~(BitVec.ofNat 32 x.2.b)) →
      exec (.imask o) s = .next (j.moves 62 o ((j.s.setGroup j.c j.wp.gslot { g with imask := m }).modWarp j.c j.slot fun w =>
          w.writeAll (Ops.dst o j.r) (j.p.parts.map fun t => (t, g.imask.toNat, (0 : XFlags)))) [] false)) ∧
    (∀ st, ((j.s.core j.c).scalar (o.t == 1)).statusOf j.wp.ctx (x.2.b % 65536) = some st →
      exec (.lswait o) s = .next (j.moves 62 o (j.s.electedResult j.c j.slot j.wp (62 + o.x * 64) j.p (Ops.dst o j.r) st) [] false)) ∧
    (((j.s.core j.c).scalar (o.t == 1)).statusOf j.wp.ctx (x.2.b % 65536) = none →
      ∃ ws, exec (.lswait o) s = .next (j.moves 62 o (j.s.modWarp j.c j.slot fun w =>
        { w with wait := .lswait (o.t == 1) (x.2.b % 65536) none ws, waitOp := 62 + o.x * 64, back := j.p.exec,
                 backLen := o.form.len }) [] false))) ∧
  (∀ (o : Ops) (s : State) (j : Issued) (x : Nat × Vals) (rest : List (Nat × Vals)) (g : Group) (sa at_ : Nat) (k : Core) (sc : Scalar),
    issued s 62 o true true = some j → j.p.vals = x :: rest → g = j.s.groupOf j.c j.wp → (sa : Int) = x.2.a + o.w2 →
    sa % 32 = 0 → sa + 32 ≤ 128 * g.scratchCount → k = j.s.core j.c → at_ = 128 * g.scratchBase + sa →
    j.s.imageWaits j.c j.slot j.wp (List.range 32) sa 32 = [] → k.scratchBad at_ 32 = false → sc = k.scalar (o.t == 1) → sc.mailbox.length < 32 →
    exec (.lspost o) s = .next (j.moves 62 o ((j.s.setCore j.c (k.setScalar (o.t == 1) (sc.post ⟨k.scratch.read at_ 32, j.wp.ctx,
      j.wp.gslot, j.slot, sc.ticket, j.s.warpAccesses j.c j.slot j.wp.uid⟩))).modWarp j.c j.slot fun w =>
        w.writeAll (Ops.dst o j.r) (j.p.parts.map fun t => (t, sc.ticket, (0 : XFlags)))) [] false))

/-- Raising vector v at a group of the context sets its pending bit and remembers code and raiser, leaving the other vectors and the mask; raising at a group of another context, or at none, changes nothing and fails. The vector delivered next is the lowest that is pending and not masked; without one, delivery changes nothing. (R323, R324) -/
def Obligations.InterruptsArePendingUntilDelivered : Prop :=
  (∀ (s : State) (ctx target vec code raiser : Nat),
    (2 ^ 15 ≤ target ∨ s.group? (targetOf target).1 (targetOf target).2 = none) → s.raiseVec ctx target vec code raiser = none) ∧
  (∀ (s : State) (ctx target vec code raiser : Nat) (g : Group), vec < 32 → target < 2 ^ 15 →
    s.group? (targetOf target).1 (targetOf target).2 = some g →
    (g.ctx ≠ ctx → s.raiseVec ctx target vec code raiser = none) ∧
    (g.ctx = ctx → ∃ t g', s.raiseVec ctx target vec code raiser = some t ∧
      t.group? (targetOf target).1 (targetOf target).2 = some g' ∧ g'.imask = g.imask ∧ t.mem = s.mem ∧ t.warps = s.warps ∧
      g'.uicode.get? vec = some (BitVec.ofNat 32 code, raiser) ∧ ∀ v, v < 32 → g'.uipend.getLsbD v = (decide (v = vec) || g.uipend.getLsbD v))) ∧
  (∀ (g : Group) (v : Nat), g.nextVec = some v → g.uipend.getLsbD v = true ∧ g.imask.getLsbD v = true ∧
    ∀ u, u < v → (g.uipend.getLsbD u && g.imask.getLsbD u) = false) ∧
  (∀ (s : State) (core slot : Nat) (wp : Warp) (g : Group), s.warp? core slot = some wp → s.group? core wp.gslot = some g →
    g.nextVec = none → exec (.interruptDelivery core slot) s = .next s)

/-- LM.TAKE, from a nonempty mailbox and without a current command, stores the command at the address and gives its ticket and place; LM.META gives the group's rows, LM.DONE retires the command, LM.BASE and LM.SADDR set the copy addresses, LM.G2S and LM.S2G copy within the command's rows (S2G after the core's earlier stores there), while no commit holds a word they touch, LM.FLAG sets row flags, LM.WAITF waits for one, LM.TIME and LM.TIMEH give device time; each advances the pc by 4. An RV32IMC instruction that does not trap has its result; a loaded program starts at address 0. A trap halts the core: after it the mailbox is empty and a current command is marked failed, current until LM.DONE; every command that stood in the mailbox, and the current command unless it had failed before, is among the retired ones with LS_HALT (0xFF), and the registers keep their values. What RV32IMC instructions and program loads do beyond the spec's words is log entry 14, and what a halt does with the commands is log entry 73: the model's choices. (R159, R160, R185, R186, R187) -/
def Obligations.ScalarCoreInstructionsComplete : Prop :=
  (∀ (s : State) (c : Nat) (storer : Bool) (k : Scalar) (fin : Scalar → State),
    (fin = fun q => s.setScalarAt c storer { q with pc := q.pc + 4 }) → scalarOn s = some (c, storer, k) →
    (∀ (rd rs1 : Nat) (m : LsCommand) (rest : List LsCommand), k.cur = none → k.mailbox = m :: rest → k.x rs1 % 32 = 0 →
      k.x rs1 ≤ 4064 → m.after_.all s.doneG = true → (∀ y z, (s.cluster (clusterOf c)).stop = some (y, z) → y ≠ m.ctx) →
      ∀ ds, ds = k.dstore.write (k.x rs1) m.bytes →
      exec (.lmTake rd rs1) s = .next (fin (Scalar.setX { k with mailbox := rest, cur := some (m, false), dstore := ds } rd (m.ticket + m.wslot * 2 ^ 16 + m.gslot * 2 ^ 24)))) ∧
    (∀ (rd v : Nat), v = (match k.cur.bind (fun q => s.cmdGroup c q.1) with
        | some g => g.scratchBase + g.scratchCount * 2 ^ 16
        | none => 0) → exec (.lmMeta rd) s = .next (fin (k.setX rd v))) ∧
    (∀ rd rs1, (k.cur = none → exec (.lmDone rd rs1) s = .next (fin (k.setX rd 2))) ∧
      (∀ m, k.cur = some (m, true) → exec (.lmDone rd rs1) s = .next (fin (Scalar.setX { k with cur := none } rd 1))) ∧
      (∀ m, k.cur = some (m, false) → exec (.lmDone rd rs1) s = .next (fin (Scalar.setX { (k.retire m
        (min (k.x rs1 % 256) 0xEF)) with cur := none } rd 0)))) ∧
    (∀ rs1 rs2, exec (.lmBase rs1 rs2) s = .next (fin { k with xb := BitVec.ofNat 64 (k.x rs1 + k.x rs2 * 2 ^ 32) })) ∧
    (∀ rs1, exec (.lmSaddr rs1) s = .next (fin { k with xsa := k.x rs1 % 2 ^ 18 })) ∧
    (∀ (rs1 rs2 : Nat) (m : LsCommand) (i : Instr) (out : Bool) (xs : List (Nat × Nat × Nat × Bool)) (rs : List (Nat × Nat)) (ids : List Nat) (u v : State),
      ((i = .lmG2s rs1 rs2 ∧ out = false) ∨ (i = .lmS2g rs1 rs2 ∧ out = true)) → k.cur = some (m, false) →
      s.copyOk c k m (k.globalAddr rs1) (k.x rs2) = true →
      v = (copyChunks 34 (k.globalAddr rs1) 0 (k.x rs2)).foldl (fun (s : State) y => (s.through c m.ctx y.1).2) s →
      v.copyXlat c m.ctx out (copyChunks 34 (k.globalAddr rs1) 0 (k.x rs2)) = .ok xs →
      rs = (xs.map fun x => (x.1, x.2.2.1)) → ids = (if out then v.neededOf c rs none else []) →
      v.reserved (rs ++ (if out then v.settleRanges (some c) rs else []) ++ v.rangesOf ids ++
        v.publishRanges (some c) (linesOf rs)) = false →
      u = xs.foldl (fun (s : State) x => if out then s.s2gChunk c m.ctx k.xsa x else s.g2sChunk c m.ctx k.xsa x)
        (if out then (v.globalAll c ids).settleSeen (some c) rs else v) →
      exec i s = .next (u.setScalarAt c storer { k with xsa := (k.xsa + k.x rs2) % 2 ^ 18, pc := k.pc + 4 })) ∧
    (∀ (rs1 rs2 : Nat) (m : LsCommand) (i : Instr) (full : Bool), ((i = .lmFlagEmpty rs1 rs2 ∧ full = false) ∨
        (i = .lmFlagFull rs1 rs2 ∧ full = true)) → k.cur = some (m, false) → s.cmdRows c m (k.x rs1) (k.x rs2) = true →
      exec i s = .next ((s.setCore c ((s.core c).setFlags (rangeFrom (k.x rs1) (min (k.x rs2) 2048)) full)).setScalarAt c storer
        { k with pc := k.pc + 4 })) ∧
    (∀ (rs1 : Nat) (m : LsCommand) (i : Instr) (full : Bool), ((i = .lmWaitfEmpty rs1 ∧ full = false) ∨
        (i = .lmWaitfFull rs1 ∧ full = true)) → k.cur = some (m, false) → s.cmdRows c m (k.x rs1) 1 = true →
      exec i s = .next (if (s.core c).full (k.x rs1) = full then fin k else s)) ∧
    (∀ rd, exec (.lmTime rd) s = .next (fin (k.setX rd (s.time.toNat % 2 ^ 32))) ∧
      exec (.lmTimeh rd) s = .next (fin (k.setX rd (s.time.toNat / 2 ^ 32)))) ∧
    (∀ i q, k.rv i = some q → exec (.rv32imcInstruction i) s = .next (s.setScalarAt c storer q)) ∧
    (∀ core st, (s.scalarAt core st).halted = false → (s.scalarAt core st).traps = true →
      exec (.scalarCoreTrap core st) s = .next (s.scalarHalt core st)) ∧
    (∀ core st ctx (program : List Byte), core < 640 → program.length ≤ istoreSize →
      exec (.scalarCoreProgramLoad core st ctx program) s = .next (s.setScalarAt core st { (s.scalarAt core st) with
        istore := Memory.write [] 0 program, pc := 0, xb := 0, xsa := 0, halted := false }))) ∧
  (∀ (s : State) (c : Nat) (storer : Bool), let k := s.scalarAt c storer
    let q := (s.scalarHalt c storer).scalarAt c storer
    q.halted = true ∧ q.mailbox = [] ∧ q.cur = k.cur.map (fun m => (m.1, true)) ∧ q.xs = k.xs ∧ q.pc = k.pc ∧ q.dstore = k.dstore ∧
    ((∀ m ∈ k.mailbox, (m.ctx, m.ticket) ∈ k.posted) → ∀ m ∈ k.mailbox, (m.ctx, m.ticket, 0xFF) ∈ q.retired) ∧
    (∀ m, k.cur = some (m, false) → (m.ctx, m.ticket) ∈ k.posted → (m.ctx, m.ticket, 0xFF) ∈ q.retired))

/-- Where it is enabled, an event has its effect. A ready result lands, of one DIV in thread order; a claim whose rows are ready and whose pages are present takes them, the highest row left to refill arrives from its private word, link records return, and a copy that is needed returns while fewer than four are resident. A free lane takes the ready warp that is first by stamp, priority and slot. A warp whose wait is over has what it waited for written and is ready in the next ac, an expired sleep likewise; CPYWs that may end do. An interrupt is entered by the receiving thread of the group's lowest warp, whose wait has ended. A sleeper whose timeout passed gets 2. An access that needs no port, or whose port grants it, takes its next stage; a granting port serves the request it picks; a walk translates an access, and so do a released write block and, after the page has entered, PAGE_RESOLVED; a verdict that its page is unresolvable is a TRANSLATION of subcode 1 for it. A release's note enters a line without one whose set has room; FORCED_PUBLISH publishes a line; DIRECTORY_RECALL publishes it, drops it from every L1, and frees its entry unless a note stays; a shootdown whose range is invalidated drops its TLB entries and gives its status. Which copies return is log entry 19, which warp and thread an interrupt reaches log entry 58, how many link records return log entry 74 and what a port grants log entry 75: the model's choices. (R80, R85, R89, R91, R92, R95, R106, R136, R146, R178, R194, R196, R244, R245, R256, R258, R259, R284, R324) -/
def Obligations.CoreEventsComplete : Prop :=
  ∀ (s : State) (c slot t : Nat) (wp : Warp), s.warp? c slot = some wp →
    (∀ (id : Nat) (r : Result), s.results.get? id = some r →
      (s.mayLand r false = true → exec (.resultArrival id) s = .next (s.landResult id)) ∧
      (s.mayLand r true = true → (∀ e ∈ s.results, e.1 < id → e.2.batch ≠ r.batch) →
        exec (.divResult id) s = .next (s.landResult id))) ∧
    (∀ th : Thread, wp.thread? t = some th →
      (∀ lo a b ws back, th.twait = .spill lo a b ws back → s.spillMissing wp c t th b = none →
        s.claimReady c slot wp.uid t th.lo lo a b wp.win = true →
        exec (.spillClaim c slot t) s = .next (s.claim c slot t lo a b ws)) ∧
      (∀ j rest bs u v, th.refill = j :: rest → s.publishAt c wp.ctx (wp.privAddr t (wp.spillWord j)) 4 = some u →
        u.plainRead c wp.ctx (wp.privAddr t (wp.spillWord j)) 4 = (.ok bs, v) →
        exec (.frameRefill c slot t false) s = .next (v.setWarp c slot (wp.setThread t
          { (th.setCell j (Cell.of (ofBytes bs))) with refill := rest }))) ∧
      (∀ n, n = th.link.length - th.linkRes → th.twait = .link → exec (.linkRecordRefill c slot t) s = .next
        (((List.range (min n (4 - th.linkRes))).foldl (fun (s : State) i =>
          s.areaLines c wp (0x4000 + 512 * (n - 1 - i) + 16 * t) 16 false) s).setWarp c slot (wp.setThread t
        { th with twait := .none, linkRes := min 4 th.link.length })))) ∧
    (∀ k cp, wp.copies.get? k = some cp → cp.resident = false → wp.copiesNeeded.contains k = true →
      (wp.copies.filter fun e => e.2.resident).length < 4 →
      exec (.uniformCopyReturn c slot k) s = .next (((s.areaLines c wp (512 * k) 264 false).setWarp c slot
        { wp with copies := wp.copies.set k { cp with resident := true } }).spillArea c slot)) ∧
    (∀ (lane n : Nat) (w : Warp), lane < 32 → (s.core c).laneRun.get? lane = none →
      s.oldest ((s.core c).laneAc.getD lane 0) ((List.range 8).filterMap fun i => (s.warp? c (lane + 32 * i)).bind fun w =>
        if s.mayIssue c w then some (lane + 32 * i, w) else none) = some (n, w) →
      exec (.laneArbitration c lane) s = .next ((s.setCore c { (s.core c) with
        laneRun := (s.core c).laneRun.set lane n }).setWarp c n { w with run := 0 })) ∧
    (∀ outs u, s.waitOver c slot wp = some outs → (∀ ws, wp.wait ≠ .cpyw ws) →
      u = outs.foldl (fun (s : State) x => s.landWaiter c slot x.1 [BitVec.ofNat 32 x.2]) s →
      exec (.warpReady c slot) s = .next (u.modWarp c slot fun w =>
        { w with wait := .none, waitOp := 0, stamp := u.laneNow c slot + 1 })) ∧
    (∀ d, wp.wait = .sleep d → d ≤ s.time → exec (.sleepExpiry c slot) s =
      .next (s.setWarp c slot { wp with wait := .none, waitOp := 0, stamp := s.laneNow c slot + 1 })) ∧
    (∀ ws, wp.wait = .cpyw ws → s.cpywReady c slot wp ws = true → exec (.promiseMissed c slot) s = .next (s.cpywEnds c slot ws)) ∧
    (∀ (g : Group) (vec : Nat) (x : Ctx) (w : Warp), w = wp.endWait (s.laneNow c slot + 1) → s.group? c wp.gslot = some g →
      w.receiver = some t → g.nextVec = some vec → s.ctx? wp.ctx = some x → x.uibase ≠ 0 → wp.irq = none → w.entering t = false →
      s.lowestWarp c wp.gslot = some slot → wp.wait.receive ≠ .notYet → (s.core c).laneRun.get? (slot % 32) ≠ some slot →
      (s.cluster (clusterOf c)).stopping wp.ctx = false →
      exec (.interruptDelivery c slot) s = .next ((s.setWarp c slot w).enterIrq c slot t vec x.uibase)) ∧
    (∀ (id : Nat) (a : Access), s.acc.get? id = some a →
      (∀ y, s.sleepers.find? (fun y => decide (y.access = id)) = some y → y.until_ ≤ s.time →
        ∀ zs, zs = s.sleepers.filter (fun y => decide (y.access ≠ id)) →
        exec (.waitvTimeout id) s = .next { (s.give a.result [2]) with acc := s.acc.del id, sleepers := zs }) ∧
      (s.portOf a = none → exec (.homeAccess id) s = .next (s.perform id)) ∧
      (∀ p, s.portOf a = some p → s.portGrants p a.ctx a.cost = true → exec (.homeAccess id) s = .next (s.perform id)) ∧
      (∀ p, s.portPick p = some id → exec (.l2PortGrant p) s = .next (s.perform id)) ∧
      exec (.tableWalk id) s = .next (s.walkAccess id) ∧
      (a.wblk = true → exec (.wblkWriteRelease id) s = .next (s.walkAccess id)) ∧
      (∀ page, a.pas = [] → exec (.pageResolved (.access id) page) s = .next ((s.pageIn a.ctx page).walkAccess id)) ∧
      (∀ va, a.pas = [] → (a.vas.find? fun va => s.absent a.core a.ctx va) = some va →
        exec (.lateFault (.access id)) s = .next (s.lateFault id a 4 1 va)) ∧
      (∀ l tag n, a.kind ≠ .sts → linesOf a.ranges = [l] → (s.dirOthers l).length < 7 → a.loc = some n → (s.core a.core).tagOf id = some tag → s.dir.get? l = none →
        exec (.holderNote id) s = .next { s with dir := s.dir.set l ⟨[], none, some (a.core, tag)⟩ })) ∧
    (∀ line, exec (.forcedPublish line) s = .next (s.publishLine line) ∧
      ((s.dir.get? line).isSome = true → ∀ u, u = (s.publishLine line).recallLine line →
        ((u.dir.get? line).bind (·.note) = none → exec (.directoryRecall line) s = .next { u with dir := u.dir.del line }) ∧
        ((u.dir.get? line).bind (·.note) ≠ none → exec (.directoryRecall line) s = .next u))) ∧
    (∀ id d, s.shootdowns.get? id = some d → s.invalidated id d.ranges = true → d.queue = none → d.slice = none →
      ∃ u, u = d.results.foldl (fun s i => s.give (some i) (toWords d.status 2))
          { (s.dropTlb d.ranges) with shootdowns := (s.dropTlb d.ranges).shootdowns.del id } ∧
        exec (.tlbShootdownComplete id) s = .next u)

/-- Global performance of a plain store of one part in memory, where no other core has seen a store of its own to the words, writes its data in little-endian order to its physical bytes, leaves every other byte of memory as it was, keeps memory in its one form, and ends the access; reading the bytes afterwards gives the data. A load that may be performed, with no line noted and no poison, gives its result the bytes of memory under its core's local stores, extended as LD says, and changes no byte; without such stores to them these are the bytes of memory. An atomic at its home gives its result the old value and writes there what its operation of 10 Table 4 gives of the old value and its operands. A result that lands puts its words into the rows it awaits, full. The operations' values, signed, unsigned, bitwise, wrapping, float and packed, are those of the table. (R54, R80, R163, R164, R166, R172, R242, R279) -/
def Obligations.StoresReachMemory : Prop :=
  (∀ (m : Memory) (a n v : Nat), m.wf = true → (m.writeNat a n v).wf = true ∧ (m.writeNat a n v).readNat a n = v % 256 ^ n ∧
    ∀ c, (c < a ∨ a + n ≤ c) → (m.writeNat a n v).get c = m.get c) ∧
  (∀ (s : State) (id pa : Nat) (a : Access), s.acc.get? id = some a → a.kind = .store → a.pas = [pa] → a.parts = 1 →
    regionOf pa = .ram → s.expanderLost pa = false → s.mem.wf = true → s.seenOf (some a.core) [(pa, a.size)] = [] →
    let t := s.globalOne id
    t.acc.get? id = none ∧ t.mem.wf = true ∧ t.mem.read pa a.size = toBytes a.b.toNat a.size ∧
    ∀ c, (c < pa ∨ pa + a.size ≤ c) → t.mem.get c = s.mem.get c) ∧
  (∀ (s : State) (id pa : Nat) (a : Access) (sx : Bool), s.acc.get? id = some a → a.kind = .load sx → a.pas = [pa] → a.parts = 1 →
    regionOf pa = .ram → s.gate id a = true → (∀ x ∈ s.sleepers, x.access ≠ id) → s.foreign a = false → a.gambit = false →
    s.reserved (a.ranges ++ s.boundRanges a) = false → (∀ l d, s.dir.get? l = some d → d.note = none) →
    (a.acq = false ∨ a.scope < 3) → s.poisoned pa a.size = false → s.expanderLost pa = false →
    (s.perform id).mem = s.mem ∧ (s.perform id).acc.get? id = none ∧
    (∀ r res, a.result = some r → s.results.get? r = some res → (s.perform id).results.get? r = some { res with
      words := loadWords a.size sx (ofBytes (s.coreRead a.core pa a.size)), ready := true }) ∧
    ((∀ e ∈ s.acc, e.2.core = a.core → e.2.kind = .store → e.2.loc.isSome = true → ∀ q ∈ e.2.pas,
      overlap q (e.2.size * e.2.parts) pa a.size = false) → s.coreRead a.core pa a.size = s.mem.read pa a.size)) ∧
  (∀ (s : State) (id pa n old : Nat) (a : Access) (op : Nat) (wide : Bool), s.acc.get? id = some a → a.kind = .atomic op wide →
    a.pas = [pa] → regionOf pa = .ram → a.ver = false → s.poisoned pa n = false → s.expanderLost pa = false →
    n = (if wide then 8 else 4) → old = s.mem.readNat pa n →
    (s.homeOp id a).mem = s.mem.writeNat pa n (atomicOn op (8 * n) old (a.b.toNat % 256 ^ n) (a.c.toNat % 256 ^ n)) ∧
    (s.homeOp id a).acc.get? id = none ∧
    ∀ r res, a.result = some r → s.results.get? r = some res → (s.homeOp id a).results.get? r = some { res with
      words := toWords old (n / 4), ready := true }) ∧
  (∀ (s : State) (id i n : Nat) (r : Result) (wp : Warp) (th : Thread), s.results.get? id = some r →
    s.warp? r.core r.slot = some wp → wp.uid = r.uid → wp.thread? r.thread = some th → th.alive = true →
    r.lands = (rangeFrom (th.fp + i) n).map Land.row → r.words.length = n → i + n ≤ th.s → th.lo ≤ th.fp + i → n ≤ th.cells.length →
    ∃ w' th', (s.landResult id).warp? r.core r.slot = some w' ∧ w'.thread? r.thread = some th' ∧ (s.landResult id).mem = s.mem ∧
      (∀ k v, k < n → r.words[k]? = some v → th'.cell (th.fp + i + k) = ⟨v, true, .none⟩) ∧
      ∀ row, row < th.cells.length → (∀ k, k < n → (th.fp + i + k) % th.cells.length ≠ row) → th'.cell row = th.cell row) ∧
  (∀ (w old b c : Nat), (w = 32 ∨ w = 64) → old < 2 ^ w → b < 2 ^ w →
    atomicOn 0 w old b c = (old + b) % 2 ^ w ∧ atomicOn 9 w old b c = b ∧ atomicOn 10 w old b c = (if old = c then b else old) ∧
    atomicOn 4 w old b c = min old b ∧ atomicOn 5 w old b c = max old b ∧ atomicOn 6 w old b c = old &&& b ∧
    atomicOn 7 w old b c = old ||| b ∧ atomicOn 8 w old b c = old ^^^ b ∧
    atomicOn 2 w old b c = (if (BitVec.ofNat w b).toInt < (BitVec.ofNat w old).toInt then b else old) ∧
    atomicOn 3 w old b c = (if (BitVec.ofNat w old).toInt < (BitVec.ofNat w b).toInt then b else old) ∧
    atomicOn 11 w old b c = (if b ≤ old then 0 else old + 1) ∧
    atomicOn 12 w old b c = (if old = 0 ∨ b < old then b else old - 1) ∧
    (w = 32 → atomicOn 1 w old b c = (Fmt.f32.add .rne old b).v ∧
      ∀ f op, (f, op) = (Fmt.f16, 13) ∨ (f, op) = (Fmt.bf16, 14) → atomicOn op w old b c =
        (f.add .rne (old % 2 ^ 16) (b % 2 ^ 16)).v + (f.add .rne (old / 2 ^ 16 % 2 ^ 16) (b / 2 ^ 16 % 2 ^ 16)).v * 2 ^ 16))

/-- A startable MMA ends with the first failure of its descriptors, A's before B's, or with 5 where OOB = 1 and a range leaves the tensor, else starts with both as read; another operation starts. A wanted line is fetched from the weight store or, through the cluster's TLBs, at its home, dirty and noted copies first, and a panel's line in a cache way is pinned; or it ends the operation (a region not named 3, translation 6, poison 7). Once what may start has started, a free engine grants the operation picked; the end of an MMA's pass writes the C tile its panels give, raises OVF where an accumulation overflowed, and ends the step, MXCVT and MXEW likewise; an overflow under policy 3 ends it with 8, a poisoned tile with 7; a move zeroes, loads or stores one line. A copy reads a later line ahead or moves the next one, which is free, counts it, and ends after its last or with its failure. A collective sends its next source line to the members it goes to, writes one destination line as the reduction of the members' lines, tells the others with its last, and ends with 0 once all is sent and written and every other has told so; with a lost member it ends with 14, at no stripe set with 6. A commit of one home writes its words and succeeds, or fails; one of several reserves its words at each home, and when all have answered all write or none does, and all release. The start of a refresh window changes nothing; at its end, where no copy is queued on the die, the fetches that waited at the bank are made. The model's readings: which line a copy moves and how a member's data is handed in (log entry 24), the order of checks (34, 99), the end of a window as the event (38), a pass dropped with its operation (91), the start of what is due (95). (R183, R207, R212, R213, R216, R220, R229, R230, R231, R250, R251, R252, R266, R358) -/
def Obligations.EngineEventsComplete : Prop :=
  ∀ (s : State),
    (∀ (cl id : Nat) (o : EngOp), (s.cluster cl).ops.get? id = some o →
      ((s.cluster cl).startable o = true →
        (∀ b da db K, o.kind = .mma b → da = (if b.ak then some (s.descOf cl o.ctx b.a b.fmtA b.acol) else none) →
          db = (if b.bk then some (s.descOf cl o.ctx b.b b.fmtB b.bcol) else none) → K = passDepth b.fmtA b.fmtB →
          (∀ e, da.bind (·.2) = some e → exec (.operationStart cl id) s = .next (s.opEnd cl id (some e))) ∧
          (∀ e, da.bind (·.2) = none → db.bind (·.2) = some e → exec (.operationStart cl id) s = .next (s.opEnd cl id (some e))) ∧
          (∀ out, da.bind (·.2) = none → db.bind (·.2) = none →
            out = (oobFails (da.map (·.1)) (b.arow + 64 * (b.pm + 1)) (b.acol + K * (b.pk + 1)) ||
              oobFails (db.map (·.1)) (b.brow + fmtCols b.fmtB * (b.pn + 1)) (b.bcol + K * (b.pk + 1))) →
            (out = true → exec (.operationStart cl id) s = .next (s.opEnd cl id (some 5))) ∧
            (out = false → exec (.operationStart cl id) s = .next (s.setCluster cl { (s.cluster cl) with
              ops := (s.cluster cl).ops.set id { o with started := true, descA := da.map (·.1), descB := db.map (·.1) } })))) ∧
        ((∀ b, o.kind ≠ .mma b) → exec (.operationStart cl id) s = .next (s.setCluster cl { (s.cluster cl) with
          ops := (s.cluster cl).ops.set id { o with started := true } }))) ∧
      (∀ line, o.started = true → (s.cluster cl).stopping o.ctx = false → s.forked o = true → o.wanted.contains line = true →
        o.fetched.has line = false →
        (∀ off, off = 128 * (line - 2 ^ 60) → 2 ^ 60 ≤ line →
          (s.wsNamed o.launch (off / 2 ^ 20) = false → exec (.tileFetchLine cl id line) s = .next (s.opEnd cl id (some 3))) ∧
          (s.wsNamed o.launch (off / 2 ^ 20) = true → wsRefreshing (dieOfCluster cl) (wsBank off) s.time = true →
            exec (.tileFetchLine cl id line) s = .next s) ∧
          (s.wsNamed o.launch (off / 2 ^ 20) = true → wsRefreshing (dieOfCluster cl) (wsBank off) s.time = false →
            (((s.die (dieOfCluster cl)).wsPoison.contains (off / 128)) = true →
              exec (.tileFetchLine cl id line) s = .next (s.opEnd cl id (some 7))) ∧
            (((s.die (dieOfCluster cl)).wsPoison.contains (off / 128)) = false →
              exec (.tileFetchLine cl id line) s = .next (s.setCluster cl { (s.cluster cl) with
                ops := (s.cluster cl).ops.set id { o with fetched := o.fetched.set line (off / 128) } })))) ∧
        (∀ r : State, line < 2 ^ 60 → r = (s.through o.core o.ctx (128 * line)).2 →
          (r.engXlat o.core o.ctx (128 * line) false = .bad →
            exec (.tileFetchLine cl id line) s = .next (r.opEnd cl id (some 6))) ∧
          (∀ (pa : Nat) (ver : Bool) (u v : State) (ps : List Nat), r.engXlat o.core o.ctx (128 * line) false = .ok pa ver →
            (o.pinned line && (r.l2slice (channelOf pa)).pinsFull (pa / 128)) = false →
            r.reserved ((pa, 128) :: r.publishRanges none [pa / 128]) = false → regionOf pa = .ram →
            u = ((r.publishFor none [pa / 128]).recallDirty (pa / 128)).touchL2 pa o.ctx false →
            ((o.pinned line = true ∧ u.pin (pa / 128) = some v ∧ ps = line :: o.pins) ∨
              ((o.pinned line = false ∨ u.pin (pa / 128) = none) ∧ v = u ∧ ps = o.pins)) →
            ((u.poisoned pa 128 || u.expanderLost pa) = true →
              exec (.tileFetchLine cl id line) s = .next (u.opEnd cl id (some 7))) ∧
            ((u.poisoned pa 128 || u.expanderLost pa) = false →
              exec (.tileFetchLine cl id line) s = .next (v.setCluster cl { (v.cluster cl) with
                ops := (v.cluster cl).ops.set id { o with fetched := o.fetched.set line (pa / 128), pins := ps } }))))) ∧
      ((s.cluster cl).busy = some id →
        (o.readsBadTile (s.cluster cl) = true → exec (.passComplete cl) s = .next (s.opEnd cl id (some 7))) ∧
        (o.readsBadTile (s.cluster cl) = false →
          (∀ (b : MmaBlock) (lines : Map (List Byte)) (u : State) (i j q at_ : Nat) (bs : List Byte) (ovf : Bool), o.kind = .mma b →
            s.readLines cl o.fetched (o.passLines o.next) = (lines, false, u) → b.passAt o.next = (i, j, q) →
            at_ = 16384 * (b.c + i * (b.pn + 1) + j) →
            passTile b (o.panels (s.cluster cl) b lines).1 (o.panels (s.cluster cl) b lines).2
              ((s.cluster cl).tileRead o.tbase at_ 16384) (!b.acc && decide (q = 0)) = some (bs, ovf) →
            ∀ v, v = u.setCluster cl ((u.cluster cl).tileWrite o.tbase at_ bs) →
            exec (.passComplete cl) s = .next ((if ovf then v.modDep o.core o.gslot o.group o.sset fun d => { d with ovf := true }
              else v).stepDone cl id o)) ∧
          (∀ d a code doff ov n, o.kind = .mxcvt d a code doff ov → n = (if bits code 4 2 = 3 then 8 else 4) →
            ∀ r, r = cvtTile code ov ((s.cluster cl).tileRead o.tbase (16384 * a) (16384 / n * n)) →
            (∀ bs, r = some bs → exec (.passComplete cl) s =
              .next ((s.setCluster cl ((s.cluster cl).tileWrite o.tbase (16384 * d + 128 * doff) bs)).stepDone cl id o)) ∧
            (r = none → exec (.passComplete cl) s = .next (s.opEnd cl id (some 8)))) ∧
          (∀ d a b ty op ov, o.kind = .mxew d a b ty op ov → ∀ r, r = ewTile ty op ov ((s.cluster cl).tileRead o.tbase (16384 * a) 16384)
              ((s.cluster cl).tileRead o.tbase (16384 * b) 16384) →
            (∀ bs, r = some bs →
              exec (.passComplete cl) s = .next ((s.setCluster cl ((s.cluster cl).tileWrite o.tbase (16384 * d) bs)).stepDone cl id o)) ∧
            (r = none → exec (.passComplete cl) s = .next (s.opEnd cl id (some 8))))))) ∧
    (∀ (cl id : Nat) (o : EngOp) (u : State), u = s.startDue cl →
      ((u.cluster cl).busy = none → u.pickOp ((u.cluster cl).ops.filter fun e => u.passReady cl e.2) = some (id, o) →
        exec (.passGrant cl) s = .next (u.setCluster cl { (u.cluster cl) with busy := some id })) ∧
      (u.pickOp ((u.cluster cl).ops.filter fun e => u.moveReady cl e.2) = some (id, o) →
        (∀ d n, o.kind = .mxz d n → exec (.tileLineMove cl) s = .next ((u.setCluster cl ((u.cluster cl).tileWrite o.tbase
          (16384 * d + 128 * o.next) (List.replicate 128 0))).stepDone cl id o)) ∧
        (∀ d ea n k bs v, o.kind = .mxld d ea n → u.readLines cl o.fetched (o.passLines o.next) = ([(k, bs)], false, v) →
          exec (.tileLineMove cl) s = .next ((v.setCluster cl ((v.cluster cl).tileWrite o.tbase
            (16384 * d + 128 * o.next) bs)).stepDone cl id o)) ∧
        (∀ d ea n, o.kind = .mxst d ea n →
          ((u.cluster cl).tileBad o.tbase (16384 * d + 128 * o.next) 128 = true →
            exec (.tileLineMove cl) s = .next (u.opEnd cl id (some 7))) ∧
          (∀ pa r v, (u.cluster cl).tileBad o.tbase (16384 * d + 128 * o.next) 128 = false →
            r = (u.through o.core o.ctx (ea + 128 * o.next)).2 → r.engXlat o.core o.ctx (ea + 128 * o.next) true = .ok pa false →
            r.expanderLost pa = false → (((((r.settleSeen none [(pa, 128)]).recallLine (pa / 128)).touchL2 pa o.ctx true).clearPoison
              pa).physWrite pa ((u.cluster cl).tileRead o.tbase (16384 * d + 128 * o.next) 128)) = (v, false) →
            exec (.tileLineMove cl) s = .next (v.stepDone cl id o))))) ∧
    (∀ (d e : Nat) (c : Copy) (rest : List Copy), (s.copyEngine d e).queue = c :: rest →
      (∀ st, c.status = some st → exec (.copyLine d e) s = .next (s.copyEnds d e c st)) ∧
      (∀ early skip u0 u ahead line, c.status = none → s.takeFree 1 = (early, u0) → u0.takeFree 20 = (skip, u) →
        c.after_.all u.doneG = true → ahead = u.copyAhead d e (c.moved + 1 + skip) c rest →
        line = (match c.ahead.get? c.moved with | some bs => LineRead.ok bs u | none => u.copySource d c c.moved) →
        (∀ st, line = .fail st → exec (.copyLine d e) s = .next (if early = 1 then ahead else u.copyEnds d e c st)) ∧
        (∀ bs v, line = .ok bs v →
          (∀ w st, v.copyDest d e c bs = .fail w st →
            exec (.copyLine d e) s = .next (if early = 1 then ahead else w.copyEnds d e c st)) ∧
          (∀ w c' w', v.copyDest d e c bs = .ok w →
            c' = { c with moved := c.moved + 1, started := true, ahead := c.ahead.del c.moved } →
            w' = w.setCopyEngine d e { (w.copyEngine d e) with queue := c' :: rest } →
            exec (.copyLine d e) s = .next (if early = 1 then ahead
              else if c'.moved ≥ c'.lines then w'.copyEnds d e c' 0 else w'))))) ∧
    (∀ (id : Nat) (k : Coll), s.colls.get? id = some k →
      (∀ (data : List Byte) (fin : List Nat) (j : Coll) (r : State), j = { k with finished := (k.finished ++ fin).eraseDups } →
        r = { s with colls := s.colls.set id j } →
        (∀ st, k.status = some st → exec (.collectiveExchange id ⟨data, fin⟩) s = .next (r.collEnds id j st)) ∧
        (∀ e u, k.status = none → k.saved = false → k.after_.all r.doneG = true →
          r.through (4 * k.cluster) k.ctx (k.dst + 128 * min k.moved (k.total (r.members j) - 1)) = (some e, u) →
          (e.stripe = 0 → exec (.collectiveExchange id ⟨data, fin⟩) s = .next (u.collEnds id j 6)) ∧
          (∀ (ps : List DWord) (h n self : Nat) (others : List Nat), e.stripe ≠ 0 → ps = (u.hdie.stripes.get? e.stripe).getD [] →
            h = (ps.getD 0 0).toNat → bit h 0 = true → n = bits h 8 5 → self = bits h 16 4 →
            others = (List.range n).filter (· ≠ self) →
            ((∃ m ∈ others, u.peerAlive (peerOf ps m) = false) →
              exec (.collectiveExchange id ⟨data, fin⟩) s = .next (u.collEnds id j 14)) ∧
            ((∀ m ∈ others, u.peerAlive (peerOf ps m) = true) → k.dst + 128 * k.total n ≤ 2 ^ 57 →
              k.src + 128 * (if k.kind = 2 then k.lines * n else k.lines) ≤ 2 ^ 57 →
              (k.total n ≤ k.moved → k.sends n ≤ k.sent →
                exec (.collectiveExchange id ⟨data, fin⟩) s = .next (if others.all j.finished.contains then u.collEnds id j 0 else u)) ∧
              (∀ l ms bs v x, data = [] → k.sent < k.sends n → k.sendAt self n k.sent = (l, ms) →
                u.readLine (4 * k.cluster) k.ctx (k.src + 128 * l) = .ok bs v →
                x = ms.foldl (fun (s : State) m => s.send (.peerBlock (peerOf ps m) k.collid l bs)) v →
                ∀ j', j' = { j with sent := k.sent + 1, ahead := if k.kind = 2 then k.ahead else k.ahead.set l bs } →
                exec (.collectiveExchange id ⟨data, fin⟩) s = .next { x with colls := x.colls.set id j' }) ∧
              (∀ l bs v w j' x, k.kind ≠ 1 → k.moved < k.total n → data ≠ [] → data.length = 128 * (n - 1) →
                l = (k.wants self k.moved).1 → u.collOwn j l = .ok bs v →
                v.writeLine (4 * k.cluster) k.ctx (k.dst + 128 * k.moved) collActor
                  (collReduce k.rop k.etype (memberLines n self bs data)) = .ok w →
                j' = { j with moved := k.moved + 1, stripe := e.stripe, ahead := k.ahead.del l } →
                x = { w with colls := w.colls.set id j' } →
                exec (.collectiveExchange id ⟨data, fin⟩) s = .next (if k.moved + 1 < k.total n then x
                  else (others.map (peerOf ps)).foldl (fun (s : State) p => s.send (.peerDone p k.collid)) x))))))) ∧
    (∀ (id : Nat) (k : Commit) (g : Gambit), s.commits.get? id = some k → g = s.commitGambit k →
      (∀ home ws fail v, k.homes.contains home = true → ws = g.words.filter (fun w => decide (channelOf (8 * w) = home)) →
        (fail, v) = (if s.commitBlocked id k ws then (some 4, s)
          else (s.beforeValidate k ws).validate id home (s.commitCtx k) (decide ((homesOf g.words).length = 1)) g) →
        ((homesOf g.words).length = 1 →
          (∀ code, fail = some code → exec (.gambitValidate id home) s = .next (v.commitEnds id k code)) ∧
          (fail = none → exec (.gambitValidate id home) s = .next ((v.commitWords (v.commitCtx k) (actorOf k.core k.slot k.thread)
            home g).commitEnds id k 1))) ∧
        ((homesOf g.words).length ≠ 1 → ∀ rest, rest = k.homes.filter (· ≠ home) →
          (∀ code k', fail = some code → k' = { k with homes := rest, failed := some (k.failed.getD code) } →
            exec (.gambitValidate id home) s = .next { v with commits := v.commits.set id k' }) ∧
          (∀ k' w, fail = none → k' = { k with homes := rest, yes := k.yes ++ [home] } →
            w = v.setL2 home { (v.l2slice home) with reserved := ws.foldl (fun m w => m.set w id) (v.l2slice home).reserved } →
            exec (.gambitValidate id home) s = .next { w with commits := w.commits.set id k' }))) ∧
      (k.homes = [] →
        (∀ code, k.failed = some code → exec (.gambitCommit id) s =
          .next ((k.yes.foldl (fun s h => s.unreserve id h) s).commitEnds id k code)) ∧
        (k.failed = none → exec (.gambitCommit id) s = .next ((k.yes.foldl (fun s h => s.unreserve id h)
          (k.yes.foldl (fun u h => u.commitWords (u.commitCtx k) (actorOf k.core k.slot k.thread) h g) s)).commitEnds
            id k 1)))) ∧
    (∀ d b, exec (.bankRefreshStart d b) s = .next s) ∧
    (∀ d b u, wsRefreshing d b s.time = false →
      u = ((rangeFrom (40 * d) 40).flatMap fun cl => (s.cluster cl).ops.flatMap fun e =>
        (e.2.wanted.filter fun l => decide (2 ^ 60 ≤ l) && decide (wsBank (128 * (l - 2 ^ 60)) = b)).map fun l => (cl, e.1, l)).foldl
          (fun (s : State) x => s.fetchLine x.1 x.2.1 x.2.2) s →
      (∀ e, e < 16 → (u.copyEngine d e).queue = []) → exec (.bankRefreshEnd d b) s = .next u)

/-- With a valid, running queue whose head card is whole, has the opcode of the step and the fields that its layout gives, no counter of it bad and the counter it waits for at 0: NOP completes; SETC sets its counter; WRITE writes its 8 bytes, or fails with FCODE 4 above 2^57; INTR raises its vector; LAUNCH, whose header, fit and regions pass and whose area fits, is admitted and leaves its slots; an admin card acts as its CTX instruction executed for the queue's context, and completes when what it asks for has ended, a refusal standing in the error record's FCODE. At the NOP step a NOP whose counter is not at 0 stays, one with an illegal field is rejected with status 2, and a card of an unlisted opcode with 3. The order of the checks at admission (log entry 61) and the raiser of a card's interrupt (62) are the model's choices. (R300, R301, R304, R327, R328) -/
def Obligations.CardsComplete : Prop :=
  ∀ (s u : State) (q x slots : Nat) (d : Queue), s.queues.get? q = some d → s.headCard (q / 64) d = .ok x slots u →
    (cardListed (bits x 0 8) = false → exec (.cardNop q) s = .next (u.rejectCard q d (some x) slots 3 false)) ∧
    (cardListed (bits x 0 8) = true →
      (bits x 0 8 = 0 → cardOk x (u.counterLimit d.ctx) = false →
        exec (.cardNop q) s = .next (u.rejectCard q d (some x) slots 2 false)) ∧
      (cardOk x (u.counterLimit d.ctx) = true → u.counterBad d.ctx q (bits x 32 12) = false →
        (bits x 0 8 ≠ 2 → u.counterBad d.ctx q (bits x 44 12) = false) →
        (bits x 0 8 = 0 → bits x 32 12 ≠ 0 → (u.slice (q / 64)).dc.getD (u.counterOf d.ctx (bits x 32 12)) 0 ≠ 0 →
          exec (.cardNop q) s = .next u) ∧
        ((bits x 32 12 = 0 ∨ (u.slice (q / 64)).dc.getD (u.counterOf d.ctx (bits x 32 12)) 0 = 0) →
          (bits x 0 8 = 0 → exec (.cardNop q) s = .next (u.cardDone q d x slots)) ∧
          (bits x 0 8 = 2 → exec (.cardSetc q) s =
            .next ((u.setCounter d.ctx q (bits x 44 12) (bits x 128 16)).cardDone q d x slots)) ∧
          (bits x 0 8 = 3 →
            (∀ v, bits x 128 64 < 2 ^ 57 → u.devWriteOver d.ctx (bits x 128 64) (sliceActor (q / 64)) (toBytes (bits x 192 64) 8) = .done v →
              exec (.cardWrite q) s = .next (v.cardDone q d x slots)) ∧
            (∀ addr v, 2 ^ 57 ≤ bits x 128 64 → u.errorRecord q d (some x) d.head 1 4 false = some (addr, v) →
              exec (.cardWrite q) s = .next (v.cardDone q d x slots))) ∧
          (bits x 0 8 = 4 → exec (.cardIntr q) s = .next (((u.raiseVec d.ctx (bits x 128 64) (bits x 256 5) (bits x 192 32)
            (if d.host.contains d.head then 0xFFFF else d.ctx)).getD u).cardDone q d x slots)) ∧
          (bits x 0 8 = 1 →
            (∀ h v l, u.launchCheck (q / 64) d.ctx x = .ok h v → l = launchOf d.ctx q d.head x h v.time →
              v.areaFits d.ctx (l.phx * l.grp * l.wrp) = true → exec (.cardLaunch q) s = .next ((v.launch l).2.consume q 1)) ∧
            (∀ st, u.launchCheck (q / 64) d.ctx x = .reject st → exec (.cardLaunch q) s = .next (u.rejectCard q d (some x) slots st false))) ∧
          (∀ (i : Instr) (k a w2 block : Nat) (u' : State) (out : CtxOut), bits x 0 8 = 0x10 + k →
            (i, k) ∈ [(.cardCtxnew q, 0), (.cardCtxgrant q, 1), (.cardCtxrevoke q, 2), (.cardCtxmap q, 3), (.cardCtxunmap q, 4),
              (.cardCtxrun q, 5), (.cardCtxstop q, 6), (.cardCtxq q, 7), (.cardCtxqattach q, 8)] →
            u.shootdowns.find? (fun e => decide (e.2.queue = some q)) = none → a = bits x 512 64 → w2 = bits x 704 32 →
            a % ctxAlign k a w2 = 0 →
            ((ctxBlock k a w2 = 0 ∧ block = 0 ∧ u' = u) ∨
              (ctxBlock k a w2 ≠ 0 ∧ ∃ bs, u.homeRead (q / 64) d.ctx a (ctxBlock k a w2) = .ok bs u' ∧ block = ofBytes bs)) →
            out = u'.ctxDo k d.ctx a (bits x 576 64) (bits x 640 64) w2 block → out.wait = false →
            (∀ addr v, out.status ≠ 0 → out.s.errorRecord q d (some x) d.head 1 out.status false = some (addr, v) →
              exec i s = .next (v.cardDone q d x slots)) ∧
            (∀ v, out.status = 0 → ((out.wr = none ∧ v = out.s) ∨
                ∃ va bs, out.wr = some (va, bs) ∧ out.s.devWrite none d.ctx va (sliceActor (q / 64)) bs = .done v) →
              (out.stop = none → out.ranges = none → exec i s = .next (v.cardDone q d x slots)) ∧
              (∀ child, out.stop = some child → v.allSaved child = true → exec i s = .next (v.cardDone q d x slots)) ∧
              (∀ rs, out.stop = none → out.ranges = some rs →
                exec i s = .next (v.startShootdown ⟨rs, [], 0, some q, none⟩)))))))

/-- A launch whose work is all done writes its record, at CREC or else at ERRREC, lets its regions and counter go, signals its vector and tells the phases of its queue. The oldest waiting launch that some cluster of its claim can hold gets its next phalanx placed on the first such cluster; a castling phalanx's card is read while its operations run, and its successor then starts in its place or is rejected; a gather timeout forms the wave that is due, and waves are admitted; a phase whose destinations all stand at 0 is complete, and its waiting PWAITs have their result. At a tempo boundary the participant of the smallest pass enters an empty cluster, and another holder is asked to stop; a cluster being saved decides nothing. A quiescent stopping context is saved and the next enters; a holder with something saved is restored: phalanxes, what they left, copies. A page response of the current generation is applied and a stale one counted. KCMD reads, writes or invalidates the entry that KSEL selects, answering 0, 2 where there is none and 3 where another slice owns it; of the TLB, the entries of the range go, and KCMD answers 1 until the invalidation ends; KEVT pops. What counts as work (log entry 45), when a save is late (55), how a successor is placed (63), the registers' corner cases (69), when waves are admitted (90) and where arrivals are counted (91) are the model's choices. (R299, R302, R303, R306, R308, R309, R312, R334, R335) -/
def Obligations.SliceEventsComplete : Prop :=
  ∀ (s : State),
    (∀ (id status : Nat) (l : Launch) (u v : State) (d : Queue), s.launches.get? id = some l → s.launchDone id l = true →
      status = (if l.depPoison then 7 else if l.failed.isEmpty then 0 else 1) →
      d = { s.queues.getD l.queue Queue.blank with ctx := l.ctx } →
      ((l.crec = 0 ∧ u = s) ∨ (l.crec ≠ 0 ∧ ∃ addr, s.recordAt l.queue d l.crec
        (launchRecord status l.fcode l.failed.length s.time l.slot l.queue) false = some (addr, u))) →
      v = (u.nameRegions l.ctx l.wslo l.wscnt false).decCounter l.ctx l.queue l.sigc →
      ∀ w, w = (if l.irq then v.signal (v.ownerFn l.ctx) l.vec else v).phaseArrive (fun _ _ => true)
        (fun w => destKind w == 3 && decide (destId w = l.queue)) (status ≠ 0) →
      exec (.launchCompletion id) s = .next { w with launches := w.launches.del id }) ∧
    (∀ (e : Nat × Launch) (pre rest : List (Nat × Launch)) (c : Ctx) (k : Nat) (js ks : List Nat) (u : State),
      s.waitingLaunches = pre ++ e :: rest → (∀ x ∈ pre, s.dispatchOn x = none) → s.ctx? e.2.ctx = some c →
      c.claim.clusters = js ++ k :: ks →
      (∀ j ∈ js, s.mayPlace j e.2.ctx = false ∨ (s.programQuota e.2.ctx j).placePhalanx j e.1 e.2 = none) →
      s.mayPlace k e.2.ctx = true → (s.programQuota e.2.ctx k).placePhalanx k e.1 e.2 = some u →
      exec .phalanxDispatch s = .next (u.takeCluster k e.2.ctx)) ∧
    (∀ (cl e : Nat) (ph : Phalanx) (old : Launch), (s.cluster cl).phxs.get? e = some ph → s.launches.get? ph.launch = some old →
      ph.kept = true → (s.cluster cl).stopping ph.ctx = false →
      (∀ bs u, s.keptBusy cl ph = true → ph.card = none → s.readCard? ph old = .ok bs u → exec (.successorStart cl e) s =
        .next (u.setCluster cl { (u.cluster cl) with phxs := (u.cluster cl).phxs.set e { ph with card := some bs } })) ∧
      (s.keptBusy cl ph = false →
      (∀ st x, s.castle ph old = .reject st x → exec (.successorStart cl e) s = .next (s.castleRejected cl e ph old st x false)) ∧
      (∀ u l ps id v w ph', s.castle ph old = .go u l ps → u.launch { l with placed := 1 } = (id, v) → w = v.phalanxDone ph.launch →
        ph' = { ph with live := l.grp * l.wrp, arr := 0, gen := false, castle := 0, launch := id, kept := false, card := none } →
        exec (.successorStart cl e) s = .next ((w.setCluster cl { (w.cluster cl) with phxs := (w.cluster cl).phxs.set e ph' }).putGroups
          l id 0 ph.part e true ps)))) ∧
    (∀ (slice queue : Nat) (t : Task), queue / 64 = slice →
      s.dueTask queue = some t →
      exec (.gatherTimeout slice queue) s = .next ((s.formWave queue t.ctx t.hdr).admitFormed queue)) ∧
    (∀ ctx hdr ph, s.phaseOf ctx hdr = some ph →
      ((∃ d ∈ ph.dests, d.2 ≠ 0) → exec (.phaseComplete ctx hdr) s = .next s) ∧
      ((∀ d ∈ ph.dests, d.2 = 0) → ∃ t, exec (.phaseComplete ctx hdr) s = .next t ∧
        t.phaseOf ctx hdr = some { ph with complete := true } ∧ (∀ e ∈ s.phases, (e.1 ≠ ctx ∨ e.2.hdr ≠ hdr) → e ∈ t.phases) ∧
        (∀ key w ws, (key, w) ∈ s.warps → w.ctx = ctx → w.wait = .pwait hdr ph.opened none ws →
          (key, { w with wait := .pwait hdr ph.opened (some ph.verdict) ws }) ∈ t.warps))) ∧
    (∀ (k x : Nat) (b : DWord) (u : State) (ids going : List Nat) (passes : Map Nat), b = s.boundaryOf k → (s.cluster k).boundary < b →
      ((s.cluster k).stop.isSome = true → exec (.tempoBoundary k) s = .next (s.setCluster k { (s.cluster k) with boundary := b })) ∧
      ((s.cluster k).stop = none → (s.cluster k).gangWait = none → ids = (s.participants k).map (·.1) →
        going = (ids.filter fun y => (s.cluster k).present.contains y) →
        passes = ids.foldl (fun (m : Map Nat) y => if going.contains y then m else m.set y ((s.cluster k).enterPass y going))
          (s.cluster k).passes →
        winnerOf passes ids = some x →
        u = s.setCluster k { (s.cluster k) with
          boundary := b, present := ids, passes := passes.set x (passes.getD x 0 + strideOf (s.ticketsOf k x)) } →
        ((s.cluster k).holds = none → exec (.tempoBoundary k) s = .next ((u.enterCluster k (some x)).gangCheck x k)) ∧
        (∀ h v, (s.cluster k).holds = some h → (h = x → exec (.tempoBoundary k) s = .next u) ∧
          (h ≠ x → v = u.requestStop k h (some x) →
            exec (.tempoBoundary k) s = .next (v.setCluster k { (v.cluster k) with won := b }))))) ∧
    (∀ (ctx die k : Nat) (ks : List Nat), s.isGang ctx = true →
      ((s.clustersOf ctx).filter fun k => dieOfCluster k = die && s.lateCluster ctx k) = k :: ks →
      ∃ t : State, exec (.lateDieDeadline ctx die) s = .next (t.count (cLateSave + 32 * die) 1) ∧ t.mem = s.mem ∧ t.warps = s.warps) ∧
    (∀ (k x : Nat) (u : State), (s.cluster k).stop = some (x, none) → u = s.settleStop k x → u.quiescent k x = true →
      u.time.toNat ≤ (u.cluster k).stopAt.toNat + saveBudget →
      exec (.contextSave k) s = .next ((u.saveAll k x).enterCluster k none)) ∧
    (∀ (k x : Nat) (svs : List Saved) (rest : List SavedRest) (u : State), (s.cluster k).holds = some x → (s.cluster k).stop = none →
      s.savedIn k x = true → s.runnable x = true → (s.hdie.planst = 3 → s.hdie.relocked = true) →
      svs = (s.cluster k).saved.filter (fun v => decide (v.phx.ctx = x)) →
      rest = (s.cluster k).rest.filter (fun v => decide (v.ctx = x)) →
      u = rest.foldl (fun (s : State) v => s.restoreRest k v) (svs.foldl (fun (s : State) v => s.restorePhalanx k v)
        (s.setCluster k { (s.cluster k) with saved := (s.cluster k).saved.filter fun v => decide (v.phx.ctx ≠ x),
                                             rest := (s.cluster k).rest.filter fun v => decide (v.ctx ≠ x) })) →
      exec (.contextRestore k) s = .next ((u.restoreCopies k x).gangCheck x k).planDone) ∧
    (∀ ctx gen page, (∀ c, s.ctx? ctx = some c → (c.gen = gen → exec (.pageRequestResponse ctx gen page) s = .next (s.pageIn ctx page)) ∧
        (c.gen ≠ gen → exec (.pageRequestResponse ctx gen page) s = .next (s.count cStalePrr 1))) ∧
      (s.ctx? ctx = none → exec (.pageRequestResponse ctx gen page) s = .next (s.count cStalePrr 1))) ∧
    (∀ (i : Nat) (ksel : DWord) (kdat : BitVec 512) (u v : State), s.kIdle i = true → u = s.kStart i ksel →
      v = u.setSlice i { (u.slice i) with kdat := kdat } →
      (u.kImage (kEntry ksel.toNat) = none → exec (.kcmdRead i ksel) s = .next (u.kAnswer i 2)) ∧
      (∀ x, u.kImage (kEntry ksel.toNat) = some x → exec (.kcmdRead i ksel) s =
        .next ((u.setSlice i { (u.slice i) with kdat := BitVec.ofNat 512 x }).kAnswer i 0)) ∧
      (∀ o, v.kOwner (kEntry ksel.toNat) = some o → o ≠ i → exec (.kcmdWrite i ksel kdat) s = .next (v.kAnswer i 3)) ∧
      ((∀ o, v.kOwner (kEntry ksel.toNat) = some o → o = i) →
        (∀ w, v.kWrite kdat.toNat (kEntry ksel.toNat) = some w → exec (.kcmdWrite i ksel kdat) s = .next (w.kAnswer i 0)) ∧
        (v.kWrite kdat.toNat (kEntry ksel.toNat) = none → exec (.kcmdWrite i ksel kdat) s = .next (v.kAnswer i 2)) ∧
        (∀ x w, v.kImage (kEntry ksel.toNat) = some x → v.kWrite (setBits x 0 1 0) (kEntry ksel.toNat) = some w →
          exec (.kcmdInvalidate i ksel kdat none) s = .next (w.kAnswer i 0))) ∧
      (∀ rs, kEntry ksel.toNat = .tlb → rs = [(bits kdat.toNat 0 64, bits kdat.toNat 64 64, bits kdat.toNat 128 64)] →
        exec (.kcmdInvalidate i ksel kdat none) s = .next (((v.kAnswer i 1).dropTlb rs).startShootdown ⟨rs, [], 0, none, some i⟩))) ∧
    (∀ (i : Nat) (e : DWord) (rest : List DWord) (u : State), (s.slice i).kevt = e :: rest →
      u = s.setSlice i { (s.slice i) with kevt := rest } →
      (bits e.toNat 0 8 ≠ 2 → exec (.kevtPop i) s = .next u) ∧
      (bits e.toNat 0 8 = 2 → exec (.kevtPop i) s = .next (u.setDie (i / 16) { (s.die (i / 16)) with
        noticeCount := (s.die (i / 16)).noticeCount - 1 })))

/-- With bring-up done: a doorbell of a page the function owns moves TAIL by what fits, counts a wrong PASID or one that does not fit, and reads HEAD and TAIL; another page's is an Unsupported Request. BAR2 writes, reads and atomics act at the home, or complete with Unsupported Request where the address is not translated. Masking a vector holds it; unmasking one that pends sends it. RQGO 1 creates queue 0 where there is none. Words 1 to 7 of an invalid ring, steering rules, words of a stripe set that no leaf names, POWERCAP and RQBASE are written; a ring that V leaves lets what waits go; the window on the H-die registers takes aligned 8-byte accesses alone. KEY_EXCHANGE records a session; LOCK, START, the unlock and the end of its scrub move the interface through its states. An expander is lost. A frame with a bad FCS or length, or for no valid ring, is counted; another is numbered, placed in its ring, and may pause the port; a refresh sends XOFF again; a ring whose pause budget has passed drops what waits; a waiting task is posted. A link trains unless the peer reports this device's id or one held by another device; it fails while another reaches the peer; a lost peer has no link left, and ends the collectives that need it. A peer's read, write, atomic or family-59 access to memory acts at the home. Rest on the model's log entries: doorbells (76), what a request may be (77), vectors masked at reset (78), frames (81), register ranges (82), TDISP (83), peers (84). (R290, R336, R337, R338, R339, R343, R344, R348, R349, R351, R352, R357) -/
def Obligations.HostEventsComplete : Prop :=
  ∀ (s : State), s.hostOpen = true → s.bar0Open = true →
    (∀ (fn : HostFn) (pasid : Option Nat) (q : Nat) (value : Word) (d : Queue) (n : Nat) (new : List Nat),
      (∀ v, s.ownsPage fn q = false → exec (.doorbellWrite fn pasid q v) s = .next (s.send .unsupported)) ∧
      (s.ownsPage fn q = true → s.queues.get? q = some d →
        exec (.doorbellWrite fn pasid q none) s = .next (s.send (.readData (toBytes (d.head + d.tail * 2 ^ 16) 4)))) ∧
      (s.ownsPage fn q = true → s.queues.get? q = some d → d.v = true →
        (badPasid pasid d = true → exec (.doorbellWrite fn pasid q (some value)) s = .next (s.count cDoorbellBad 1)) ∧
        (badPasid pasid d = false → n = (value.toNat % d.size + d.size - d.tail) % d.size →
          new = ((List.range n).map fun i => (d.tail + i) % d.size) →
          (d.free < n → exec (.doorbellWrite fn pasid q (some value)) s = .next (s.count cDoorbellBad 1)) ∧
          (∀ d', n ≤ d.free → d' = { d with tail := value.toNat % d.size, host := d.host.filter (fun i => !new.contains i) ++ new } →
            exec (.doorbellWrite fn pasid q (some value)) s = .next { s with queues := s.queues.set q d' })))) ∧
    (∀ (fn : HostFn) (addr : Nat) (data : List Byte) (len : Nat),
      (requestOk addr data.length = true → s.hostXlat fn addr data.length false true = .bad →
        exec (.hostBar2Write fn addr data) s = .next (s.send .unsupported)) ∧
      (∀ ctx pa ver u refused, requestOk addr data.length = true → s.hostXlat fn addr data.length false true = .ok ctx pa ver →
        s.writeHeld pa data.length = false → (s.hostWalk fn addr).homeWrite ctx hostActor pa ver data = (u, refused) →
        exec (.hostBar2Write fn addr data) s = .next (if ver && refused then u.count cVerDrop 1 else u)) ∧
      (requestOk addr len = true → s.hostXlat fn addr len true false = .bad →
        exec (.hostBar2Read fn addr len) s = .next (s.send .unsupported)) ∧
      (∀ ctx pa ver bs bad u, requestOk addr len = true → s.hostXlat fn addr len true false = .ok ctx pa ver →
        s.homeHeld pa len = false → (s.hostWalk fn addr).homeFetch ctx pa len = (bs, bad, u) →
        exec (.hostBar2Read fn addr len) s = .next (u.send (if bad then .error else .readData bs))) ∧
      (∀ size kind operand compare, (size = 4 ∨ size = 8) → addr % size = 0 → kind ≤ 2 → s.hostXlat fn addr size true true = .bad →
        exec (.hostAtomicop fn addr size kind operand compare) s = .next (s.send .unsupported)) ∧
      (∀ size kind operand compare ctx pa bs u, (size = 4 ∨ size = 8) → addr % size = 0 → kind ≤ 2 →
        s.hostXlat fn addr size true true = .ok ctx pa false → s.homeHeld pa size = false →
        (s.hostWalk fn addr).homeFetch ctx pa size = (bs, false, u) →
        exec (.hostAtomicop fn addr size kind operand compare) s =
          .next (((((u.settleSeen none [(pa, size)]).recallLine (pa / 128)).physWrite pa
            (toBytes (hostAtomic kind size (ofBytes bs) operand compare) size)).1).send (.readData bs)))) ∧
    (∀ (fn : HostFn) (vec : Nat) (u : State), vec < 2048 → (s.msixOf fn).unmasked.contains vec = false →
      u = s.setMsix fn ⟨vec :: (s.msixOf fn).unmasked, (s.msixOf fn).pending.filter (· ≠ vec)⟩ →
      exec (.msixUnmask fn ⟨vec, false⟩) s = .next (if (s.msixOf fn).pending.contains vec then u.send (.msix fn vec) else u)) ∧
    (∀ (fn : HostFn) (vec : Nat), vec < 2048 → exec (.msixUnmask fn ⟨vec, true⟩) s =
      .next (s.setMsix fn { (s.msixOf fn) with unmasked := (s.msixOf fn).unmasked.filter (· ≠ vec) })) ∧
    (s.queues.has 0 = false → s.hdie.rqbase.toNat % 4096 = 0 → s.hdie.rqbase.toNat < 2 ^ 57 → 4 ≤ s.hdie.rqlog → s.hdie.rqlog ≤ 16 →
      s.hdie.rqerr.toNat % 32 = 0 → s.hdie.rqerr.toNat < 2 ^ 57 →
      ∃ (t : State) (q : Queue), exec (.rqgo 1) s = .next t ∧ t.queues = s.queues.set 0 q ∧ q.v = true ∧ q.hoe = true ∧ q.halted = false ∧
        q.ctx = 0 ∧ q.base = s.hdie.rqbase.toNat ∧ q.log2sz = s.hdie.rqlog ∧ q.errrec = s.hdie.rqerr.toNat ∧ q.head = 0 ∧
        q.tail = 0 ∧ q.pasid = 0 ∧ t.hdie.rqgo = 0 ∧ t.mem = s.mem) ∧
    (∀ (p i w : Nat) (value : DWord), p < 8 →
      (i < 64 → 1 ≤ w → w < 8 → (s.ring p i).v = false → exec (.ringDescriptorWrite p i w value) s =
        .next (s.setRing p i { (s.ring p i) with words := setAt (s.ring p i).words w (value &&& ringMask w) })) ∧
      (i < 64 → 1 ≤ w → w < 8 → (s.ring p i).v = true → exec (.ringDescriptorWrite p i w value) s = .next s) ∧
      (∀ r, i < 64 → r = s.ring p i → r.v = true → value.getLsbD 0 = false → exec (.ringDescriptorWrite p i 0 value) s =
        .next ((s.setRing p i ({ r with words := setAt r.words 0 (value &&& ringMask 0) } : Ring).stop).release p r.held)) ∧
      (i < 64 → exec (.steeringWrite p i value) s = .next (s.setPort p { (s.port p) with rules := (s.port p).rules.set i value }))) ∧
    (∀ (i w : Nat) (value : DWord) (h : HDie), 1 ≤ i → i < 256 → w < 32 →
      (s.stripeNamed i = true → exec (.stripeSetWrite i w value) s = .next s) ∧
      (s.stripeNamed i = false → (w = 0 → stripeHeaderOk value.toNat = true) →
        h = { s.hdie with stripes := s.hdie.stripes.set i (setAt (s.hdie.stripes.getD i (List.replicate 32 0)) w value) } →
        exec (.stripeSetWrite i w value) s = .next { s with hdie := h })) ∧
    (∀ (value : DWord) (h : HDie),
      (h = { s.hdie with powercap := clampCap (value.toNat % 2 ^ 32) } → exec (.registerWrite ⟨.pf, 0x118, 4⟩ (some value)) s = .next { s with hdie := h }) ∧
      (value.toNat % 4096 = 0 → h = { s.hdie with rqbase := value } → exec (.registerWrite ⟨.pf, 0x028, 8⟩ (some value)) s = .next { s with hdie := h }) ∧
      (∀ r size v, r < 0x400000 → (r % 8 ≠ 0 ∨ size ≠ 8) → exec (.registerWrite ⟨.pf, 0x400000 + r, size⟩ v) s = .next (s.send .unsupported)) ∧
      (∀ r, r < 0x400000 → r % 8 = 0 →
        exec (.registerWrite ⟨.pf, 0x400000 + r, 8⟩ (some value)) s = .next (s.hdieWrite r value) ∧
        exec (.registerWrite ⟨.pf, 0x400000 + r, 8⟩ none) s = .next (s.send (.readData (toBytes (s.hdieRead r) 8))))) ∧
    (∀ (fn ctx : Nat) (session : Word) (u : State), fn < 255 →
      exec (.spdmKeyExchange fn session) s = .next ((s.setTdi fn { (s.tdi fn) with session := session }).send (.spdm fn)) ∧
      (s.hdie.bootst = 6 → (s.tdi fn).state = 0 → (s.tdi fn).scrubbing = false → (s.tdi fn).session ≠ 0 → s.bindable ctx = true →
        exec (.lockInterface fn ctx) s = .next ((s.setTdi fn { (s.tdi fn) with state := 1, bind_ := ctx }).send (.tdisp fn true))) ∧
      ((s.tdi fn).state ≠ 0 → exec (.lockInterface fn ctx) s = .next (s.send (.tdisp fn false))) ∧
      ((s.tdi fn).state = 1 → (s.tdi fn).scrubbing = false →
        exec (.startInterface fn) s = .next ((s.setTdi fn { (s.tdi fn) with state := 2 }).send (.tdisp fn true))) ∧
      (∀ next c, ((s.tdi fn).state = 1 ∨ (s.tdi fn).state = 2) → next ≤ 3 → next ≠ 2 → (s.tdi fn).scrubbing = false →
        u = (((s.setTdi fn { (s.tdi fn) with state := next, scrubbing := true }).dropHostReads (s.subtree (s.tdi fn).bind_)).stopAll
          (s.tdi fn).bind_).raiseGen (s.subtree (s.tdi fn).bind_) →
        u.ctx? (s.tdi fn).bind_ = some c → exec (.tdiUnlock fn next) s =
          .next (u.setCtx (s.tdi fn).bind_ { c with run := if c.run = 0 then 0 else 2 })) ∧
      (∀ c v, (s.tdi fn).scrubbing = true → s.allSaved (s.tdi fn).bind_ = true →
        (∀ e ∈ s.acc, (s.subtree (s.tdi fn).bind_).contains e.2.ctx = true → s.stillPerformed e.1 e.2 = false) →
        u = (s.subtree (s.tdi fn).bind_).foldl (fun (s : State) x => (s.failItems x).dropWork x) s →
        u.ctx? (s.tdi fn).bind_ = some c → v = ((u.zeroLeaves c.leaves).zeroRemote c.leaves).zeroRegions c.claim.dies c.claim.wslo c.claim.wscnt →
        exec (.tdiScrubDone fn) s = .next (v.setTdi fn { (v.tdi fn) with state := 0, bind_ := 0, scrubbing := false }))) ∧
    (∀ (port : Nat) (h : HDie), port < 4 → s.hdie.lostExpanders.contains port = false →
      h = { s.hdie with lostExpanders := port :: s.hdie.lostExpanders } →
      exec (.expanderFailure port) s = .next { s with hdie := h }) ∧
    (∀ (f : EthFrame) (i : Nat) (u : State), f.port < 8 →
      ((f.fcsOk = false ∨ f.bytes.length + 4 < 64 ∨ 9216 < f.bytes.length + 4) →
        exec (.frameReceive f) s = .next (s.count (cFrameDrop + 32 * f.port) 1)) ∧
      (f.fcsOk = true → 64 ≤ f.bytes.length + 4 → f.bytes.length + 4 ≤ 9216 → i = (s.port f.port).steer f →
        ((s.ring f.port i).v = false → exec (.frameReceive f) s = .next (s.count (cFrameDrop + 32 * f.port) 1)) ∧
        ((s.ring f.port i).v = true → u = s.serveRings f.port (s.ring f.port i).pri → exec (.frameReceive f) s =
          .next (((u.setRing f.port i { (u.ring f.port i) with seq := (u.ring f.port i).seq + 1 }).placeFrame f.port i f
            (u.ring f.port i).seq).pause f.port (u.ring f.port i).pri false)))) ∧
    (∀ p pri, (s.port p).xoff.contains pri = true → exec (.pfcRefresh p pri) s = .next ((s.serveRings p pri).pause p pri true)) ∧
    (∀ (p i n : Nat), (s.ring p i).v = true → n = (s.ring p i).waiting.length → 0 < n → (s.ring p i).expired s.time = true →
      exec (.pauseBudgetExpiry p i) s = .next ((s.release p ((s.ring p i).waiting.map (·.1.bytes.length)).sum).dropFrames p i cDfull 72 n
        { (s.ring p i) with waiting := [], dfull := (s.ring p i).dfull + n })) ∧
    (∀ (p i id : Nat) (t t' : Task) (rest : List Task) (u : State), (s.ring p i).toPost = t :: rest → (s.queues.get? t.queue).isSome = true →
      t' = { t with arrived := s.time } → s.addTask t' = some (id, u) →
      exec (.ingestTaskPost p i) s =
        .next (((u.setRing p i { (u.ring p i) with toPost := rest }).fullWaves 1 t.queue t.ctx t.hdr).admitFormed t.queue)) ∧
    (∀ (link emid identity : Nat), link < 12 → emid < 256 → s.hdie.links.get? link = none →
      ((emid = s.hdie.emid ∨ ∃ l ∈ s.linksTo emid, l.2.identity ≠ identity) →
        exec (.linkTraining link emid identity) s = .next (s.count cEmidConflict 1)) ∧
      (emid ≠ s.hdie.emid → (∀ l ∈ s.linksTo emid, l.2.identity = identity) →
        ∃ t : State, exec (.linkTraining link emid identity) s = .next t ∧ t.hdie.links = s.hdie.links.set link ⟨true, emid, identity⟩ ∧
          t.hdie.trainedOnce = true ∧ t.mem = s.mem)) ∧
    (∀ (link : Nat) (l : Link), s.hdie.links.get? link = some l → l.trained = true → 1 < (s.linksTo l.emid).length →
      exec (.emarisLinkFailure link) s = .next (s.setLink link { l with trained := false })) ∧
    (∀ peer, s.linksTo peer ≠ [] → ∃ t : State, exec (.peerLost peer) s = .next t ∧ t.linksTo peer = [] ∧ t.mem = s.mem ∧
      ∀ e ∈ s.colls, ∀ k, e.2.status = none → k = (match s.lookup (4 * e.2.cluster) e.2.ctx e.2.dst with
        | some x => x.stripe
        | none => e.2.stripe) → s.stripeNeeds k peer = true → (e.1, { e.2 with status := some 14, ended := s.time }) ∈ t.colls) ∧
    (∀ (peer pa len : Nat) (op : RemoteOp), s.peerAlive peer = true → remoteOk op pa len = true → regionOf pa = .ram →
      regionOf (pa + len - 1) = .ram → s.hidden pa len = false → s.homeHeld pa len = false →
      (∀ bs, op = .write bs → exec (.remoteAccess peer pa op len) s = .next (s.homeWrite 0 hostActor pa (s.anyVerPage pa) bs).1) ∧
      (∀ bs bad u, op = .read → s.homeFetch 0 pa len = (bs, bad, u) →
        exec (.remoteAccess peer pa op len) s = .next (u.send (if bad then .error else .peerReply bs))) ∧
      (∀ f b c r u, op = .atomic f b c → s.homeAtomic 0 pa len (s.anyVerPage pa)
          (fun old => atomicOn f (8 * len) old (b % 2 ^ (8 * len)) (c % 2 ^ (8 * len))) = (r, u) →
        exec (.remoteAccess peer pa op len) s = .next (match r with | some bs => u.send (.peerReply bs) | none => u.send .error)) ∧
      (∀ rank bs u, op = .ldv rank → s.anyVerPage pa = false → s.homeFetch 0 pa 8 = (bs, false, u) →
        exec (.remoteAccess peer pa op len) s = .next (u.send (.peerReply (bs ++ toBytes 0 4 ++ toBytes 1 4)))) ∧
      (∀ token v u, op = .stv token v → s.anyVerPage pa = false →
        u = ((s.settleSeen none [(pa, 8)]).recallLine (pa / 128)).touchHome pa 0 8 true → u.expanderLost pa = false →
        exec (.remoteAccess peer pa op len) s = .next (((u.physWrite pa (toBytes v 8)).1).send (.peerReply []))) ∧
      (∀ bs u, op = .vcnt → s.homeFetch 0 pa 8 = (bs, false, u) → exec (.remoteAccess peer pa op len) s =
        .next (u.send (.peerReply (toBytes (if s.anyVerPage pa then (s.verRec pa).siblings.length else 1) 4)))))

/-- A package reset leaves the state after reset but for what the module keeps; after a trip it waits. Each boot stage ends in the next one or in RECOVERY; stage 2 raises the fuse for an accepted image, stage 3 adds the clusters that failed and those noted for fencing, at stage 4 an expander that fails is counted, and stage 5 ends with the root running. RECOVERY accepts window writes and chunks; RECGO copies an accepted image and resets, and otherwise sets BOOTST to 0xE2. A legal plan record in memory, or the default, starts a plan change: its clocks run once no cluster is being saved, and PLANST says so once what was pre-empted is restored; another sets PLANST to 2. A correctable array error is counted, and so is parity of a clean copy, which is discarded; an uncorrectable one is counted, and unless the dies are held in reset has the effect of its array and is noted for its cluster where it has one. The counters reach flash with a flush, at most once a minute, and with a controlled power-down, not at a power loss. Throttling starts and ends by the cap and 100 °C; a trip at 115 °C stops the dies with BOOTST 0xE3, where a reset request waits, to take effect below 95 °C. The management port answers each request; the five measurements are sent. What a reset keeps (log entry 85), the order of a plan's steps (86), bring-up's free values (87) and the counters' order (88) are the model's choices. (R359, R360, R361, R362, R363, R364, R366, R367, R368, R370, R371, R372) -/
def Obligations.BringUpEventsComplete : Prop :=
  ∀ (s : State),
    (∃ t : State, exec .packageReset s = .next t ∧ (s.hdie.tripped = false → t = { State.reset with
      time := 0, agenda := s.agenda, fresh := s.fresh, nextId := s.nextId, ctxs := [(0, Ctx.root s.hdie.fenceNext)],
      hdie := s.hdie.afterReset })) ∧
    (∀ h, s.hdie.tripped = true → s.hdie.pendingReset = none → h = { s.hdie with pendingReset := some false } →
      exec .packageReset s = .next { s with hdie := h } ∧ exec .mgmtPackageReset s = .next { s with hdie := h }) ∧
    (∀ (ok : Bool) (failed mask : BitVec 160) (h : HDie),
      (s.hdie.bootst = 1 → h = { s.hdie with bootst := 2 } → exec (.bootStageAdvance ok failed) s = .next { s with time := 0, hdie := h }) ∧
      (s.hdie.bootst = 2 → h = { (s.hdie.raiseFuse s.hdie.flash) with bootst := 3, accepted := imageSigned s.hdie.flash } → exec (.bootStageAdvance ok failed) s =
        .next (if ok && imageOk s.hdie.svnFuse s.hdie.flash then { s with hdie := h } else s.enterRecovery)) ∧
      (s.hdie.bootst = 3 → mask = s.hdie.fenceNext ||| failed → h = { s.hdie with fence := mask, fenceNext := mask, bootst := 4 } →
        (dieLost mask = false → exec (.bootStageAdvance ok failed) s = .next { s with hdie := h }) ∧
        (dieLost mask = true → ∃ t : State, exec (.bootStageAdvance ok failed) s = .next t ∧ t.hdie.bootst = 0xE1 ∧ t.hdie.fence = mask)) ∧
      (s.hdie.bootst = 4 → ok = true → h = { s.hdie with bootst := 5, hdm := Config.hdm } →
        exec (.bootStageAdvance ok failed) s = .next { s with hdie := h }) ∧
      (∀ port, s.hdie.bootst = 4 → port < 4 → s.hdie.lostExpanders.contains port = false →
        h = { s.hdie with lostExpanders := port :: s.hdie.lostExpanders } →
        exec (.expanderFailure port) s = .next ({ s with hdie := h }.count (cCxlFail + 32 * port) 1)) ∧
      ((s.hdie.bootst = 4 ∨ s.hdie.bootst = 5) → ok = false → exec (.bootStageAdvance ok failed) s = .next s.enterRecovery) ∧
      (s.hdie.bootst = 5 → ok = true → ∃ t : State, exec (.bootStageAdvance ok failed) s = .next t ∧ t.hdie.bootst = 6 ∧
        ∃ c, t.ctxs = [(0, c)] ∧ c.run = 1)) ∧
    (∀ (off : Nat) (data : List Byte) (h : HDie), 0xE1 ≤ s.hdie.bootst → off + data.length ≤ 8 * 2 ^ 20 → s.hdie.recpage ≤ 8 →
      h = { s.hdie with recBuf := s.hdie.recBuf.write (8 * 2 ^ 20 * s.hdie.recpage + off) data } →
      exec (.recoveryWindowWrite off data) s = .next { s with hdie := h }) ∧
    ((s.hdie.bootst = 0xE1 ∨ s.hdie.bootst = 0xE2) → ∀ i, i = Instr.recgo ∨ i = Instr.mgmtRecoveryGo →
      ∀ h h', h = { (s.hdie.raiseFuse s.hdie.bufferImage) with flash := s.hdie.bufferImage } → h' = { s.hdie with bootst := 0xE2 } →
        exec i s = .next (if imageOk s.hdie.svnFuse s.hdie.bufferImage then { s with hdie := h }.packageReset
          else { s with hdie := h' })) ∧
    (∀ (a : Nat) (bs : List Byte) (h : HDie), s.hostOpen = true → s.hdie.planst ≠ 3 → a = s.hdie.planrec.toNat → bs = s.mem.read a 512 →
      regionOf a = .ram → s.poisoned a 512 = false → s.expanderLost a = false →
      (planOk bs = true → exec .planApply s = .next (s.startPlan bs)) ∧
      (planOk bs = false → h = { s.hdie with planst := 2 } → exec .planApply s = .next { s with hdie := h })) ∧
    (∀ h, s.hostOpen = true → s.hdie.planst ≠ 3 →
      (s.hdie.plan = [] → h = { s.hdie with planst := 0 } → exec .planDefault s = .next { s with hdie := h }) ∧
      (s.hdie.plan ≠ [] → exec .planDefault s = .next (s.startPlan []))) ∧
    (∀ h, s.hdie.planst = 3 → s.hdie.relocked = false → s.clusters.any (fun k => k.2.stop.isSome) = false →
      h = { s.hdie with plan := s.hdie.planNext, planNext := [], acBase := s.acNow, acFrom := s.time, relocked := true } →
      exec .pllRelock s = .next { s with hdie := h }.planDone) ∧
    (∀ h, s.hdie.planst = 3 → s.hdie.relocked = true → (∀ k ∈ s.clusters, k.2.stop = none ∧
        ∀ x, k.2.holds = some x → s.savedIn k.1 x = false) →
      h = { s.hdie with planst := if s.hdie.plan.isEmpty then 0 else 1, relocked := false } → s.planDone = { s with hdie := h }) ∧
    (∀ (loc : ArrayLoc) (cls die : Nat) (cl : Option Nat), arrayPlace loc = (cls, die, cl) →
      exec (.arrayError loc true) s = .next (s.count (32 * die + 512 * cls) 1) ∧
      ((∃ c, loc = .parityCached c) → exec (.arrayError loc false) s =
        .next ((if s.hdie.down then s else s.arrayFault loc).count (32 * die + 512 * cls) 1)) ∧
      ((∀ c, loc ≠ .parityCached c) → s.hdie.down = true →
        exec (.arrayError loc false) s = .next (s.count (1 + 32 * die + 512 * cls) 1)) ∧
      ((∀ c, loc ≠ .parityCached c) → s.hdie.down = false → cl = none →
        exec (.arrayError loc false) s = .next ((s.count (1 + 32 * die + 512 * cls) 1).arrayFault loc)) ∧
      (∀ k u, (∀ c, loc ≠ .parityCached c) → s.hdie.down = false → cl = some k → u = (s.count (1 + 32 * die + 512 * cls) 1).arrayFault loc →
        u.hdie.down = false → exec (.arrayError loc false) s = .next (u.clusterError k))) ∧
    (∀ h, s.hdie.lastFlush.toNat + flushTime ≤ s.time.toNat →
      h = { s.hdie with flashCounters := s.hdie.counters, lastFlush := s.time } →
      exec .counterFlush s = .next { s with hdie := h }) ∧
    (∀ h, h = { s.hdie with flashCounters := s.hdie.counters } → exec .powerDown s = .next { s with hdie := h }.packageReset) ∧
    (∀ h, h = { s.hdie with counters := s.hdie.flashCounters } → exec .powerLoss s = .next { s with hdie := h }.packageReset) ∧
    (∀ (power : Nat) (temps : List Nat) (h : HDie),
      (s.hdie.throttled = false → (s.hdie.powercap < power ∨ ∃ t ∈ temps, 100 ≤ t) →
        h = { s.hdie with throttled := true, power := power, temps := temps } →
        exec (.throttleOnset power temps) s = .next ({ s with hdie := h }.count cPowercapAct 1)) ∧
      (s.hdie.throttled = true → power ≤ s.hdie.powercap → (∀ t ∈ temps, t < 100) →
        h = { s.hdie with throttled := false, power := power, temps := temps } →
        exec (.throttleEnd power temps) s = .next { s with hdie := h })) ∧
    (∀ (die temp : Nat), s.hdie.tripped = false → die < 5 → 115 ≤ temp → ∃ t : State, exec (.thermalTrip die temp) s = .next t ∧
      t.hdie.bootst = 0xE3 ∧ t.hdie.tripped = true ∧ t.warps = [] ∧ t.acc = [] ∧ t.clusters = [] ∧
      t.hdie.counters.getD cThermtrip 0 = s.hdie.counters.getD cThermtrip 0 + 1) ∧
    (∀ (temps : List Nat) (h : HDie), s.hdie.tripped = true → (∀ t ∈ temps, t < 95) → h = { s.hdie with temps := temps } →
      (s.hdie.pendingReset = some false → exec (.tripRecovery temps) s = .next { s with hdie := h }.packageReset) ∧
      (s.hdie.pendingReset = some true → exec (.tripRecovery temps) s = .next (if imageOk s.hdie.svnFuse s.hdie.bufferImage
        then { s with hdie := h }.recoverWith s.hdie.bufferImage else { s with hdie := h }.packageReset))) ∧
    (∀ (port : Nat) (h : HDie), port < 2 → s.hdie.bootst = 0xE3 → s.hdie.pendingReset = none → h = { s.hdie with pendingReset := some false } →
      exec (.portReset port) s = .next { s with hdie := h }) ∧
    (s.hdie.tripped = false → exec .mgmtPackageReset s = .next s.packageReset) ∧
    exec .mgmtReadSensors s = .next (s.send (.mgmt (s.hdie.temps ++ (s.hdie.rails.map fun mv => wrap mv 32) ++ [s.hdie.power]))) ∧
    (∀ n, exec (.mgmtReadCounter n) s = .next (s.send (.mgmt [s.hdie.counters.getD (counterKey n) 0]))) ∧
    (∀ (watts v : Nat) (u : State) (h : HDie), s.takeFree 8 = (v, u) → h = { u.hdie with powercap := clampCap watts } →
      exec (.mgmtSetPowercap watts) s = .next ({ u with hdie := h }.send (.mgmt [v]))) ∧
    (∀ (off : Nat) (data : List Byte) (v : Nat) (u : State), s.takeFree 8 = (v, u) → data.length ≤ 1024 →
      exec (.mgmtRecoveryChunk off data) s = .next ({ u with hdie := (u.hdie.bufferWrite off data) }.send (.mgmt [v]))) ∧
    (∀ (m : List Byte) (v : Nat) (u : State), s.takeFree 1024 = (v, u) → exec (.mctpControl m) s = .next (u.send (.mgmt [v]))) ∧
    (∃ t : State, exec .measurements s = .next t ∧ t.mem = s.mem ∧ t.warps = s.warps) ∧
    (∀ (a : List Byte) (u : State), a = s.hdie.accepted → a ≠ [] → u = (s.takeFree 424).2 → exec .measurements s =
      .next (((((u.send (.measurement 1 (sha3 Config.bootRom))).send (.measurement 2 (sha3 a))).send
        (.measurement 3 (toBytes (imageVersion a) 4 ++ toBytes (imageSvn a) 1))).send
        (.measurement 4 (toBytes s.hdie.fence.toNat 20))).send
        (.measurement 5 (if s.hdie.plan.isEmpty then List.replicate 512 0 else s.hdie.plan))))

/-- From every state whose memory lists its addresses in strictly rising order with no entry equal to what an unlisted byte reads as, whatever the next action, the next state's memory does so too: no store, atomic, versioned store, copy, move, record, page migration, host or peer access, scrub or reset leaves memory in a second form, so equal contents are equal data. The canonical form, and zero as what an unlisted byte reads as, are the model's (log entry 4). (R54, R166, R242, R253) -/
def Obligations.MemoryStaysCanonical : Prop :=
  ∀ s t : State, s.mem.wf = true → step s = .next t → t.mem.wf = true
end

