-- ==== Sys2Proof/Laws/State.lean ====
section
/-! SUPPORT. What the updates of State change and leave alone, field by field; what the maps hold after a change. -/

namespace Sys2Proof

namespace Map

variable {α : Type}

@[simp] theorem get?_nil (k : Nat) : get? ([] : Map α) k = none := rfl

theorem get?_cons (j : Nat) (a : α) (m : Map α) (k : Nat) : get? ((j, a) :: m) k = if j = k then some a else get? m k := rfl

/-- What was set is held. -/
@[simp] theorem get?_set_same (m : Map α) (k : Nat) (a : α) : (m.set k a).get? k = some a := by
  induction m with
  | nil => simp [set, get?]
  | cons x m ih =>
    obtain ⟨j, b⟩ := x
    simp only [set]
    split
    · simp [get?]
    · split
      · simp [get?]
      · rename_i h; simp [get?, Ne.symm h, ih]

/-- A change at one number leaves the others. -/
theorem get?_set_ne (m : Map α) {j k : Nat} (a : α) (h : j ≠ k) : (m.set k a).get? j = m.get? j := by
  induction m with
  | nil => simp [set, get?, Ne.symm h]
  | cons x m ih =>
    obtain ⟨i, b⟩ := x
    simp only [set]
    split
    · simp [get?, Ne.symm h]
    · split
      · rename_i e; subst e; simp [get?, Ne.symm h]
      · simp [get?, ih]

/-- A removal at one number leaves the others. -/
theorem get?_del_ne (m : Map α) {j k : Nat} (h : j ≠ k) : (m.del k).get? j = m.get? j := by
  induction m with
  | nil => rfl
  | cons x m ih =>
    obtain ⟨i, b⟩ := x
    simp only [del]
    split
    · rename_i e; subst e; simp [get?, Ne.symm h, ih]
    · simp [get?, ih]

/-- What was removed is not held. -/
@[simp] theorem get?_del_same (m : Map α) (k : Nat) : (m.del k).get? k = none := by
  induction m with
  | nil => rfl
  | cons x m ih =>
    obtain ⟨i, b⟩ := x
    simp only [del]
    split
    · exact ih
    · rename_i e; simp [get?, Ne.symm e, ih]

@[simp] theorem getD_set_same (m : Map α) (k : Nat) (a d : α) : (m.set k a).getD k d = a := by simp [getD]

theorem getD_set_ne (m : Map α) {j k : Nat} (a d : α) (h : j ≠ k) : (m.set k a).getD j d = m.getD j d := by
  simp [getD, get?_set_ne m a h]

end Map

namespace Machine.State

variable (s : State)


@[simp] theorem setCore_time (c : Nat) (v : Core) : (s.setCore c v).time = s.time := rfl
@[simp] theorem setCore_agenda (c : Nat) (v : Core) : (s.setCore c v).agenda = s.agenda := rfl
@[simp] theorem setCore_focus (c : Nat) (v : Core) : (s.setCore c v).focus = s.focus := rfl
@[simp] theorem setCore_fresh (c : Nat) (v : Core) : (s.setCore c v).fresh = s.fresh := rfl
@[simp] theorem setCore_nextId (c : Nat) (v : Core) : (s.setCore c v).nextId = s.nextId := rfl
@[simp] theorem setCore_mem (c : Nat) (v : Core) : (s.setCore c v).mem = s.mem := rfl
@[simp] theorem setCore_poison (c : Nat) (v : Core) : (s.setCore c v).poison = s.poison := rfl
@[simp] theorem setCore_warps (c : Nat) (v : Core) : (s.setCore c v).warps = s.warps := rfl
@[simp] theorem setCore_groups (c : Nat) (v : Core) : (s.setCore c v).groups = s.groups := rfl
@[simp] theorem setCore_results (c : Nat) (v : Core) : (s.setCore c v).results = s.results := rfl
@[simp] theorem setCore_acc (c : Nat) (v : Core) : (s.setCore c v).acc = s.acc := rfl
@[simp] theorem setCore_sleepers (c : Nat) (v : Core) : (s.setCore c v).sleepers = s.sleepers := rfl
@[simp] theorem setCore_commits (c : Nat) (v : Core) : (s.setCore c v).commits = s.commits := rfl
@[simp] theorem setCore_vers (c : Nat) (v : Core) : (s.setCore c v).vers = s.vers := rfl
@[simp] theorem setCore_dir (c : Nat) (v : Core) : (s.setCore c v).dir = s.dir := rfl
@[simp] theorem setCore_l2 (c : Nat) (v : Core) : (s.setCore c v).l2 = s.l2 := rfl
@[simp] theorem setCore_clusters (c : Nat) (v : Core) : (s.setCore c v).clusters = s.clusters := rfl
@[simp] theorem setCore_dies (c : Nat) (v : Core) : (s.setCore c v).dies = s.dies := rfl
@[simp] theorem setCore_ctxs (c : Nat) (v : Core) : (s.setCore c v).ctxs = s.ctxs := rfl
@[simp] theorem setCore_queues (c : Nat) (v : Core) : (s.setCore c v).queues = s.queues := rfl
@[simp] theorem setCore_launches (c : Nat) (v : Core) : (s.setCore c v).launches = s.launches := rfl
@[simp] theorem setCore_phases (c : Nat) (v : Core) : (s.setCore c v).phases = s.phases := rfl
@[simp] theorem setCore_slices (c : Nat) (v : Core) : (s.setCore c v).slices = s.slices := rfl
@[simp] theorem setCore_colls (c : Nat) (v : Core) : (s.setCore c v).colls = s.colls := rfl
@[simp] theorem setCore_shootdowns (c : Nat) (v : Core) : (s.setCore c v).shootdowns = s.shootdowns := rfl
@[simp] theorem setCore_fqPosted (c : Nat) (v : Core) : (s.setCore c v).fqPosted = s.fqPosted := rfl
@[simp] theorem setCore_fqHeld (c : Nat) (v : Core) : (s.setCore c v).fqHeld = s.fqHeld := rfl
@[simp] theorem setCore_kern (c : Nat) (v : Core) : (s.setCore c v).kern = s.kern := rfl
@[simp] theorem setCore_kernSize (c : Nat) (v : Core) : (s.setCore c v).kernSize = s.kernSize := rfl
@[simp] theorem setCore_hdie (c : Nat) (v : Core) : (s.setCore c v).hdie = s.hdie := rfl

@[simp] theorem setWarp_time (c w : Nat) (v : Warp) : (s.setWarp c w v).time = s.time := rfl
@[simp] theorem setWarp_agenda (c w : Nat) (v : Warp) : (s.setWarp c w v).agenda = s.agenda := rfl
@[simp] theorem setWarp_focus (c w : Nat) (v : Warp) : (s.setWarp c w v).focus = s.focus := rfl
@[simp] theorem setWarp_fresh (c w : Nat) (v : Warp) : (s.setWarp c w v).fresh = s.fresh := rfl
@[simp] theorem setWarp_nextId (c w : Nat) (v : Warp) : (s.setWarp c w v).nextId = s.nextId := rfl
@[simp] theorem setWarp_mem (c w : Nat) (v : Warp) : (s.setWarp c w v).mem = s.mem := rfl
@[simp] theorem setWarp_poison (c w : Nat) (v : Warp) : (s.setWarp c w v).poison = s.poison := rfl
@[simp] theorem setWarp_groups (c w : Nat) (v : Warp) : (s.setWarp c w v).groups = s.groups := rfl
@[simp] theorem setWarp_cores (c w : Nat) (v : Warp) : (s.setWarp c w v).cores = s.cores := rfl
@[simp] theorem setWarp_results (c w : Nat) (v : Warp) : (s.setWarp c w v).results = s.results := rfl
@[simp] theorem setWarp_acc (c w : Nat) (v : Warp) : (s.setWarp c w v).acc = s.acc := rfl
@[simp] theorem setWarp_sleepers (c w : Nat) (v : Warp) : (s.setWarp c w v).sleepers = s.sleepers := rfl
@[simp] theorem setWarp_commits (c w : Nat) (v : Warp) : (s.setWarp c w v).commits = s.commits := rfl
@[simp] theorem setWarp_vers (c w : Nat) (v : Warp) : (s.setWarp c w v).vers = s.vers := rfl
@[simp] theorem setWarp_dir (c w : Nat) (v : Warp) : (s.setWarp c w v).dir = s.dir := rfl
@[simp] theorem setWarp_l2 (c w : Nat) (v : Warp) : (s.setWarp c w v).l2 = s.l2 := rfl
@[simp] theorem setWarp_clusters (c w : Nat) (v : Warp) : (s.setWarp c w v).clusters = s.clusters := rfl
@[simp] theorem setWarp_dies (c w : Nat) (v : Warp) : (s.setWarp c w v).dies = s.dies := rfl
@[simp] theorem setWarp_ctxs (c w : Nat) (v : Warp) : (s.setWarp c w v).ctxs = s.ctxs := rfl
@[simp] theorem setWarp_queues (c w : Nat) (v : Warp) : (s.setWarp c w v).queues = s.queues := rfl
@[simp] theorem setWarp_launches (c w : Nat) (v : Warp) : (s.setWarp c w v).launches = s.launches := rfl
@[simp] theorem setWarp_phases (c w : Nat) (v : Warp) : (s.setWarp c w v).phases = s.phases := rfl
@[simp] theorem setWarp_slices (c w : Nat) (v : Warp) : (s.setWarp c w v).slices = s.slices := rfl
@[simp] theorem setWarp_colls (c w : Nat) (v : Warp) : (s.setWarp c w v).colls = s.colls := rfl
@[simp] theorem setWarp_shootdowns (c w : Nat) (v : Warp) : (s.setWarp c w v).shootdowns = s.shootdowns := rfl
@[simp] theorem setWarp_fqPosted (c w : Nat) (v : Warp) : (s.setWarp c w v).fqPosted = s.fqPosted := rfl
@[simp] theorem setWarp_fqHeld (c w : Nat) (v : Warp) : (s.setWarp c w v).fqHeld = s.fqHeld := rfl
@[simp] theorem setWarp_kern (c w : Nat) (v : Warp) : (s.setWarp c w v).kern = s.kern := rfl
@[simp] theorem setWarp_kernSize (c w : Nat) (v : Warp) : (s.setWarp c w v).kernSize = s.kernSize := rfl
@[simp] theorem setWarp_hdie (c w : Nat) (v : Warp) : (s.setWarp c w v).hdie = s.hdie := rfl

@[simp] theorem delWarp_time (c w : Nat) : (s.delWarp c w).time = s.time := rfl
@[simp] theorem delWarp_agenda (c w : Nat) : (s.delWarp c w).agenda = s.agenda := rfl
@[simp] theorem delWarp_focus (c w : Nat) : (s.delWarp c w).focus = s.focus := rfl
@[simp] theorem delWarp_fresh (c w : Nat) : (s.delWarp c w).fresh = s.fresh := rfl
@[simp] theorem delWarp_nextId (c w : Nat) : (s.delWarp c w).nextId = s.nextId := rfl
@[simp] theorem delWarp_mem (c w : Nat) : (s.delWarp c w).mem = s.mem := rfl
@[simp] theorem delWarp_poison (c w : Nat) : (s.delWarp c w).poison = s.poison := rfl
@[simp] theorem delWarp_groups (c w : Nat) : (s.delWarp c w).groups = s.groups := rfl
@[simp] theorem delWarp_cores (c w : Nat) : (s.delWarp c w).cores = s.cores := rfl
@[simp] theorem delWarp_results (c w : Nat) : (s.delWarp c w).results = s.results := rfl
@[simp] theorem delWarp_acc (c w : Nat) : (s.delWarp c w).acc = s.acc := rfl
@[simp] theorem delWarp_sleepers (c w : Nat) : (s.delWarp c w).sleepers = s.sleepers := rfl
@[simp] theorem delWarp_commits (c w : Nat) : (s.delWarp c w).commits = s.commits := rfl
@[simp] theorem delWarp_vers (c w : Nat) : (s.delWarp c w).vers = s.vers := rfl
@[simp] theorem delWarp_dir (c w : Nat) : (s.delWarp c w).dir = s.dir := rfl
@[simp] theorem delWarp_l2 (c w : Nat) : (s.delWarp c w).l2 = s.l2 := rfl
@[simp] theorem delWarp_clusters (c w : Nat) : (s.delWarp c w).clusters = s.clusters := rfl
@[simp] theorem delWarp_dies (c w : Nat) : (s.delWarp c w).dies = s.dies := rfl
@[simp] theorem delWarp_ctxs (c w : Nat) : (s.delWarp c w).ctxs = s.ctxs := rfl
@[simp] theorem delWarp_queues (c w : Nat) : (s.delWarp c w).queues = s.queues := rfl
@[simp] theorem delWarp_launches (c w : Nat) : (s.delWarp c w).launches = s.launches := rfl
@[simp] theorem delWarp_phases (c w : Nat) : (s.delWarp c w).phases = s.phases := rfl
@[simp] theorem delWarp_slices (c w : Nat) : (s.delWarp c w).slices = s.slices := rfl
@[simp] theorem delWarp_colls (c w : Nat) : (s.delWarp c w).colls = s.colls := rfl
@[simp] theorem delWarp_shootdowns (c w : Nat) : (s.delWarp c w).shootdowns = s.shootdowns := rfl
@[simp] theorem delWarp_fqPosted (c w : Nat) : (s.delWarp c w).fqPosted = s.fqPosted := rfl
@[simp] theorem delWarp_fqHeld (c w : Nat) : (s.delWarp c w).fqHeld = s.fqHeld := rfl
@[simp] theorem delWarp_kern (c w : Nat) : (s.delWarp c w).kern = s.kern := rfl
@[simp] theorem delWarp_kernSize (c w : Nat) : (s.delWarp c w).kernSize = s.kernSize := rfl
@[simp] theorem delWarp_hdie (c w : Nat) : (s.delWarp c w).hdie = s.hdie := rfl

@[simp] theorem setGroup_time (c g : Nat) (v : Group) : (s.setGroup c g v).time = s.time := rfl
@[simp] theorem setGroup_agenda (c g : Nat) (v : Group) : (s.setGroup c g v).agenda = s.agenda := rfl
@[simp] theorem setGroup_focus (c g : Nat) (v : Group) : (s.setGroup c g v).focus = s.focus := rfl
@[simp] theorem setGroup_fresh (c g : Nat) (v : Group) : (s.setGroup c g v).fresh = s.fresh := rfl
@[simp] theorem setGroup_nextId (c g : Nat) (v : Group) : (s.setGroup c g v).nextId = s.nextId := rfl
@[simp] theorem setGroup_mem (c g : Nat) (v : Group) : (s.setGroup c g v).mem = s.mem := rfl
@[simp] theorem setGroup_poison (c g : Nat) (v : Group) : (s.setGroup c g v).poison = s.poison := rfl
@[simp] theorem setGroup_warps (c g : Nat) (v : Group) : (s.setGroup c g v).warps = s.warps := rfl
@[simp] theorem setGroup_cores (c g : Nat) (v : Group) : (s.setGroup c g v).cores = s.cores := rfl
@[simp] theorem setGroup_results (c g : Nat) (v : Group) : (s.setGroup c g v).results = s.results := rfl
@[simp] theorem setGroup_acc (c g : Nat) (v : Group) : (s.setGroup c g v).acc = s.acc := rfl
@[simp] theorem setGroup_sleepers (c g : Nat) (v : Group) : (s.setGroup c g v).sleepers = s.sleepers := rfl
@[simp] theorem setGroup_commits (c g : Nat) (v : Group) : (s.setGroup c g v).commits = s.commits := rfl
@[simp] theorem setGroup_vers (c g : Nat) (v : Group) : (s.setGroup c g v).vers = s.vers := rfl
@[simp] theorem setGroup_dir (c g : Nat) (v : Group) : (s.setGroup c g v).dir = s.dir := rfl
@[simp] theorem setGroup_l2 (c g : Nat) (v : Group) : (s.setGroup c g v).l2 = s.l2 := rfl
@[simp] theorem setGroup_clusters (c g : Nat) (v : Group) : (s.setGroup c g v).clusters = s.clusters := rfl
@[simp] theorem setGroup_dies (c g : Nat) (v : Group) : (s.setGroup c g v).dies = s.dies := rfl
@[simp] theorem setGroup_ctxs (c g : Nat) (v : Group) : (s.setGroup c g v).ctxs = s.ctxs := rfl
@[simp] theorem setGroup_queues (c g : Nat) (v : Group) : (s.setGroup c g v).queues = s.queues := rfl
@[simp] theorem setGroup_launches (c g : Nat) (v : Group) : (s.setGroup c g v).launches = s.launches := rfl
@[simp] theorem setGroup_phases (c g : Nat) (v : Group) : (s.setGroup c g v).phases = s.phases := rfl
@[simp] theorem setGroup_slices (c g : Nat) (v : Group) : (s.setGroup c g v).slices = s.slices := rfl
@[simp] theorem setGroup_colls (c g : Nat) (v : Group) : (s.setGroup c g v).colls = s.colls := rfl
@[simp] theorem setGroup_shootdowns (c g : Nat) (v : Group) : (s.setGroup c g v).shootdowns = s.shootdowns := rfl
@[simp] theorem setGroup_fqPosted (c g : Nat) (v : Group) : (s.setGroup c g v).fqPosted = s.fqPosted := rfl
@[simp] theorem setGroup_fqHeld (c g : Nat) (v : Group) : (s.setGroup c g v).fqHeld = s.fqHeld := rfl
@[simp] theorem setGroup_kern (c g : Nat) (v : Group) : (s.setGroup c g v).kern = s.kern := rfl
@[simp] theorem setGroup_kernSize (c g : Nat) (v : Group) : (s.setGroup c g v).kernSize = s.kernSize := rfl
@[simp] theorem setGroup_hdie (c g : Nat) (v : Group) : (s.setGroup c g v).hdie = s.hdie := rfl

@[simp] theorem delGroup_time (c g : Nat) : (s.delGroup c g).time = s.time := rfl
@[simp] theorem delGroup_agenda (c g : Nat) : (s.delGroup c g).agenda = s.agenda := rfl
@[simp] theorem delGroup_focus (c g : Nat) : (s.delGroup c g).focus = s.focus := rfl
@[simp] theorem delGroup_fresh (c g : Nat) : (s.delGroup c g).fresh = s.fresh := rfl
@[simp] theorem delGroup_nextId (c g : Nat) : (s.delGroup c g).nextId = s.nextId := rfl
@[simp] theorem delGroup_mem (c g : Nat) : (s.delGroup c g).mem = s.mem := rfl
@[simp] theorem delGroup_poison (c g : Nat) : (s.delGroup c g).poison = s.poison := rfl
@[simp] theorem delGroup_warps (c g : Nat) : (s.delGroup c g).warps = s.warps := rfl
@[simp] theorem delGroup_cores (c g : Nat) : (s.delGroup c g).cores = s.cores := rfl
@[simp] theorem delGroup_results (c g : Nat) : (s.delGroup c g).results = s.results := rfl
@[simp] theorem delGroup_acc (c g : Nat) : (s.delGroup c g).acc = s.acc := rfl
@[simp] theorem delGroup_sleepers (c g : Nat) : (s.delGroup c g).sleepers = s.sleepers := rfl
@[simp] theorem delGroup_commits (c g : Nat) : (s.delGroup c g).commits = s.commits := rfl
@[simp] theorem delGroup_vers (c g : Nat) : (s.delGroup c g).vers = s.vers := rfl
@[simp] theorem delGroup_dir (c g : Nat) : (s.delGroup c g).dir = s.dir := rfl
@[simp] theorem delGroup_l2 (c g : Nat) : (s.delGroup c g).l2 = s.l2 := rfl
@[simp] theorem delGroup_clusters (c g : Nat) : (s.delGroup c g).clusters = s.clusters := rfl
@[simp] theorem delGroup_dies (c g : Nat) : (s.delGroup c g).dies = s.dies := rfl
@[simp] theorem delGroup_ctxs (c g : Nat) : (s.delGroup c g).ctxs = s.ctxs := rfl
@[simp] theorem delGroup_queues (c g : Nat) : (s.delGroup c g).queues = s.queues := rfl
@[simp] theorem delGroup_launches (c g : Nat) : (s.delGroup c g).launches = s.launches := rfl
@[simp] theorem delGroup_phases (c g : Nat) : (s.delGroup c g).phases = s.phases := rfl
@[simp] theorem delGroup_slices (c g : Nat) : (s.delGroup c g).slices = s.slices := rfl
@[simp] theorem delGroup_colls (c g : Nat) : (s.delGroup c g).colls = s.colls := rfl
@[simp] theorem delGroup_shootdowns (c g : Nat) : (s.delGroup c g).shootdowns = s.shootdowns := rfl
@[simp] theorem delGroup_fqPosted (c g : Nat) : (s.delGroup c g).fqPosted = s.fqPosted := rfl
@[simp] theorem delGroup_fqHeld (c g : Nat) : (s.delGroup c g).fqHeld = s.fqHeld := rfl
@[simp] theorem delGroup_kern (c g : Nat) : (s.delGroup c g).kern = s.kern := rfl
@[simp] theorem delGroup_kernSize (c g : Nat) : (s.delGroup c g).kernSize = s.kernSize := rfl
@[simp] theorem delGroup_hdie (c g : Nat) : (s.delGroup c g).hdie = s.hdie := rfl

@[simp] theorem setCluster_time (c : Nat) (v : Cluster) : (s.setCluster c v).time = s.time := rfl
@[simp] theorem setCluster_agenda (c : Nat) (v : Cluster) : (s.setCluster c v).agenda = s.agenda := rfl
@[simp] theorem setCluster_focus (c : Nat) (v : Cluster) : (s.setCluster c v).focus = s.focus := rfl
@[simp] theorem setCluster_fresh (c : Nat) (v : Cluster) : (s.setCluster c v).fresh = s.fresh := rfl
@[simp] theorem setCluster_nextId (c : Nat) (v : Cluster) : (s.setCluster c v).nextId = s.nextId := rfl
@[simp] theorem setCluster_mem (c : Nat) (v : Cluster) : (s.setCluster c v).mem = s.mem := rfl
@[simp] theorem setCluster_poison (c : Nat) (v : Cluster) : (s.setCluster c v).poison = s.poison := rfl
@[simp] theorem setCluster_warps (c : Nat) (v : Cluster) : (s.setCluster c v).warps = s.warps := rfl
@[simp] theorem setCluster_groups (c : Nat) (v : Cluster) : (s.setCluster c v).groups = s.groups := rfl
@[simp] theorem setCluster_cores (c : Nat) (v : Cluster) : (s.setCluster c v).cores = s.cores := rfl
@[simp] theorem setCluster_results (c : Nat) (v : Cluster) : (s.setCluster c v).results = s.results := rfl
@[simp] theorem setCluster_acc (c : Nat) (v : Cluster) : (s.setCluster c v).acc = s.acc := rfl
@[simp] theorem setCluster_sleepers (c : Nat) (v : Cluster) : (s.setCluster c v).sleepers = s.sleepers := rfl
@[simp] theorem setCluster_commits (c : Nat) (v : Cluster) : (s.setCluster c v).commits = s.commits := rfl
@[simp] theorem setCluster_vers (c : Nat) (v : Cluster) : (s.setCluster c v).vers = s.vers := rfl
@[simp] theorem setCluster_dir (c : Nat) (v : Cluster) : (s.setCluster c v).dir = s.dir := rfl
@[simp] theorem setCluster_l2 (c : Nat) (v : Cluster) : (s.setCluster c v).l2 = s.l2 := rfl
@[simp] theorem setCluster_dies (c : Nat) (v : Cluster) : (s.setCluster c v).dies = s.dies := rfl
@[simp] theorem setCluster_ctxs (c : Nat) (v : Cluster) : (s.setCluster c v).ctxs = s.ctxs := rfl
@[simp] theorem setCluster_queues (c : Nat) (v : Cluster) : (s.setCluster c v).queues = s.queues := rfl
@[simp] theorem setCluster_launches (c : Nat) (v : Cluster) : (s.setCluster c v).launches = s.launches := rfl
@[simp] theorem setCluster_phases (c : Nat) (v : Cluster) : (s.setCluster c v).phases = s.phases := rfl
@[simp] theorem setCluster_slices (c : Nat) (v : Cluster) : (s.setCluster c v).slices = s.slices := rfl
@[simp] theorem setCluster_colls (c : Nat) (v : Cluster) : (s.setCluster c v).colls = s.colls := rfl
@[simp] theorem setCluster_shootdowns (c : Nat) (v : Cluster) : (s.setCluster c v).shootdowns = s.shootdowns := rfl
@[simp] theorem setCluster_fqPosted (c : Nat) (v : Cluster) : (s.setCluster c v).fqPosted = s.fqPosted := rfl
@[simp] theorem setCluster_fqHeld (c : Nat) (v : Cluster) : (s.setCluster c v).fqHeld = s.fqHeld := rfl
@[simp] theorem setCluster_kern (c : Nat) (v : Cluster) : (s.setCluster c v).kern = s.kern := rfl
@[simp] theorem setCluster_kernSize (c : Nat) (v : Cluster) : (s.setCluster c v).kernSize = s.kernSize := rfl
@[simp] theorem setCluster_hdie (c : Nat) (v : Cluster) : (s.setCluster c v).hdie = s.hdie := rfl

@[simp] theorem setDie_time (d : Nat) (v : Die) : (s.setDie d v).time = s.time := rfl
@[simp] theorem setDie_agenda (d : Nat) (v : Die) : (s.setDie d v).agenda = s.agenda := rfl
@[simp] theorem setDie_focus (d : Nat) (v : Die) : (s.setDie d v).focus = s.focus := rfl
@[simp] theorem setDie_fresh (d : Nat) (v : Die) : (s.setDie d v).fresh = s.fresh := rfl
@[simp] theorem setDie_nextId (d : Nat) (v : Die) : (s.setDie d v).nextId = s.nextId := rfl
@[simp] theorem setDie_mem (d : Nat) (v : Die) : (s.setDie d v).mem = s.mem := rfl
@[simp] theorem setDie_poison (d : Nat) (v : Die) : (s.setDie d v).poison = s.poison := rfl
@[simp] theorem setDie_warps (d : Nat) (v : Die) : (s.setDie d v).warps = s.warps := rfl
@[simp] theorem setDie_groups (d : Nat) (v : Die) : (s.setDie d v).groups = s.groups := rfl
@[simp] theorem setDie_cores (d : Nat) (v : Die) : (s.setDie d v).cores = s.cores := rfl
@[simp] theorem setDie_results (d : Nat) (v : Die) : (s.setDie d v).results = s.results := rfl
@[simp] theorem setDie_acc (d : Nat) (v : Die) : (s.setDie d v).acc = s.acc := rfl
@[simp] theorem setDie_sleepers (d : Nat) (v : Die) : (s.setDie d v).sleepers = s.sleepers := rfl
@[simp] theorem setDie_commits (d : Nat) (v : Die) : (s.setDie d v).commits = s.commits := rfl
@[simp] theorem setDie_vers (d : Nat) (v : Die) : (s.setDie d v).vers = s.vers := rfl
@[simp] theorem setDie_dir (d : Nat) (v : Die) : (s.setDie d v).dir = s.dir := rfl
@[simp] theorem setDie_l2 (d : Nat) (v : Die) : (s.setDie d v).l2 = s.l2 := rfl
@[simp] theorem setDie_clusters (d : Nat) (v : Die) : (s.setDie d v).clusters = s.clusters := rfl
@[simp] theorem setDie_ctxs (d : Nat) (v : Die) : (s.setDie d v).ctxs = s.ctxs := rfl
@[simp] theorem setDie_queues (d : Nat) (v : Die) : (s.setDie d v).queues = s.queues := rfl
@[simp] theorem setDie_launches (d : Nat) (v : Die) : (s.setDie d v).launches = s.launches := rfl
@[simp] theorem setDie_phases (d : Nat) (v : Die) : (s.setDie d v).phases = s.phases := rfl
@[simp] theorem setDie_slices (d : Nat) (v : Die) : (s.setDie d v).slices = s.slices := rfl
@[simp] theorem setDie_colls (d : Nat) (v : Die) : (s.setDie d v).colls = s.colls := rfl
@[simp] theorem setDie_shootdowns (d : Nat) (v : Die) : (s.setDie d v).shootdowns = s.shootdowns := rfl
@[simp] theorem setDie_fqPosted (d : Nat) (v : Die) : (s.setDie d v).fqPosted = s.fqPosted := rfl
@[simp] theorem setDie_fqHeld (d : Nat) (v : Die) : (s.setDie d v).fqHeld = s.fqHeld := rfl
@[simp] theorem setDie_kern (d : Nat) (v : Die) : (s.setDie d v).kern = s.kern := rfl
@[simp] theorem setDie_kernSize (d : Nat) (v : Die) : (s.setDie d v).kernSize = s.kernSize := rfl
@[simp] theorem setDie_hdie (d : Nat) (v : Die) : (s.setDie d v).hdie = s.hdie := rfl

@[simp] theorem setSlice_time (i : Nat) (v : Slice) : (s.setSlice i v).time = s.time := rfl
@[simp] theorem setSlice_agenda (i : Nat) (v : Slice) : (s.setSlice i v).agenda = s.agenda := rfl
@[simp] theorem setSlice_focus (i : Nat) (v : Slice) : (s.setSlice i v).focus = s.focus := rfl
@[simp] theorem setSlice_fresh (i : Nat) (v : Slice) : (s.setSlice i v).fresh = s.fresh := rfl
@[simp] theorem setSlice_nextId (i : Nat) (v : Slice) : (s.setSlice i v).nextId = s.nextId := rfl
@[simp] theorem setSlice_mem (i : Nat) (v : Slice) : (s.setSlice i v).mem = s.mem := rfl
@[simp] theorem setSlice_poison (i : Nat) (v : Slice) : (s.setSlice i v).poison = s.poison := rfl
@[simp] theorem setSlice_warps (i : Nat) (v : Slice) : (s.setSlice i v).warps = s.warps := rfl
@[simp] theorem setSlice_groups (i : Nat) (v : Slice) : (s.setSlice i v).groups = s.groups := rfl
@[simp] theorem setSlice_cores (i : Nat) (v : Slice) : (s.setSlice i v).cores = s.cores := rfl
@[simp] theorem setSlice_results (i : Nat) (v : Slice) : (s.setSlice i v).results = s.results := rfl
@[simp] theorem setSlice_acc (i : Nat) (v : Slice) : (s.setSlice i v).acc = s.acc := rfl
@[simp] theorem setSlice_sleepers (i : Nat) (v : Slice) : (s.setSlice i v).sleepers = s.sleepers := rfl
@[simp] theorem setSlice_commits (i : Nat) (v : Slice) : (s.setSlice i v).commits = s.commits := rfl
@[simp] theorem setSlice_vers (i : Nat) (v : Slice) : (s.setSlice i v).vers = s.vers := rfl
@[simp] theorem setSlice_dir (i : Nat) (v : Slice) : (s.setSlice i v).dir = s.dir := rfl
@[simp] theorem setSlice_l2 (i : Nat) (v : Slice) : (s.setSlice i v).l2 = s.l2 := rfl
@[simp] theorem setSlice_clusters (i : Nat) (v : Slice) : (s.setSlice i v).clusters = s.clusters := rfl
@[simp] theorem setSlice_dies (i : Nat) (v : Slice) : (s.setSlice i v).dies = s.dies := rfl
@[simp] theorem setSlice_ctxs (i : Nat) (v : Slice) : (s.setSlice i v).ctxs = s.ctxs := rfl
@[simp] theorem setSlice_queues (i : Nat) (v : Slice) : (s.setSlice i v).queues = s.queues := rfl
@[simp] theorem setSlice_launches (i : Nat) (v : Slice) : (s.setSlice i v).launches = s.launches := rfl
@[simp] theorem setSlice_phases (i : Nat) (v : Slice) : (s.setSlice i v).phases = s.phases := rfl
@[simp] theorem setSlice_colls (i : Nat) (v : Slice) : (s.setSlice i v).colls = s.colls := rfl
@[simp] theorem setSlice_shootdowns (i : Nat) (v : Slice) : (s.setSlice i v).shootdowns = s.shootdowns := rfl
@[simp] theorem setSlice_fqPosted (i : Nat) (v : Slice) : (s.setSlice i v).fqPosted = s.fqPosted := rfl
@[simp] theorem setSlice_fqHeld (i : Nat) (v : Slice) : (s.setSlice i v).fqHeld = s.fqHeld := rfl
@[simp] theorem setSlice_kern (i : Nat) (v : Slice) : (s.setSlice i v).kern = s.kern := rfl
@[simp] theorem setSlice_kernSize (i : Nat) (v : Slice) : (s.setSlice i v).kernSize = s.kernSize := rfl
@[simp] theorem setSlice_hdie (i : Nat) (v : Slice) : (s.setSlice i v).hdie = s.hdie := rfl

@[simp] theorem setL2_time (i : Nat) (v : L2Slice) : (s.setL2 i v).time = s.time := rfl
@[simp] theorem setL2_agenda (i : Nat) (v : L2Slice) : (s.setL2 i v).agenda = s.agenda := rfl
@[simp] theorem setL2_focus (i : Nat) (v : L2Slice) : (s.setL2 i v).focus = s.focus := rfl
@[simp] theorem setL2_fresh (i : Nat) (v : L2Slice) : (s.setL2 i v).fresh = s.fresh := rfl
@[simp] theorem setL2_nextId (i : Nat) (v : L2Slice) : (s.setL2 i v).nextId = s.nextId := rfl
@[simp] theorem setL2_mem (i : Nat) (v : L2Slice) : (s.setL2 i v).mem = s.mem := rfl
@[simp] theorem setL2_poison (i : Nat) (v : L2Slice) : (s.setL2 i v).poison = s.poison := rfl
@[simp] theorem setL2_warps (i : Nat) (v : L2Slice) : (s.setL2 i v).warps = s.warps := rfl
@[simp] theorem setL2_groups (i : Nat) (v : L2Slice) : (s.setL2 i v).groups = s.groups := rfl
@[simp] theorem setL2_cores (i : Nat) (v : L2Slice) : (s.setL2 i v).cores = s.cores := rfl
@[simp] theorem setL2_results (i : Nat) (v : L2Slice) : (s.setL2 i v).results = s.results := rfl
@[simp] theorem setL2_acc (i : Nat) (v : L2Slice) : (s.setL2 i v).acc = s.acc := rfl
@[simp] theorem setL2_sleepers (i : Nat) (v : L2Slice) : (s.setL2 i v).sleepers = s.sleepers := rfl
@[simp] theorem setL2_commits (i : Nat) (v : L2Slice) : (s.setL2 i v).commits = s.commits := rfl
@[simp] theorem setL2_vers (i : Nat) (v : L2Slice) : (s.setL2 i v).vers = s.vers := rfl
@[simp] theorem setL2_dir (i : Nat) (v : L2Slice) : (s.setL2 i v).dir = s.dir := rfl
@[simp] theorem setL2_clusters (i : Nat) (v : L2Slice) : (s.setL2 i v).clusters = s.clusters := rfl
@[simp] theorem setL2_dies (i : Nat) (v : L2Slice) : (s.setL2 i v).dies = s.dies := rfl
@[simp] theorem setL2_ctxs (i : Nat) (v : L2Slice) : (s.setL2 i v).ctxs = s.ctxs := rfl
@[simp] theorem setL2_queues (i : Nat) (v : L2Slice) : (s.setL2 i v).queues = s.queues := rfl
@[simp] theorem setL2_launches (i : Nat) (v : L2Slice) : (s.setL2 i v).launches = s.launches := rfl
@[simp] theorem setL2_phases (i : Nat) (v : L2Slice) : (s.setL2 i v).phases = s.phases := rfl
@[simp] theorem setL2_slices (i : Nat) (v : L2Slice) : (s.setL2 i v).slices = s.slices := rfl
@[simp] theorem setL2_colls (i : Nat) (v : L2Slice) : (s.setL2 i v).colls = s.colls := rfl
@[simp] theorem setL2_shootdowns (i : Nat) (v : L2Slice) : (s.setL2 i v).shootdowns = s.shootdowns := rfl
@[simp] theorem setL2_fqPosted (i : Nat) (v : L2Slice) : (s.setL2 i v).fqPosted = s.fqPosted := rfl
@[simp] theorem setL2_fqHeld (i : Nat) (v : L2Slice) : (s.setL2 i v).fqHeld = s.fqHeld := rfl
@[simp] theorem setL2_kern (i : Nat) (v : L2Slice) : (s.setL2 i v).kern = s.kern := rfl
@[simp] theorem setL2_kernSize (i : Nat) (v : L2Slice) : (s.setL2 i v).kernSize = s.kernSize := rfl
@[simp] theorem setL2_hdie (i : Nat) (v : L2Slice) : (s.setL2 i v).hdie = s.hdie := rfl

@[simp] theorem setCtx_time (i : Nat) (v : Ctx) : (s.setCtx i v).time = s.time := rfl
@[simp] theorem setCtx_agenda (i : Nat) (v : Ctx) : (s.setCtx i v).agenda = s.agenda := rfl
@[simp] theorem setCtx_focus (i : Nat) (v : Ctx) : (s.setCtx i v).focus = s.focus := rfl
@[simp] theorem setCtx_fresh (i : Nat) (v : Ctx) : (s.setCtx i v).fresh = s.fresh := rfl
@[simp] theorem setCtx_nextId (i : Nat) (v : Ctx) : (s.setCtx i v).nextId = s.nextId := rfl
@[simp] theorem setCtx_mem (i : Nat) (v : Ctx) : (s.setCtx i v).mem = s.mem := rfl
@[simp] theorem setCtx_poison (i : Nat) (v : Ctx) : (s.setCtx i v).poison = s.poison := rfl
@[simp] theorem setCtx_warps (i : Nat) (v : Ctx) : (s.setCtx i v).warps = s.warps := rfl
@[simp] theorem setCtx_groups (i : Nat) (v : Ctx) : (s.setCtx i v).groups = s.groups := rfl
@[simp] theorem setCtx_cores (i : Nat) (v : Ctx) : (s.setCtx i v).cores = s.cores := rfl
@[simp] theorem setCtx_results (i : Nat) (v : Ctx) : (s.setCtx i v).results = s.results := rfl
@[simp] theorem setCtx_acc (i : Nat) (v : Ctx) : (s.setCtx i v).acc = s.acc := rfl
@[simp] theorem setCtx_sleepers (i : Nat) (v : Ctx) : (s.setCtx i v).sleepers = s.sleepers := rfl
@[simp] theorem setCtx_commits (i : Nat) (v : Ctx) : (s.setCtx i v).commits = s.commits := rfl
@[simp] theorem setCtx_vers (i : Nat) (v : Ctx) : (s.setCtx i v).vers = s.vers := rfl
@[simp] theorem setCtx_dir (i : Nat) (v : Ctx) : (s.setCtx i v).dir = s.dir := rfl
@[simp] theorem setCtx_l2 (i : Nat) (v : Ctx) : (s.setCtx i v).l2 = s.l2 := rfl
@[simp] theorem setCtx_clusters (i : Nat) (v : Ctx) : (s.setCtx i v).clusters = s.clusters := rfl
@[simp] theorem setCtx_dies (i : Nat) (v : Ctx) : (s.setCtx i v).dies = s.dies := rfl
@[simp] theorem setCtx_queues (i : Nat) (v : Ctx) : (s.setCtx i v).queues = s.queues := rfl
@[simp] theorem setCtx_launches (i : Nat) (v : Ctx) : (s.setCtx i v).launches = s.launches := rfl
@[simp] theorem setCtx_phases (i : Nat) (v : Ctx) : (s.setCtx i v).phases = s.phases := rfl
@[simp] theorem setCtx_slices (i : Nat) (v : Ctx) : (s.setCtx i v).slices = s.slices := rfl
@[simp] theorem setCtx_colls (i : Nat) (v : Ctx) : (s.setCtx i v).colls = s.colls := rfl
@[simp] theorem setCtx_shootdowns (i : Nat) (v : Ctx) : (s.setCtx i v).shootdowns = s.shootdowns := rfl
@[simp] theorem setCtx_fqPosted (i : Nat) (v : Ctx) : (s.setCtx i v).fqPosted = s.fqPosted := rfl
@[simp] theorem setCtx_fqHeld (i : Nat) (v : Ctx) : (s.setCtx i v).fqHeld = s.fqHeld := rfl
@[simp] theorem setCtx_kern (i : Nat) (v : Ctx) : (s.setCtx i v).kern = s.kern := rfl
@[simp] theorem setCtx_kernSize (i : Nat) (v : Ctx) : (s.setCtx i v).kernSize = s.kernSize := rfl
@[simp] theorem setCtx_hdie (i : Nat) (v : Ctx) : (s.setCtx i v).hdie = s.hdie := rfl

@[simp] theorem count_time (k n : Nat) : (s.count k n).time = s.time := rfl
@[simp] theorem count_agenda (k n : Nat) : (s.count k n).agenda = s.agenda := rfl
@[simp] theorem count_focus (k n : Nat) : (s.count k n).focus = s.focus := rfl
@[simp] theorem count_fresh (k n : Nat) : (s.count k n).fresh = s.fresh := rfl
@[simp] theorem count_nextId (k n : Nat) : (s.count k n).nextId = s.nextId := rfl
@[simp] theorem count_mem (k n : Nat) : (s.count k n).mem = s.mem := rfl
@[simp] theorem count_poison (k n : Nat) : (s.count k n).poison = s.poison := rfl
@[simp] theorem count_warps (k n : Nat) : (s.count k n).warps = s.warps := rfl
@[simp] theorem count_groups (k n : Nat) : (s.count k n).groups = s.groups := rfl
@[simp] theorem count_cores (k n : Nat) : (s.count k n).cores = s.cores := rfl
@[simp] theorem count_results (k n : Nat) : (s.count k n).results = s.results := rfl
@[simp] theorem count_acc (k n : Nat) : (s.count k n).acc = s.acc := rfl
@[simp] theorem count_sleepers (k n : Nat) : (s.count k n).sleepers = s.sleepers := rfl
@[simp] theorem count_commits (k n : Nat) : (s.count k n).commits = s.commits := rfl
@[simp] theorem count_vers (k n : Nat) : (s.count k n).vers = s.vers := rfl
@[simp] theorem count_dir (k n : Nat) : (s.count k n).dir = s.dir := rfl
@[simp] theorem count_l2 (k n : Nat) : (s.count k n).l2 = s.l2 := rfl
@[simp] theorem count_clusters (k n : Nat) : (s.count k n).clusters = s.clusters := rfl
@[simp] theorem count_dies (k n : Nat) : (s.count k n).dies = s.dies := rfl
@[simp] theorem count_ctxs (k n : Nat) : (s.count k n).ctxs = s.ctxs := rfl
@[simp] theorem count_queues (k n : Nat) : (s.count k n).queues = s.queues := rfl
@[simp] theorem count_launches (k n : Nat) : (s.count k n).launches = s.launches := rfl
@[simp] theorem count_phases (k n : Nat) : (s.count k n).phases = s.phases := rfl
@[simp] theorem count_slices (k n : Nat) : (s.count k n).slices = s.slices := rfl
@[simp] theorem count_colls (k n : Nat) : (s.count k n).colls = s.colls := rfl
@[simp] theorem count_shootdowns (k n : Nat) : (s.count k n).shootdowns = s.shootdowns := rfl
@[simp] theorem count_fqPosted (k n : Nat) : (s.count k n).fqPosted = s.fqPosted := rfl
@[simp] theorem count_fqHeld (k n : Nat) : (s.count k n).fqHeld = s.fqHeld := rfl
@[simp] theorem count_kern (k n : Nat) : (s.count k n).kern = s.kern := rfl
@[simp] theorem count_kernSize (k n : Nat) : (s.count k n).kernSize = s.kernSize := rfl

@[simp] theorem send_time (o : Output) : (s.send o).time = s.time := rfl
@[simp] theorem send_agenda (o : Output) : (s.send o).agenda = s.agenda := rfl
@[simp] theorem send_focus (o : Output) : (s.send o).focus = s.focus := rfl
@[simp] theorem send_fresh (o : Output) : (s.send o).fresh = s.fresh := rfl
@[simp] theorem send_nextId (o : Output) : (s.send o).nextId = s.nextId := rfl
@[simp] theorem send_mem (o : Output) : (s.send o).mem = s.mem := rfl
@[simp] theorem send_poison (o : Output) : (s.send o).poison = s.poison := rfl
@[simp] theorem send_warps (o : Output) : (s.send o).warps = s.warps := rfl
@[simp] theorem send_groups (o : Output) : (s.send o).groups = s.groups := rfl
@[simp] theorem send_cores (o : Output) : (s.send o).cores = s.cores := rfl
@[simp] theorem send_results (o : Output) : (s.send o).results = s.results := rfl
@[simp] theorem send_acc (o : Output) : (s.send o).acc = s.acc := rfl
@[simp] theorem send_sleepers (o : Output) : (s.send o).sleepers = s.sleepers := rfl
@[simp] theorem send_commits (o : Output) : (s.send o).commits = s.commits := rfl
@[simp] theorem send_vers (o : Output) : (s.send o).vers = s.vers := rfl
@[simp] theorem send_dir (o : Output) : (s.send o).dir = s.dir := rfl
@[simp] theorem send_l2 (o : Output) : (s.send o).l2 = s.l2 := rfl
@[simp] theorem send_clusters (o : Output) : (s.send o).clusters = s.clusters := rfl
@[simp] theorem send_dies (o : Output) : (s.send o).dies = s.dies := rfl
@[simp] theorem send_ctxs (o : Output) : (s.send o).ctxs = s.ctxs := rfl
@[simp] theorem send_queues (o : Output) : (s.send o).queues = s.queues := rfl
@[simp] theorem send_launches (o : Output) : (s.send o).launches = s.launches := rfl
@[simp] theorem send_phases (o : Output) : (s.send o).phases = s.phases := rfl
@[simp] theorem send_slices (o : Output) : (s.send o).slices = s.slices := rfl
@[simp] theorem send_colls (o : Output) : (s.send o).colls = s.colls := rfl
@[simp] theorem send_shootdowns (o : Output) : (s.send o).shootdowns = s.shootdowns := rfl
@[simp] theorem send_fqPosted (o : Output) : (s.send o).fqPosted = s.fqPosted := rfl
@[simp] theorem send_fqHeld (o : Output) : (s.send o).fqHeld = s.fqHeld := rfl
@[simp] theorem send_kern (o : Output) : (s.send o).kern = s.kern := rfl
@[simp] theorem send_kernSize (o : Output) : (s.send o).kernSize = s.kernSize := rfl

@[simp] theorem takeId_time : (s.takeId).2.time = s.time := rfl
@[simp] theorem takeId_agenda : (s.takeId).2.agenda = s.agenda := rfl
@[simp] theorem takeId_focus : (s.takeId).2.focus = s.focus := rfl
@[simp] theorem takeId_fresh : (s.takeId).2.fresh = s.fresh := rfl
@[simp] theorem takeId_mem : (s.takeId).2.mem = s.mem := rfl
@[simp] theorem takeId_poison : (s.takeId).2.poison = s.poison := rfl
@[simp] theorem takeId_warps : (s.takeId).2.warps = s.warps := rfl
@[simp] theorem takeId_groups : (s.takeId).2.groups = s.groups := rfl
@[simp] theorem takeId_cores : (s.takeId).2.cores = s.cores := rfl
@[simp] theorem takeId_results : (s.takeId).2.results = s.results := rfl
@[simp] theorem takeId_acc : (s.takeId).2.acc = s.acc := rfl
@[simp] theorem takeId_sleepers : (s.takeId).2.sleepers = s.sleepers := rfl
@[simp] theorem takeId_commits : (s.takeId).2.commits = s.commits := rfl
@[simp] theorem takeId_vers : (s.takeId).2.vers = s.vers := rfl
@[simp] theorem takeId_dir : (s.takeId).2.dir = s.dir := rfl
@[simp] theorem takeId_l2 : (s.takeId).2.l2 = s.l2 := rfl
@[simp] theorem takeId_clusters : (s.takeId).2.clusters = s.clusters := rfl
@[simp] theorem takeId_dies : (s.takeId).2.dies = s.dies := rfl
@[simp] theorem takeId_ctxs : (s.takeId).2.ctxs = s.ctxs := rfl
@[simp] theorem takeId_queues : (s.takeId).2.queues = s.queues := rfl
@[simp] theorem takeId_launches : (s.takeId).2.launches = s.launches := rfl
@[simp] theorem takeId_phases : (s.takeId).2.phases = s.phases := rfl
@[simp] theorem takeId_slices : (s.takeId).2.slices = s.slices := rfl
@[simp] theorem takeId_colls : (s.takeId).2.colls = s.colls := rfl
@[simp] theorem takeId_shootdowns : (s.takeId).2.shootdowns = s.shootdowns := rfl
@[simp] theorem takeId_fqPosted : (s.takeId).2.fqPosted = s.fqPosted := rfl
@[simp] theorem takeId_fqHeld : (s.takeId).2.fqHeld = s.fqHeld := rfl
@[simp] theorem takeId_kern : (s.takeId).2.kern = s.kern := rfl
@[simp] theorem takeId_kernSize : (s.takeId).2.kernSize = s.kernSize := rfl
@[simp] theorem takeId_hdie : (s.takeId).2.hdie = s.hdie := rfl

@[simp] theorem takeFree_time (n : Nat) : (s.takeFree n).2.time = s.time := rfl
@[simp] theorem takeFree_agenda (n : Nat) : (s.takeFree n).2.agenda = s.agenda := rfl
@[simp] theorem takeFree_focus (n : Nat) : (s.takeFree n).2.focus = s.focus := rfl
@[simp] theorem takeFree_nextId (n : Nat) : (s.takeFree n).2.nextId = s.nextId := rfl
@[simp] theorem takeFree_mem (n : Nat) : (s.takeFree n).2.mem = s.mem := rfl
@[simp] theorem takeFree_poison (n : Nat) : (s.takeFree n).2.poison = s.poison := rfl
@[simp] theorem takeFree_warps (n : Nat) : (s.takeFree n).2.warps = s.warps := rfl
@[simp] theorem takeFree_groups (n : Nat) : (s.takeFree n).2.groups = s.groups := rfl
@[simp] theorem takeFree_cores (n : Nat) : (s.takeFree n).2.cores = s.cores := rfl
@[simp] theorem takeFree_results (n : Nat) : (s.takeFree n).2.results = s.results := rfl
@[simp] theorem takeFree_acc (n : Nat) : (s.takeFree n).2.acc = s.acc := rfl
@[simp] theorem takeFree_sleepers (n : Nat) : (s.takeFree n).2.sleepers = s.sleepers := rfl
@[simp] theorem takeFree_commits (n : Nat) : (s.takeFree n).2.commits = s.commits := rfl
@[simp] theorem takeFree_vers (n : Nat) : (s.takeFree n).2.vers = s.vers := rfl
@[simp] theorem takeFree_dir (n : Nat) : (s.takeFree n).2.dir = s.dir := rfl
@[simp] theorem takeFree_l2 (n : Nat) : (s.takeFree n).2.l2 = s.l2 := rfl
@[simp] theorem takeFree_clusters (n : Nat) : (s.takeFree n).2.clusters = s.clusters := rfl
@[simp] theorem takeFree_dies (n : Nat) : (s.takeFree n).2.dies = s.dies := rfl
@[simp] theorem takeFree_ctxs (n : Nat) : (s.takeFree n).2.ctxs = s.ctxs := rfl
@[simp] theorem takeFree_queues (n : Nat) : (s.takeFree n).2.queues = s.queues := rfl
@[simp] theorem takeFree_launches (n : Nat) : (s.takeFree n).2.launches = s.launches := rfl
@[simp] theorem takeFree_phases (n : Nat) : (s.takeFree n).2.phases = s.phases := rfl
@[simp] theorem takeFree_slices (n : Nat) : (s.takeFree n).2.slices = s.slices := rfl
@[simp] theorem takeFree_colls (n : Nat) : (s.takeFree n).2.colls = s.colls := rfl
@[simp] theorem takeFree_shootdowns (n : Nat) : (s.takeFree n).2.shootdowns = s.shootdowns := rfl
@[simp] theorem takeFree_fqPosted (n : Nat) : (s.takeFree n).2.fqPosted = s.fqPosted := rfl
@[simp] theorem takeFree_fqHeld (n : Nat) : (s.takeFree n).2.fqHeld = s.fqHeld := rfl
@[simp] theorem takeFree_kern (n : Nat) : (s.takeFree n).2.kern = s.kern := rfl
@[simp] theorem takeFree_kernSize (n : Nat) : (s.takeFree n).2.kernSize = s.kernSize := rfl
@[simp] theorem takeFree_hdie (n : Nat) : (s.takeFree n).2.hdie = s.hdie := rfl

/-! ### Reading what was written -/

@[simp] theorem core_setCore (c : Nat) (v : Core) : (s.setCore c v).core c = v := by simp [core, setCore]
theorem core_setCore_ne {c d : Nat} (v : Core) (h : d ≠ c) : (s.setCore c v).core d = s.core d := by
  simp [core, setCore, Map.getD_set_ne _ _ _ h]
@[simp] theorem warp?_setWarp (c w : Nat) (v : Warp) : (s.setWarp c w v).warp? c w = some v := by simp [warp?, setWarp]
theorem warp?_setWarp_ne {c w d x : Nat} (v : Warp) (h : 256 * d + x ≠ 256 * c + w) :
    (s.setWarp c w v).warp? d x = s.warp? d x := by simp [warp?, setWarp, Map.get?_set_ne _ _ h]
@[simp] theorem warp?_setCore (c d x : Nat) (v : Core) : (s.setCore c v).warp? d x = s.warp? d x := rfl
@[simp] theorem core_setWarp (c w d : Nat) (v : Warp) : (s.setWarp c w v).core d = s.core d := rfl
@[simp] theorem group?_setGroup (c g : Nat) (v : Group) : (s.setGroup c g v).group? c g = some v := by simp [group?, setGroup]
@[simp] theorem group?_setWarp (c w d g : Nat) (v : Warp) : (s.setWarp c w v).group? d g = s.group? d g := rfl
@[simp] theorem group?_setCore (c d g : Nat) (v : Core) : (s.setCore c v).group? d g = s.group? d g := rfl
@[simp] theorem cluster_setCluster (c : Nat) (v : Cluster) : (s.setCluster c v).cluster c = v := by simp [cluster, setCluster]
theorem cluster_setCluster_ne {c d : Nat} (v : Cluster) (h : d ≠ c) : (s.setCluster c v).cluster d = s.cluster d := by
  simp [cluster, setCluster, Map.getD_set_ne _ _ _ h]
@[simp] theorem die_setDie (d : Nat) (v : Die) : (s.setDie d v).die d = v := by simp [die, setDie]
@[simp] theorem slice_setSlice (i : Nat) (v : Slice) : (s.setSlice i v).slice i = v := by simp [slice, setSlice]
theorem slice_setSlice_ne {i j : Nat} (v : Slice) (h : j ≠ i) : (s.setSlice i v).slice j = s.slice j := by
  simp [slice, setSlice, Map.getD_set_ne _ _ _ h]
@[simp] theorem l2slice_setL2 (i : Nat) (v : L2Slice) : (s.setL2 i v).l2slice i = v := by simp [l2slice, setL2]
@[simp] theorem ctx?_setCtx (i : Nat) (v : Ctx) : (s.setCtx i v).ctx? i = some v := by simp [ctx?, setCtx]
theorem ctx?_setCtx_ne {i j : Nat} (v : Ctx) (h : j ≠ i) : (s.setCtx i v).ctx? j = s.ctx? j := by
  simp [ctx?, setCtx, Map.get?_set_ne _ _ h]

end Machine.State

end Sys2Proof
end

