-- ==== Sys2Proof/Laws/Issue.lean ====
section
/-! SUPPORT. What the shared forms of the lane and scalar-core instructions do: when an instruction issues, and what it
then hands over. -/

namespace Sys2Proof.Machine

open Safety

/-- With a warp in focus of which some thread executes, the instruction's body runs. -/
theorem State.onWarp_runs {s : State} {c slot : Nat} {wp : Warp} (f : Nat → Nat → Warp → State)
    (hf : s.focus = .warp c slot) (hw : s.warp? c slot = some wp) (he : wp.executing.isEmpty = false) :
    s.onWarp f = .next (f c slot wp) := by
  simp [State.onWarp, hf, hw, he]

/-- With a warp in focus a lane instruction ends in a next state. -/
theorem State.onWarp_goes {s : State} {c slot : Nat} {wp : Warp} (f : Nat → Nat → Warp → State)
    (hf : s.focus = .warp c slot) (hw : s.warp? c slot = some wp) : ∃ t, s.onWarp f = .next t := by
  simp [State.onWarp, hf, hw]

/-- Without a warp in focus it stops. -/
theorem State.onWarp_stops {s : State} (f : Nat → Nat → Warp → State) (hf : ∀ c slot, s.focus ≠ .warp c slot) :
    s.onWarp f = .fault .noIssuer := by
  unfold State.onWarp
  cases h : s.focus with
  | warp c slot => exact absurd h (hf c slot)
  | device => rfl
  | scalar c st => rfl

/-- What `issuedBy` says. -/
theorem issuedBy_spec {s : State} {op : Nat} {o : Ops} {elected tx : Bool} {g : Roles → Roles} {j : Issued}
    (h : issuedBy s op o elected tx g = some j) :
    s.focus = .warp j.c j.slot ∧ s.warp? j.c j.slot = some j.wp ∧ j.wp.executing.isEmpty = false ∧
    rolesOf op o = some j.r ∧ (tx = true → j.wp.inGambit o = []) ∧
    s.prep j.c j.slot j.wp (g j.r) o elected [] = (.go j.p, j.s) ∧ j.p.faults = [] := by
  unfold issuedBy at h
  split at h
  · rename_i c slot hf
    split at h
    · rename_i wp r hw hr
      split at h
      · cases h
      · rename_i hg
        split at h
        · rename_i p s' hp
          split at h
          · rename_i hn
            cases h
            simp only [Bool.or_eq_true, Bool.and_eq_true, Bool.not_eq_true', not_or, not_and, Bool.not_eq_true,
              Bool.not_eq_false] at hg
            refine ⟨hf, hw, hg.1, hr, ?_, hp, by simpa using hn⟩
            intro ht
            simpa using hg.2 ht
          · cases h
        · cases h
    · cases h
  · cases h
  · cases h

/-- The shared form runs its body on the values read. -/
theorem State.issueWith_runs {s : State} {op : Nat} {o : Ops} {elected tx : Bool} {g : Roles → Roles} {j : Issued}
    (k : Nat → Nat → Warp → Roles → Prep → State → State) (h : issuedBy s op o elected tx g = some j) :
    s.issueWith op o elected tx g k = .next (k j.c j.slot j.wp j.r j.p j.s) := by
  obtain ⟨hf, hw, he, hr, ht, hp, -⟩ := issuedBy_spec h
  unfold State.issueWith
  rw [State.onWarp_runs _ hf hw he]
  cases tx with
  | false => simp [hr, hp]
  | true => simp [hr, ht rfl, hp]

theorem State.issue_runs {s : State} {op : Nat} {o : Ops} {elected : Bool} {j : Issued}
    (k : Nat → Nat → Warp → Roles → Prep → State → State) (h : issued s op o elected false = some j) :
    s.issue op o elected k = .next (k j.c j.slot j.wp j.r j.p j.s) := State.issueWith_runs k h

theorem State.issueTx_runs {s : State} {op : Nat} {o : Ops} {elected : Bool} {j : Issued}
    (k : Nat → Nat → Warp → Roles → Prep → State → State) (h : issued s op o elected true = some j) :
    s.issueTx op o elected k = .next (k j.c j.slot j.wp j.r j.p j.s) := State.issueWith_runs k h

/-- The faults of an instruction that issued: none were found at its reads. -/
theorem issued_faults {s : State} {op : Nat} {o : Ops} {elected tx : Bool} {j : Issued}
    (h : issued s op o elected tx = some j) : j.p.faults = [] := (issuedBy_spec h).2.2.2.2.2.2

/-- A lane instruction with a warp in focus ends in a next state. -/
theorem State.issueWith_goes {s : State} {c slot : Nat} {wp : Warp} (op : Nat) (o : Ops) (elected tx : Bool)
    (g : Roles → Roles) (k : Nat → Nat → Warp → Roles → Prep → State → State)
    (hf : s.focus = .warp c slot) (hw : s.warp? c slot = some wp) : ∃ t, s.issueWith op o elected tx g k = .next t :=
  State.onWarp_goes _ hf hw

/-- The scalar core in focus executes. -/
theorem State.scalarIssue_runs {s : State} {c : Nat} {storer : Bool} {k : Scalar} (f : Nat → Bool → Scalar → State)
    (h : scalarOn s = some (c, storer, k)) : s.scalarIssue f = .next (f c storer k) := by
  unfold scalarOn at h
  unfold State.scalarIssue
  cases hf : s.focus <;> rw [hf] at h <;> simp_all
  obtain ⟨rfl, rfl, rfl⟩ := h
  rfl

/-- What moves when nobody faults: the threads of `ms` go where they say, the others of the executing threads advance. -/
theorem Prep.moving_nil (p : Prep) : p.moving [] = p.exec := by simp [Prep.moving]

/-- Where no value faults, the computing instructions write their values, and every executing thread advances. -/
theorem State.alu_runs {s : State} {op : Nat} {o : Ops} {each : Nat} {f : Vals → AluRes} {j : Issued}
    {rs : List (Nat × Nat × XFlags)} (h : issued s op o false false = some j)
    (hr : j.p.vals.map (fun x => (x.1, f x.2)) = rs.map fun x => (x.1, AluRes.ok x.2.1 x.2.2)) :
    s.alu op o each f = .next (j.ends op o ((j.wp.writeAll (Ops.dst o j.r) rs).nextPc j.p.exec o.form.len)
      (j.wp.aluAc j.r o j.p.exec each)) := by
  have none_ : ∀ l : List (Nat × Nat × XFlags), l.filterMap (fun _ => (none : Option Flt)) = [] := fun l => by
    induction l <;> simp_all
  have some_ : ∀ l : List (Nat × Nat × XFlags), l.filterMap (fun x => some (x.1, x.2.1, x.2.2)) = l := fun l => by
    induction l <;> simp_all
  unfold State.alu
  rw [State.issue_runs _ h]
  simp only [hr, issued_faults h, List.nil_append, List.filterMap_map, Function.comp_def, none_, some_, Prep.moving_nil,
    Issued.ends]

end Sys2Proof.Machine
end

