-- ==== Sys2Proof/Laws/Memory.lean ====
section
/-! SUPPORT. Memory: what a write changes and leaves alone, and that every operation keeps the canonical form. -/

namespace Sys2Proof.Machine

namespace Memory

@[simp] theorem get_nil (a : Nat) : get [] a = blank := rfl

theorem get_cons (k : Nat) (v : Byte) (m : Memory) (a : Nat) : get ((k, v) :: m) a = if k = a then v else get m a := rfl

/-! ### The canonical form -/

/-- From a higher address on is from a lower one on. -/
theorem wfFrom_mono {m : Memory} {lo hi : Nat} (h : hi ≤ lo) (w : wfFrom lo m = true) : wfFrom hi m = true := by
  cases m with
  | nil => rfl
  | cons x m =>
    obtain ⟨k, v⟩ := x
    simp only [wfFrom, Bool.and_eq_true, decide_eq_true_eq] at w ⊢
    exact ⟨⟨by omega, w.1.2⟩, w.2⟩

/-- Nothing is listed below the first address. -/
theorem get_below {m : Memory} {lo a : Nat} (w : wfFrom lo m = true) (h : a < lo) : get m a = blank := by
  induction m generalizing lo with
  | nil => rfl
  | cons x m ih =>
    obtain ⟨k, v⟩ := x
    simp only [wfFrom, Bool.and_eq_true, decide_eq_true_eq] at w
    rw [get_cons, if_neg (by omega)]
    exact ih w.2 (by omega)

theorem wfFrom_erase {m : Memory} {lo : Nat} (a : Nat) (w : wfFrom lo m = true) : wfFrom lo (erase m a) = true := by
  induction m generalizing lo with
  | nil => rfl
  | cons x m ih =>
    obtain ⟨k, v⟩ := x
    simp only [wfFrom, Bool.and_eq_true, decide_eq_true_eq] at w
    simp only [erase]
    split
    · exact wfFrom_mono (by omega) w.2
    · simp only [wfFrom, Bool.and_eq_true, decide_eq_true_eq]
      exact ⟨w.1, ih w.2⟩

theorem wfFrom_insert {m : Memory} {lo a : Nat} {b : Byte} (w : wfFrom lo m = true) (h : lo ≤ a) (hb : b ≠ blank) :
    wfFrom lo (insert m a b) = true := by
  induction m generalizing lo with
  | nil => simp [insert, wfFrom, h, hb]
  | cons x m ih =>
    obtain ⟨k, v⟩ := x
    have w' := w
    simp only [wfFrom, Bool.and_eq_true, decide_eq_true_eq] at w'
    simp only [insert]
    split
    · simp only [wfFrom, Bool.and_eq_true, decide_eq_true_eq]
      exact ⟨⟨h, hb⟩, ⟨by omega, w'.1.2⟩, w'.2⟩
    · split
      · subst a
        simp only [wfFrom, Bool.and_eq_true, decide_eq_true_eq]
        exact ⟨⟨h, hb⟩, w'.2⟩
      · simp only [wfFrom, Bool.and_eq_true, decide_eq_true_eq]
        exact ⟨w'.1, ih w'.2 (by omega)⟩

/-- A byte written keeps the form. -/
theorem wf_put {m : Memory} (a : Nat) (b : Byte) (w : m.wf = true) : (m.put a b).wf = true := by
  unfold put
  split
  · exact wfFrom_erase a w
  · exact wfFrom_insert w (Nat.zero_le a) ‹_›

/-- Bytes written keep the form. -/
theorem wf_write {m : Memory} (a : Nat) (bs : List Byte) (w : m.wf = true) : (m.write a bs).wf = true := by
  induction bs generalizing m a with
  | nil => exact w
  | cons b bs ih => exact ih (a + 1) (wf_put a b w)

theorem wf_writeNat {m : Memory} (a n v : Nat) (w : m.wf = true) : (m.writeNat a n v).wf = true := wf_write a _ w

/-- Bytes written under a mask keep the form. -/
theorem wf_writeMasked {m : Memory} (a mask : Nat) (bs : List Byte) (w : m.wf = true) : (m.writeMasked a mask bs).wf = true := by
  induction bs generalizing m a mask with
  | nil => exact w
  | cons b bs ih =>
    simp only [writeMasked]
    split
    · exact ih _ _ (wf_put a b w)
    · exact ih _ _ w

/-- Memory at reset has the form. -/
theorem wf_reset : State.reset.mem.wf = true := rfl

/-! ### Reads after writes -/

theorem get_insert_same (m : Memory) (a : Nat) (b : Byte) : get (insert m a b) a = b := by
  induction m with
  | nil => simp [insert, get]
  | cons x m ih =>
    obtain ⟨k, v⟩ := x
    simp only [insert]
    split
    · simp [get]
    · split
      · simp [get]
      · rw [get_cons, if_neg (by omega)]; exact ih

theorem get_insert_ne (m : Memory) {a c : Nat} (b : Byte) (h : c ≠ a) : get (insert m a b) c = get m c := by
  induction m with
  | nil => simp [insert, get, Ne.symm h]
  | cons x m ih =>
    obtain ⟨k, v⟩ := x
    simp only [insert]
    split
    · simp [get, Ne.symm h]
    · split
      · subst a; simp [get, Ne.symm h]
      · simp [get, ih]

theorem get_erase_same {m : Memory} {lo : Nat} (a : Nat) (w : wfFrom lo m = true) : get (erase m a) a = blank := by
  induction m generalizing lo with
  | nil => rfl
  | cons x m ih =>
    obtain ⟨k, v⟩ := x
    simp only [wfFrom, Bool.and_eq_true, decide_eq_true_eq] at w
    simp only [erase]
    split
    · subst k; exact get_below w.2 (by omega)
    · rw [get_cons, if_neg (by assumption)]; exact ih w.2

theorem get_erase_ne (m : Memory) {a c : Nat} (h : c ≠ a) : get (erase m a) c = get m c := by
  induction m with
  | nil => rfl
  | cons x m ih =>
    obtain ⟨k, v⟩ := x
    simp only [erase]
    split
    · subst k; simp [get, Ne.symm h]
    · simp [get, ih]

/-- A byte written is read. -/
theorem get_put_same {m : Memory} (a : Nat) (b : Byte) (w : m.wf = true) : (m.put a b).get a = b := by
  unfold put
  split
  · subst b; exact get_erase_same a w
  · exact get_insert_same m a b

/-- Every other byte is as before. -/
theorem get_put_ne (m : Memory) {a c : Nat} (b : Byte) (h : c ≠ a) : (m.put a b).get c = m.get c := by
  unfold put
  split
  · exact get_erase_ne m h
  · exact get_insert_ne m b h

/-- Bytes outside a write are as before. -/
theorem get_write_outside (m : Memory) {a c : Nat} (bs : List Byte) (h : c < a ∨ a + bs.length ≤ c) :
    (m.write a bs).get c = m.get c := by
  induction bs generalizing m a with
  | nil => rfl
  | cons b bs ih =>
    simp only [List.length_cons] at h
    simp only [write]
    rw [ih (m.put a b) (by omega), get_put_ne m b (by omega)]

/-- The bytes of a write are read. -/
theorem get_write_inside {m : Memory} (a : Nat) (bs : List Byte) (w : m.wf = true) {i : Nat} (h : i < bs.length) :
    (m.write a bs).get (a + i) = bs[i] := by
  induction bs generalizing m a i with
  | nil => exact absurd h (by simp)
  | cons b bs ih =>
    simp only [write]
    cases i with
    | zero => rw [get_write_outside _ _ (by omega), Nat.add_zero, get_put_same a b w]; rfl
    | succ i =>
      have := ih (a + 1) (wf_put a b w) (i := i) (by simpa using h)
      rw [show a + (i + 1) = a + 1 + i by omega, this]; rfl

theorem length_read (m : Memory) (a n : Nat) : (m.read a n).length = n := by
  induction n generalizing a with
  | zero => rfl
  | succ n ih => simp [read, ih]

/-- What was written is read back whole. -/
theorem read_write (m : Memory) (a : Nat) (bs : List Byte) (w : m.wf = true) : (m.write a bs).read a bs.length = bs := by
  induction bs generalizing m a with
  | nil => rfl
  | cons b bs ih =>
    simp only [write, List.length_cons, read]
    rw [get_write_outside _ _ (by omega), get_put_same a b w, ih (m.put a b) (a + 1) (wf_put a b w)]

end Memory

end Sys2Proof.Machine
end

