-- ==== Sys2Proof/Laws/PerInstr.lean ====
section
/-! SUPPORT. Facts about every instruction as syntax, one lemma per constructor. -/

namespace Sys2Proof

/-- The words of a lane instruction are as many as its form has. -/
theorem Ops.length_encode (op : Nat) (o : Ops) : (o.encode op).length = o.form.len / 4 := by
  have h : o.litWords.length = 2 := by unfold Ops.litWords; split <;> rfl
  cases hf : o.form <;> simp [Ops.encode, hf, Form.len, h]

/-- A lane instruction is encoded by its major and operands, is well formed where those are and name it, and has the words of
its form; what is no lane instruction has at most five words. -/
def Laws.Encoding.Statement (i : Instr) : Prop :=
  match i.lane? with
  | some (op, o) => encode i = o.encode op ∧ i.wf = (o.wf op && decide (build op o.x o.t o = some i)) ∧
      (encode i).length = o.form.len / 4
  | none => (encode i).length ≤ 5

namespace Laws.Encoding

theorem nop (form : Form) (w0 w1 w2 : Word) (lit : DWord) : Statement (.nop form w0 w1 w2 lit) := by
  cases form
  · exact (by decide : 1 ≤ 5)
  · exact (by decide : 3 ≤ 5)
  · exact (by decide : 3 ≤ 5)
  · exact (by decide : 5 ≤ 5)
theorem add (o : Ops) : Statement (.add o) := ⟨rfl, rfl, Ops.length_encode _ _⟩
theorem sub (o : Ops) : Statement (.sub o) := ⟨rfl, rfl, Ops.length_encode _ _⟩
theorem mul (o : Ops) : Statement (.mul o) := ⟨rfl, rfl, Ops.length_encode _ _⟩
theorem mulhn (o : Ops) : Statement (.mulhn o) := ⟨rfl, rfl, Ops.length_encode _ _⟩
theorem fma (o : Ops) : Statement (.fma o) := ⟨rfl, rfl, Ops.length_encode _ _⟩
theorem min (o : Ops) : Statement (.min o) := ⟨rfl, rfl, Ops.length_encode _ _⟩
theorem max (o : Ops) : Statement (.max o) := ⟨rfl, rfl, Ops.length_encode _ _⟩
theorem and (o : Ops) : Statement (.and o) := ⟨rfl, rfl, Ops.length_encode _ _⟩
theorem or (o : Ops) : Statement (.or o) := ⟨rfl, rfl, Ops.length_encode _ _⟩
theorem xor (o : Ops) : Statement (.xor o) := ⟨rfl, rfl, Ops.length_encode _ _⟩
theorem andn (o : Ops) : Statement (.andn o) := ⟨rfl, rfl, Ops.length_encode _ _⟩
theorem shl (o : Ops) : Statement (.shl o) := ⟨rfl, rfl, Ops.length_encode _ _⟩
theorem shr (o : Ops) : Statement (.shr o) := ⟨rfl, rfl, Ops.length_encode _ _⟩
theorem rot (o : Ops) : Statement (.rot o) := ⟨rfl, rfl, Ops.length_encode _ _⟩
theorem bits (o : Ops) : Statement (.bits o) := ⟨rfl, rfl, Ops.length_encode _ _⟩
theorem bfx (o : Ops) : Statement (.bfx o) := ⟨rfl, rfl, Ops.length_encode _ _⟩
theorem bfi (o : Ops) : Statement (.bfi o) := ⟨rfl, rfl, Ops.length_encode _ _⟩
theorem add64 (o : Ops) : Statement (.add64 o) := ⟨rfl, rfl, Ops.length_encode _ _⟩
theorem sub64 (o : Ops) : Statement (.sub64 o) := ⟨rfl, rfl, Ops.length_encode _ _⟩
theorem mul64 (o : Ops) : Statement (.mul64 o) := ⟨rfl, rfl, Ops.length_encode _ _⟩
theorem fma64 (o : Ops) : Statement (.fma64 o) := ⟨rfl, rfl, Ops.length_encode _ _⟩
theorem div (o : Ops) : Statement (.div o) := ⟨rfl, rfl, Ops.length_encode _ _⟩
theorem rem (o : Ops) : Statement (.rem o) := ⟨rfl, rfl, Ops.length_encode _ _⟩
theorem cmp (o : Ops) : Statement (.cmp o) := ⟨rfl, rfl, Ops.length_encode _ _⟩
theorem cmp64 (o : Ops) : Statement (.cmp64 o) := ⟨rfl, rfl, Ops.length_encode _ _⟩
theorem sel (o : Ops) : Statement (.sel o) := ⟨rfl, rfl, Ops.length_encode _ _⟩
theorem mov (o : Ops) : Statement (.mov o) := ⟨rfl, rfl, Ops.length_encode _ _⟩
theorem movFirst (o : Ops) : Statement (.movFirst o) := ⟨rfl, rfl, Ops.length_encode _ _⟩
theorem movFrom (o : Ops) : Statement (.movFrom o) := ⟨rfl, rfl, Ops.length_encode _ _⟩
theorem cvt (o : Ops) : Statement (.cvt o) := ⟨rfl, rfl, Ops.length_encode _ _⟩
theorem fun_ (o : Ops) : Statement (.fun_ o) := ⟨rfl, rfl, Ops.length_encode _ _⟩
theorem shfl (o : Ops) : Statement (.shfl o) := ⟨rfl, rfl, Ops.length_encode _ _⟩
theorem redux (o : Ops) : Statement (.redux o) := ⟨rfl, rfl, Ops.length_encode _ _⟩
theorem scan (o : Ops) : Statement (.scan o) := ⟨rfl, rfl, Ops.length_encode _ _⟩
theorem vote (o : Ops) : Statement (.vote o) := ⟨rfl, rfl, Ops.length_encode _ _⟩
theorem getx (o : Ops) : Statement (.getx o) := ⟨rfl, rfl, Ops.length_encode _ _⟩
theorem putx (o : Ops) : Statement (.putx o) := ⟨rfl, rfl, Ops.length_encode _ _⟩
theorem lea (o : Ops) : Statement (.lea o) := ⟨rfl, rfl, Ops.length_encode _ _⟩
theorem plog (o : Ops) : Statement (.plog o) := ⟨rfl, rfl, Ops.length_encode _ _⟩
theorem bra (o : Ops) : Statement (.bra o) := ⟨rfl, rfl, Ops.length_encode _ _⟩
theorem braAlways (o : Ops) : Statement (.braAlways o) := ⟨rfl, rfl, Ops.length_encode _ _⟩
theorem braInd (o : Ops) : Statement (.braInd o) := ⟨rfl, rfl, Ops.length_encode _ _⟩
theorem brau (o : Ops) : Statement (.brau o) := ⟨rfl, rfl, Ops.length_encode _ _⟩
theorem call (o : Ops) : Statement (.call o) := ⟨rfl, rfl, Ops.length_encode _ _⟩
theorem calli (o : Ops) : Statement (.calli o) := ⟨rfl, rfl, Ops.length_encode _ _⟩
theorem ret (o : Ops) : Statement (.ret o) := ⟨rfl, rfl, Ops.length_encode _ _⟩
theorem frame (o : Ops) : Statement (.frame o) := ⟨rfl, rfl, Ops.length_encode _ _⟩
theorem meet (o : Ops) : Statement (.meet o) := ⟨rfl, rfl, Ops.length_encode _ _⟩
theorem exit (o : Ops) : Statement (.exit o) := ⟨rfl, rfl, Ops.length_encode _ _⟩
theorem exitCastle (o : Ops) : Statement (.exitCastle o) := ⟨rfl, rfl, Ops.length_encode _ _⟩
theorem trap (o : Ops) : Statement (.trap o) := ⟨rfl, rfl, Ops.length_encode _ _⟩
theorem ld (o : Ops) : Statement (.ld o) := ⟨rfl, rfl, Ops.length_encode _ _⟩
theorem st (o : Ops) : Statement (.st o) := ⟨rfl, rfl, Ops.length_encode _ _⟩
theorem ldp (o : Ops) : Statement (.ldp o) := ⟨rfl, rfl, Ops.length_encode _ _⟩
theorem stp (o : Ops) : Statement (.stp o) := ⟨rfl, rfl, Ops.length_encode _ _⟩
theorem lds (o : Ops) : Statement (.lds o) := ⟨rfl, rfl, Ops.length_encode _ _⟩
theorem sts (o : Ops) : Statement (.sts o) := ⟨rfl, rfl, Ops.length_encode _ _⟩
theorem srowset (o : Ops) : Statement (.srowset o) := ⟨rfl, rfl, Ops.length_encode _ _⟩
theorem srowget (o : Ops) : Statement (.srowget o) := ⟨rfl, rfl, Ops.length_encode _ _⟩
theorem atom (o : Ops) : Statement (.atom o) := ⟨rfl, rfl, Ops.length_encode _ _⟩
theorem red (o : Ops) : Statement (.red o) := ⟨rfl, rfl, Ops.length_encode _ _⟩
theorem fence (o : Ops) : Statement (.fence o) := ⟨rfl, rfl, Ops.length_encode _ _⟩
theorem bar (o : Ops) : Statement (.bar o) := ⟨rfl, rfl, Ops.length_encode _ _⟩
theorem bara (o : Ops) : Statement (.bara o) := ⟨rfl, rfl, Ops.length_encode _ _⟩
theorem barw (o : Ops) : Statement (.barw o) := ⟨rfl, rfl, Ops.length_encode _ _⟩
theorem waitv (o : Ops) : Statement (.waitv o) := ⟨rfl, rfl, Ops.length_encode _ _⟩
theorem ntfy1 (o : Ops) : Statement (.ntfy1 o) := ⟨rfl, rfl, Ops.length_encode _ _⟩
theorem ntfya (o : Ops) : Statement (.ntfya o) := ⟨rfl, rfl, Ops.length_encode _ _⟩
theorem sleep (o : Ops) : Statement (.sleep o) := ⟨rfl, rfl, Ops.length_encode _ _⟩
theorem waitfe (o : Ops) : Statement (.waitfe o) := ⟨rfl, rfl, Ops.length_encode _ _⟩
theorem txb (o : Ops) : Statement (.txb o) := ⟨rfl, rfl, Ops.length_encode _ _⟩
theorem txc (o : Ops) : Statement (.txc o) := ⟨rfl, rfl, Ops.length_encode _ _⟩
theorem txa (o : Ops) : Statement (.txa o) := ⟨rfl, rfl, Ops.length_encode _ _⟩
theorem txq (o : Ops) : Statement (.txq o) := ⟨rfl, rfl, Ops.length_encode _ _⟩
theorem lnset (o : Ops) : Statement (.lnset o) := ⟨rfl, rfl, Ops.length_encode _ _⟩
theorem lncoef (o : Ops) : Statement (.lncoef o) := ⟨rfl, rfl, Ops.length_encode _ _⟩
theorem lnloop (o : Ops) : Statement (.lnloop o) := ⟨rfl, rfl, Ops.length_encode _ _⟩
theorem lnnext (o : Ops) : Statement (.lnnext o) := ⟨rfl, rfl, Ops.length_encode _ _⟩
theorem lnget (o : Ops) : Statement (.lnget o) := ⟨rfl, rfl, Ops.length_encode _ _⟩
theorem pbar (o : Ops) : Statement (.pbar o) := ⟨rfl, rfl, Ops.length_encode _ _⟩
theorem mma (o : Ops) : Statement (.mma o) := ⟨rfl, rfl, Ops.length_encode _ _⟩
theorem mxld (o : Ops) : Statement (.mxld o) := ⟨rfl, rfl, Ops.length_encode _ _⟩
theorem mxst (o : Ops) : Statement (.mxst o) := ⟨rfl, rfl, Ops.length_encode _ _⟩
theorem mxz (o : Ops) : Statement (.mxz o) := ⟨rfl, rfl, Ops.length_encode _ _⟩
theorem mxcvt (o : Ops) : Statement (.mxcvt o) := ⟨rfl, rfl, Ops.length_encode _ _⟩
theorem mxwait (o : Ops) : Statement (.mxwait o) := ⟨rfl, rfl, Ops.length_encode _ _⟩
theorem mxslot (o : Ops) : Statement (.mxslot o) := ⟨rfl, rfl, Ops.length_encode _ _⟩
theorem mxew (o : Ops) : Statement (.mxew o) := ⟨rfl, rfl, Ops.length_encode _ _⟩
theorem tdset (o : Ops) : Statement (.tdset o) := ⟨rfl, rfl, Ops.length_encode _ _⟩
theorem tdget (o : Ops) : Statement (.tdget o) := ⟨rfl, rfl, Ops.length_encode _ _⟩
theorem tdinv (o : Ops) : Statement (.tdinv o) := ⟨rfl, rfl, Ops.length_encode _ _⟩
theorem tdcopy (o : Ops) : Statement (.tdcopy o) := ⟨rfl, rfl, Ops.length_encode _ _⟩
theorem cpy (o : Ops) : Statement (.cpy o) := ⟨rfl, rfl, Ops.length_encode _ _⟩
theorem cpyw (o : Ops) : Statement (.cpyw o) := ⟨rfl, rfl, Ops.length_encode _ _⟩
theorem cpyq (o : Ops) : Statement (.cpyq o) := ⟨rfl, rfl, Ops.length_encode _ _⟩
theorem zfill (o : Ops) : Statement (.zfill o) := ⟨rfl, rfl, Ops.length_encode _ _⟩
theorem l2wb (o : Ops) : Statement (.l2wb o) := ⟨rfl, rfl, Ops.length_encode _ _⟩
theorem l2inv (o : Ops) : Statement (.l2inv o) := ⟨rfl, rfl, Ops.length_encode _ _⟩
theorem wsopen (o : Ops) : Statement (.wsopen o) := ⟨rfl, rfl, Ops.length_encode _ _⟩
theorem wslock (o : Ops) : Statement (.wslock o) := ⟨rfl, rfl, Ops.length_encode _ _⟩
theorem wsref (o : Ops) : Statement (.wsref o) := ⟨rfl, rfl, Ops.length_encode _ _⟩
theorem coll (o : Ops) : Statement (.coll o) := ⟨rfl, rfl, Ops.length_encode _ _⟩
theorem pref (o : Ops) : Statement (.pref o) := ⟨rfl, rfl, Ops.length_encode _ _⟩
theorem ldv (o : Ops) : Statement (.ldv o) := ⟨rfl, rfl, Ops.length_encode _ _⟩
theorem stv (o : Ops) : Statement (.stv o) := ⟨rfl, rfl, Ops.length_encode _ _⟩
theorem recon (o : Ops) : Statement (.recon o) := ⟨rfl, rfl, Ops.length_encode _ _⟩
theorem vcnt (o : Ops) : Statement (.vcnt o) := ⟨rfl, rfl, Ops.length_encode _ _⟩
theorem enq (o : Ops) : Statement (.enq o) := ⟨rfl, rfl, Ops.length_encode _ _⟩
theorem post (o : Ops) : Statement (.post o) := ⟨rfl, rfl, Ops.length_encode _ _⟩
theorem tspawn (o : Ops) : Statement (.tspawn o) := ⟨rfl, rfl, Ops.length_encode _ _⟩
theorem phase (o : Ops) : Statement (.phase o) := ⟨rfl, rfl, Ops.length_encode _ _⟩
theorem parrive (o : Ops) : Statement (.parrive o) := ⟨rfl, rfl, Ops.length_encode _ _⟩
theorem pwait (o : Ops) : Statement (.pwait o) := ⟨rfl, rfl, Ops.length_encode _ _⟩
theorem intr (o : Ops) : Statement (.intr o) := ⟨rfl, rfl, Ops.length_encode _ _⟩
theorem qstat (o : Ops) : Statement (.qstat o) := ⟨rfl, rfl, Ops.length_encode _ _⟩
theorem ctxnew (o : Ops) : Statement (.ctxnew o) := ⟨rfl, rfl, Ops.length_encode _ _⟩
theorem ctxgrant (o : Ops) : Statement (.ctxgrant o) := ⟨rfl, rfl, Ops.length_encode _ _⟩
theorem ctxrevoke (o : Ops) : Statement (.ctxrevoke o) := ⟨rfl, rfl, Ops.length_encode _ _⟩
theorem ctxmap (o : Ops) : Statement (.ctxmap o) := ⟨rfl, rfl, Ops.length_encode _ _⟩
theorem ctxunmap (o : Ops) : Statement (.ctxunmap o) := ⟨rfl, rfl, Ops.length_encode _ _⟩
theorem ctxrun (o : Ops) : Statement (.ctxrun o) := ⟨rfl, rfl, Ops.length_encode _ _⟩
theorem ctxstop (o : Ops) : Statement (.ctxstop o) := ⟨rfl, rfl, Ops.length_encode _ _⟩
theorem ctxq (o : Ops) : Statement (.ctxq o) := ⟨rfl, rfl, Ops.length_encode _ _⟩
theorem ctxqattach (o : Ops) : Statement (.ctxqattach o) := ⟨rfl, rfl, Ops.length_encode _ _⟩
theorem tretRetry (o : Ops) : Statement (.tretRetry o) := ⟨rfl, rfl, Ops.length_encode _ _⟩
theorem tretSkip (o : Ops) : Statement (.tretSkip o) := ⟨rfl, rfl, Ops.length_encode _ _⟩
theorem tretFixretry (o : Ops) : Statement (.tretFixretry o) := ⟨rfl, rfl, Ops.length_encode _ _⟩
theorem tretKill (o : Ops) : Statement (.tretKill o) := ⟨rfl, rfl, Ops.length_encode _ _⟩
theorem sysr (o : Ops) : Statement (.sysr o) := ⟨rfl, rfl, Ops.length_encode _ _⟩
theorem sysw (o : Ops) : Statement (.sysw o) := ⟨rfl, rfl, Ops.length_encode _ _⟩
theorem imask (o : Ops) : Statement (.imask o) := ⟨rfl, rfl, Ops.length_encode _ _⟩
theorem lspost (o : Ops) : Statement (.lspost o) := ⟨rfl, rfl, Ops.length_encode _ _⟩
theorem lswait (o : Ops) : Statement (.lswait o) := ⟨rfl, rfl, Ops.length_encode _ _⟩
theorem elect (o : Ops) : Statement (.elect o) := ⟨rfl, rfl, Ops.length_encode _ _⟩
theorem iret (o : Ops) : Statement (.iret o) := ⟨rfl, rfl, Ops.length_encode _ _⟩
theorem lmTake (rd rs1 : Nat) : Statement (.lmTake rd rs1) := (by decide : 1 ≤ 5)
theorem lmMeta (rd : Nat) : Statement (.lmMeta rd) := (by decide : 1 ≤ 5)
theorem lmDone (rd rs1 : Nat) : Statement (.lmDone rd rs1) := (by decide : 1 ≤ 5)
theorem lmBase (rs1 rs2 : Nat) : Statement (.lmBase rs1 rs2) := (by decide : 1 ≤ 5)
theorem lmSaddr (rs1 : Nat) : Statement (.lmSaddr rs1) := (by decide : 1 ≤ 5)
theorem lmG2s (rs1 rs2 : Nat) : Statement (.lmG2s rs1 rs2) := (by decide : 1 ≤ 5)
theorem lmS2g (rs1 rs2 : Nat) : Statement (.lmS2g rs1 rs2) := (by decide : 1 ≤ 5)
theorem lmFlagEmpty (rs1 rs2 : Nat) : Statement (.lmFlagEmpty rs1 rs2) := (by decide : 1 ≤ 5)
theorem lmFlagFull (rs1 rs2 : Nat) : Statement (.lmFlagFull rs1 rs2) := (by decide : 1 ≤ 5)
theorem lmWaitfEmpty (rs1 : Nat) : Statement (.lmWaitfEmpty rs1) := (by decide : 1 ≤ 5)
theorem lmWaitfFull (rs1 : Nat) : Statement (.lmWaitfFull rs1) := (by decide : 1 ≤ 5)
theorem lmTime (rd : Nat) : Statement (.lmTime rd) := (by decide : 1 ≤ 5)
theorem lmTimeh (rd : Nat) : Statement (.lmTimeh rd) := (by decide : 1 ≤ 5)
theorem scalarCoreTrap (core : Nat) (storer : Bool) : Statement (.scalarCoreTrap core storer) := Nat.zero_le _
theorem resultArrival (id : Nat) : Statement (.resultArrival id) := Nat.zero_le _
theorem divResult (id : Nat) : Statement (.divResult id) := Nat.zero_le _
theorem spillClaim (core slot thread : Nat) : Statement (.spillClaim core slot thread) := Nat.zero_le _
theorem frameRefill (core slot thread : Nat) (poisoned : Bool) : Statement (.frameRefill core slot thread poisoned) := Nat.zero_le _
theorem linkRecordRefill (core slot thread : Nat) : Statement (.linkRecordRefill core slot thread) := Nat.zero_le _
theorem uniformCopyReturn (core slot copy : Nat) : Statement (.uniformCopyReturn core slot copy) := Nat.zero_le _
theorem laneArbitration (core lane : Nat) : Statement (.laneArbitration core lane) := Nat.zero_le _
theorem warpReady (core slot : Nat) : Statement (.warpReady core slot) := Nat.zero_le _
theorem pageResolved (w : WaitRef) (page : PageIn) : Statement (.pageResolved w page) := Nat.zero_le _
theorem lateFault (w : WaitRef) : Statement (.lateFault w) := Nat.zero_le _
theorem tableWalk (id : Nat) : Statement (.tableWalk id) := Nat.zero_le _
theorem tlbShootdownComplete (id : Nat) : Statement (.tlbShootdownComplete id) := Nat.zero_le _
theorem sleepExpiry (core slot : Nat) : Statement (.sleepExpiry core slot) := Nat.zero_le _
theorem waitvTimeout (id : Nat) : Statement (.waitvTimeout id) := Nat.zero_le _
theorem homeAccess (id : Nat) : Statement (.homeAccess id) := Nat.zero_le _
theorem holderNote (id : Nat) : Statement (.holderNote id) := Nat.zero_le _
theorem forcedPublish (line : Nat) : Statement (.forcedPublish line) := Nat.zero_le _
theorem directoryRecall (line : Nat) : Statement (.directoryRecall line) := Nat.zero_le _
theorem gambitValidate (id home : Nat) : Statement (.gambitValidate id home) := Nat.zero_le _
theorem gambitCommit (id : Nat) : Statement (.gambitCommit id) := Nat.zero_le _
theorem l2PortGrant (slice : Nat) : Statement (.l2PortGrant slice) := Nat.zero_le _
theorem bankRefreshStart (die bank : Nat) : Statement (.bankRefreshStart die bank) := Nat.zero_le _
theorem bankRefreshEnd (die bank : Nat) : Statement (.bankRefreshEnd die bank) := Nat.zero_le _
theorem operationStart (cluster id : Nat) : Statement (.operationStart cluster id) := Nat.zero_le _
theorem tileFetchLine (cluster id line : Nat) : Statement (.tileFetchLine cluster id line) := Nat.zero_le _
theorem passGrant (cluster : Nat) : Statement (.passGrant cluster) := Nat.zero_le _
theorem passComplete (cluster : Nat) : Statement (.passComplete cluster) := Nat.zero_le _
theorem tileLineMove (cluster : Nat) : Statement (.tileLineMove cluster) := Nat.zero_le _
theorem copyLine (die engine : Nat) : Statement (.copyLine die engine) := Nat.zero_le _
theorem promiseMissed (core slot : Nat) : Statement (.promiseMissed core slot) := Nat.zero_le _
theorem collectiveExchange (id : Nat) (news : PeerNews) : Statement (.collectiveExchange id news) := Nat.zero_le _
theorem cardNop (queue : Nat) : Statement (.cardNop queue) := Nat.zero_le _
theorem cardLaunch (queue : Nat) : Statement (.cardLaunch queue) := Nat.zero_le _
theorem cardSetc (queue : Nat) : Statement (.cardSetc queue) := Nat.zero_le _
theorem cardWrite (queue : Nat) : Statement (.cardWrite queue) := Nat.zero_le _
theorem cardIntr (queue : Nat) : Statement (.cardIntr queue) := Nat.zero_le _
theorem cardCtxnew (queue : Nat) : Statement (.cardCtxnew queue) := Nat.zero_le _
theorem cardCtxgrant (queue : Nat) : Statement (.cardCtxgrant queue) := Nat.zero_le _
theorem cardCtxrevoke (queue : Nat) : Statement (.cardCtxrevoke queue) := Nat.zero_le _
theorem cardCtxmap (queue : Nat) : Statement (.cardCtxmap queue) := Nat.zero_le _
theorem cardCtxunmap (queue : Nat) : Statement (.cardCtxunmap queue) := Nat.zero_le _
theorem cardCtxrun (queue : Nat) : Statement (.cardCtxrun queue) := Nat.zero_le _
theorem cardCtxstop (queue : Nat) : Statement (.cardCtxstop queue) := Nat.zero_le _
theorem cardCtxq (queue : Nat) : Statement (.cardCtxq queue) := Nat.zero_le _
theorem cardCtxqattach (queue : Nat) : Statement (.cardCtxqattach queue) := Nat.zero_le _
theorem launchCompletion (id : Nat) : Statement (.launchCompletion id) := Nat.zero_le _
theorem phalanxDispatch : Statement .phalanxDispatch := Nat.zero_le _
theorem successorStart (cluster entry : Nat) : Statement (.successorStart cluster entry) := Nat.zero_le _
theorem gatherTimeout (slice : Nat) (queue : Nat) : Statement (.gatherTimeout slice queue) := Nat.zero_le _
theorem phaseComplete (ctx : Nat) (hdr : Nat) : Statement (.phaseComplete ctx hdr) := Nat.zero_le _
theorem interruptDelivery (core slot : Nat) : Statement (.interruptDelivery core slot) := Nat.zero_le _
theorem tempoBoundary (cluster : Nat) : Statement (.tempoBoundary cluster) := Nat.zero_le _
theorem contextSave (cluster : Nat) : Statement (.contextSave cluster) := Nat.zero_le _
theorem contextRestore (cluster : Nat) : Statement (.contextRestore cluster) := Nat.zero_le _
theorem lateDieDeadline (ctx die : Nat) : Statement (.lateDieDeadline ctx die) := Nat.zero_le _
theorem pageRequestResponse (ctx gen : Nat) (page : PageIn) : Statement (.pageRequestResponse ctx gen page) := Nat.zero_le _
theorem kcmdRead (slice : Nat) (ksel : DWord) : Statement (.kcmdRead slice ksel) := Nat.zero_le _
theorem kcmdWrite (slice : Nat) (ksel : DWord) (kdat : BitVec 512) : Statement (.kcmdWrite slice ksel kdat) := Nat.zero_le _
theorem kcmdInvalidate (slice : Nat) (ksel : DWord) (kdat : BitVec 512) (edit : Option PageMove) : Statement (.kcmdInvalidate slice ksel kdat edit) := Nat.zero_le _
theorem kevtPop (slice : Nat) : Statement (.kevtPop slice) := Nat.zero_le _
theorem doorbellWrite (fn : HostFn) (pasid : Option Nat) (queue : Nat) (value : Option Word) : Statement (.doorbellWrite fn pasid queue value) := Nat.zero_le _
theorem hostBar2Write (fn : HostFn) (addr : Nat) (data : List Byte) : Statement (.hostBar2Write fn addr data) := Nat.zero_le _
theorem hostBar2Read (fn : HostFn) (addr len : Nat) : Statement (.hostBar2Read fn addr len) := Nat.zero_le _
theorem msixUnmask (fn : HostFn) (entry : MsixMask) : Statement (.msixUnmask fn entry) := Nat.zero_le _
theorem rqgo (value : Word) : Statement (.rqgo value) := Nat.zero_le _
theorem ringDescriptorWrite (port ring word : Nat) (value : DWord) : Statement (.ringDescriptorWrite port ring word value) := Nat.zero_le _
theorem steeringWrite (port index : Nat) (value : DWord) : Statement (.steeringWrite port index value) := Nat.zero_le _
theorem stripeSetWrite (set word : Nat) (value : DWord) : Statement (.stripeSetWrite set word value) := Nat.zero_le _
theorem registerWrite (access : BarAccess) (value : Option DWord) : Statement (.registerWrite access value) := Nat.zero_le _
theorem lockInterface (fn ctx : Nat) : Statement (.lockInterface fn ctx) := Nat.zero_le _
theorem tdiUnlock (fn : Nat) (next : Nat) : Statement (.tdiUnlock fn next) := Nat.zero_le _
theorem tdiScrubDone (fn : Nat) : Statement (.tdiScrubDone fn) := Nat.zero_le _
theorem measurements : Statement .measurements := Nat.zero_le _
theorem expanderFailure (port : Nat) : Statement (.expanderFailure port) := Nat.zero_le _
theorem wblkWriteRelease (id : Nat) : Statement (.wblkWriteRelease id) := Nat.zero_le _
theorem frameReceive (f : EthFrame) : Statement (.frameReceive f) := Nat.zero_le _
theorem pfcRefresh (port pri : Nat) : Statement (.pfcRefresh port pri) := Nat.zero_le _
theorem pauseBudgetExpiry (port ring : Nat) : Statement (.pauseBudgetExpiry port ring) := Nat.zero_le _
theorem ingestTaskPost (port ring : Nat) : Statement (.ingestTaskPost port ring) := Nat.zero_le _
theorem linkTraining (link emid : Nat) (identity : Nat) : Statement (.linkTraining link emid identity) := Nat.zero_le _
theorem peerLost (peer : Nat) : Statement (.peerLost peer) := Nat.zero_le _
theorem remoteAccess (peer : Nat) (pa : Nat) (op : RemoteOp) (len : Nat) : Statement (.remoteAccess peer pa op len) := Nat.zero_le _
theorem packageReset : Statement .packageReset := Nat.zero_le _
theorem bootStageAdvance (ok : Bool) (failed : BitVec 160) : Statement (.bootStageAdvance ok failed) := Nat.zero_le _
theorem recoveryWindowWrite (offset : Nat) (data : List Byte) : Statement (.recoveryWindowWrite offset data) := Nat.zero_le _
theorem recgo : Statement .recgo := Nat.zero_le _
theorem planApply : Statement .planApply := Nat.zero_le _
theorem planDefault : Statement .planDefault := Nat.zero_le _
theorem pllRelock : Statement .pllRelock := Nat.zero_le _
theorem arrayError (loc : ArrayLoc) (correctable : Bool) : Statement (.arrayError loc correctable) := Nat.zero_le _
theorem counterFlush : Statement .counterFlush := Nat.zero_le _
theorem powerDown : Statement .powerDown := Nat.zero_le _
theorem throttleOnset (power : Nat) (dieTemp : List Nat) : Statement (.throttleOnset power dieTemp) := Nat.zero_le _
theorem thermalTrip (die temp : Nat) : Statement (.thermalTrip die temp) := Nat.zero_le _
theorem tripRecovery (dieTemp : List Nat) : Statement (.tripRecovery dieTemp) := Nat.zero_le _
theorem mgmtReadSensors : Statement .mgmtReadSensors := Nat.zero_le _
theorem mgmtReadCounter (n : Nat) : Statement (.mgmtReadCounter n) := Nat.zero_le _
theorem mgmtSetPowercap (watts : Nat) : Statement (.mgmtSetPowercap watts) := Nat.zero_le _
theorem mgmtRecoveryChunk (offset : Nat) (data : List Byte) : Statement (.mgmtRecoveryChunk offset data) := Nat.zero_le _
theorem mgmtRecoveryGo : Statement .mgmtRecoveryGo := Nat.zero_le _
theorem mgmtPackageReset : Statement .mgmtPackageReset := Nat.zero_le _
theorem rv32imcInstruction (i : RvInstr) : Statement (.rv32imcInstruction i) := Nat.zero_le _
theorem scalarCoreProgramLoad (core : Nat) (storer : Bool) (ctx : Nat) (program : List Byte) : Statement (.scalarCoreProgramLoad core storer ctx program) := Nat.zero_le _
theorem hostAtomicop (fn : HostFn) (addr size : Nat) (kind : Nat) (operand compare : Nat) : Statement (.hostAtomicop fn addr size kind operand compare) := Nat.zero_le _
theorem startInterface (fn : Nat) : Statement (.startInterface fn) := Nat.zero_le _
theorem spdmKeyExchange (fn : Nat) (session : Word) : Statement (.spdmKeyExchange fn session) := Nat.zero_le _
theorem emarisLinkFailure (link : Nat) : Statement (.emarisLinkFailure link) := Nat.zero_le _
theorem powerLoss : Statement .powerLoss := Nat.zero_le _
theorem throttleEnd (power : Nat) (dieTemp : List Nat) : Statement (.throttleEnd power dieTemp) := Nat.zero_le _
theorem portReset (port : Nat) : Statement (.portReset port) := Nat.zero_le _
theorem mctpControl (message : List Byte) : Statement (.mctpControl message) := Nat.zero_le _

end Laws.Encoding

end Sys2Proof
end

