-- ==== Sys2Proof/Tests/Slice0.lean ====
section
/-! SUPPORT. The model's own tests: words the spec writes out, ill-formed terms, single steps, and a witness for the
hypotheses of every statement. -/

section
set_option Elab.async false

open Sys2Proof Sys2Proof.Machine Sys2Proof.Safety

namespace Sys2Proof.Tests

def zero : Ops := ⟨.base, false, .always, 0, 0, .none, .none, .none, .none, 0, 0, 0, 0⟩
def ext : Ops := { zero with form := .ext }
def rv (i : Nat) : Opd := .src (.reg (.v i)) false
def rg (i : Nat) : Opd := .src (.reg (.g i)) false
def dv (i : Nat) : Opd := .dst (.reg (.v i))
def imm (n : Int) : Opd := .src (.inline n) false

/-- A thread with a frame of 16 rows: v0 is `a`, v1 is `b`, v2:v3 is `c`. -/
def th (a b c : Nat) : Thread := entryThread 0x1000 16 a b (c % 2 ^ 32) (c / 2 ^ 32) 0 true

/-- Two threads of the root in warp slot 0 of core 0. -/
def wp : Warp := { placedWarp with win := 16, threads := [th 5 7 0x2000, th 6 9 0x2040] }

def grp : Group := ⟨9, 0, 2, 0, 0, 4, List.replicate 16 ⟨0, 0⟩, 0, 0, [], List.replicate 8 DepSlot.zero, 0, 0, 0, 0⟩
def phx : Phalanx := ⟨0, 0, 1, [(0, 0)], [(0, 4)], 0, 4, 1, 0, false, 0, 0, false, none⟩
def root : Ctx := { Ctx.root 0 with run := 1, leaves := [⟨0, 2 ^ 21, 2 ^ 21, 0, true, true, true, true, false, false, false, 0, 0, some 0⟩] }
def core0 : Core := { Core.blank with laneRun := [(0, 0)], tlb := [⟨0, 0, 2 ^ 21, 0, true, true, true, false, 0⟩] }

/-- A package that is up, with one warp, its group and phalanx, and 2 MiB of the root mapped. -/
def world : State :=
  { State.reset with
    focus := .warp 0 0, warps := [(0, wp)], groups := [(0, grp)], cores := [(0, core0)], ctxs := [(0, root)],
    clusters := [(0, { Cluster.blank with phxs := [(0, phx)], holds := some 0 })],
    hdie := { HDie.reset with bootst := 6 } }

/-- `world` with another warp. -/
def withWarp (w : Warp) : State := { world with warps := [(0, w)] }

/-- The instruction is issued, and what it reads is as `p` says. -/
def goes (s : State) (op : Nat) (o : Ops) (elected tx : Bool) (p : Issued → Bool) : Bool := (issued s op o elected tx).any p

end Sys2Proof.Tests

namespace Sys2Proof.Tests

/-! ### Words written out in the spec decode to the instructions they stand for -/

/-- 06 Table 11, and the packing example after it. -/
theorem test_decode_arithmetic :
    decode [0x04041C08] = .instr (.add { zero with t := 2, d := dv 3, a := rv 1, b := rv 2 }) ∧
    decode [0x00183878] = .instr (.bits { zero with d := dv 7, a := rv 6, b := .num 0 }) ∧
    decode [0x420412E0] = .instr (.cvt { zero with t := 1, d := dv 2, a := rv 1, b := .num 33 }) ∧
    decode [0x003088C2, 0, 0] = .instr (.cmp { zero with form := .baseLit, d := .num 17, a := rv 12, b := .src (.lit 0) false }) ∧
    decode [0xCC1430E1, 0x74, 0] = .instr (.cvt { ext with d := dv 6, a := rv 5, b := .num 102, c := .dst (.reg (.g 20)) }) := by decide

/-- The worked encodings of 03. -/
theorem test_decode_moves_and_memory :
    decode [0x000060DB, 0x00000900, 0, 5, 0] = .instr (.mov { ext with form := .extLit, guard := .on 1 false, d := dv 12, b := .src (.lit 5) false }) ∧
    decode [0x180070D9, 0x4000, 0] = .instr (.mov { ext with d := dv 14, b := .src (.reg (.v 12)) true }) ∧
    decode [0x000078D9, 0x80000000, 0x00100000] = .instr (.mov { ext with d := dv 15, b := .src (.window 0 0) false }) ∧
    decode [0x01A06181, 0x0AA00000, 8] = .instr (.ld { ext with x := 10, d := dv 12, a := rg 8, b := rv 0, sc := 5, w2 := 8 }) ∧
    decode [0x01A80589, 0x0AA0000E, 8] = .instr (.st { ext with t := 2, x := 10, a := rg 10, b := rv 0, c := rv 14, sc := 5, w2 := 8 }) := by decide

/-- 07 Table 3 and the encodings after it. -/
theorem test_decode_control :
    decode [0x16000160] = .instr (.meet { zero with a := .num 0, b := .num 11 }) ∧
    decode [0x08004934] = .instr (.bra { zero with brk := true, d := .num 9, a := .num 0, b := .num 4 }) ∧
    decode [0x0C000944] = .instr (.call { zero with brk := true, d := .num 1, a := .num 0, b := .num 6 }) ∧
    decode [0xFBFC0334] = .instr (.braAlways { zero with brk := true, t := 1, a := .num 127, b := .num 125 }) ∧
    decode [0x0000016C] = .instr (.exit { zero with brk := true }) ∧ decode [0x00000154] = .instr (.ret { zero with brk := true }) ∧
    decode [0x000001F1, 0x070080A3, 0] = .instr (.elect { ext with x := 7, c := .dst (.pred 3) }) ∧
    decode [0x000001A9, 0x08000000, 0x514] = .instr (.sleep { ext with x := 8, a := .num 0, w2 := 1300 }) := by decide

/-- 10 Table 10. -/
theorem test_decode_core :
    decode [0x0C1039A1, 0x20A00000, 8] = .instr (.atom { ext with x := 32, d := dv 7, a := rv 4, b := rv 6, sc := 5, w2 := 8 }) ∧
    decode [0x000001A9, 0x010000BA, 3] = .instr (.bar { ext with x := 1, c := imm 2, w2 := 3 }) ∧
    decode [0x00200199, 0x0B00000A, 0x40] = .instr (.sts { ext with x := 11, a := rv 8, c := rv 10, w2 := 64 }) ∧
    decode [0x000021B1, 0x01000000, 0] = .instr (.txc { ext with x := 1, d := .num 4 }) ∧
    decode [0x000003BB, 0, 0, 3, 0] = .instr (.lnset { ext with form := .extLit, t := 1, b := .src (.lit 3) false }) ∧
    decode [0x000001B9, 0x02000000, 0xFFFFFFFC] = .instr (.lnloop { ext with x := 2, w2 := 0xFFFFFFFC }) ∧
    decodeXlm 0x00B5400B = some (.lmG2s 10 11) := by decide

/-- 14, the encodings of its program; TDINV, WSREF, LDV and CTXSTOP by the tables of 14, 17 and 21. -/
theorem test_decode_units :
    decode [0x019801C1, 0, 0] = .instr (.mma { ext with a := rg 6 }) ∧
    decode [0x01A011C1, 0x01000000, 0x3F000] = .instr (.mxld { ext with x := 1, d := .num 2, a := rg 8, w2 := 0x3F000 }) ∧
    decode [0x001031C1, 0x04000000, 0x202] = .instr (.mxcvt { ext with x := 4, d := .num 6, a := .num 4, b := .num 0, w2 := 0x202 }) ∧
    decode [0x000049C1, 0x05000000, 8] = .instr (.mxwait { ext with x := 5, d := dv 9, w2 := 8 }) ∧
    decode [0xCC0001C9, 0x02000000, 1] = .instr (.tdinv { ext with x := 2, b := rg 6, w2 := 1 }) ∧
    decode [0x000041D1, 0x08000000, 3] = .instr (.wsref { ext with x := 8, d := dv 8, w2 := 3 }) ∧
    decode [0x001841D9, 0x000000C8, 4] = .instr (.ldv { ext with d := dv 8, a := rv 6, c := .src .zero false, w2 := 4 }) := by decide

/-- 21 Table 13. -/
theorem test_decode_package :
    decode [0x01C001E1, 0x030080C8, 0] = .instr (.phase { ext with x := 3, a := rg 16, c := .dst .discard }) ∧
    decode [0xCC101DE1, 0x01A00000, 0] = .instr (.post { ext with t := 2, x := 1, d := dv 3, a := rv 4, b := rg 6, sc := 5 }) ∧
    decode [0x01B019E3, 0x00A00000, 0, 5, 0] = .instr (.enq { ext with form := .extLit, d := dv 3, a := rg 12, b := .src (.lit 5) false, sc := 5 }) ∧
    decode [0x000001F1, 0, 3] = .instr (.tretKill { ext with w2 := 3 }) ∧
    decode [0x000001F1, 0x08000000, 0] = .instr (.iret { ext with x := 8 }) ∧
    decode [0x01984BF1, 0x04000000, 0] = .instr (.lspost { ext with t := 1, x := 4, d := dv 9, a := rg 6 }) ∧
    decode [0x000021F1, 0x01000000, 12] = .instr (.sysr { ext with x := 1, d := dv 4, w2 := 12 }) ∧
    decode [0xCC0021E9, 0x06000000, 0] = .instr (.ctxstop { ext with x := 6, d := dv 4, b := rg 6 }) := by decide

/-! ### The values of the spec's examples -/

/-- The trap frame of 11's load with two faults. -/
theorem test_fault_record :
    (FaultRecord.words ⟨4, 1, true, 0x10100, 0x900000, 0x80000525, 4, 0, 48, 2, 5, 0, 0⟩).take 8 =
      [0x00010104, 0x00010100, 0x00900000, 0, 0x80000525, 0, 0x00023004, 5] := by decide

/-- 06: the block of 6.0, −0.75, 0.1 and zeros has the scale word 0x00801803 and the elements E3 88 88 …. -/
theorem test_pack_example :
    let blk := dsbPack 2 ((List.range 32).map fun i => match i with
      | 0 => Fmt.f32.decode 0x40C00000 | 1 => Fmt.f32.decode 0xBF400000 | 2 => Fmt.f32.decode 0x3DCCCCCD | _ => .fin false 0 0)
    blk.scale = 0x00801803 ∧ bits (packCodes 4 blk.codes) 0 32 = 0x888888E3 ∧ bits (packCodes 4 blk.codes) 32 32 = 0x88888888 := by
  decide +kernel

end Sys2Proof.Tests

namespace Sys2Proof.Tests

/-! ### The hypotheses of the statements are met: encoding, steps, computation -/

theorem test_meets_DecodeInvertsEncode :
    (Instr.add { zero with d := dv 95, a := rv 95, b := .src (.reg (.v 0)) false }).wf = true ∧
    (Instr.add { zero with d := dv 95, a := rv 95, b := rv 0 }).lane?.isSome = true ∧
    (Instr.lmTime 31).wf = true ∧ encode (.lmTime 31) = [0x00007F8B] := by decide

theorem test_meets_EncodeInvertsDecode :
    decode [0x04041C08] = .instr (.add { zero with t := 2, d := dv 3, a := rv 1, b := rv 2 }) ∧
    (Raw.ofWords [0x04041C08]).form.len ≤ 4 * 1 := by decide

theorem test_meets_SpecWordsDecode :
    (Raw.ofWords [0x178]).op = 47 ∧ (Raw.ofWords [0x1F8]).op = 63 ∧
    ((Raw.ofWords [0x180]).op = 48 ∧ (Raw.ofWords [0x180]).form.hasExt = false) ∧
    ((Raw.ofWords [0x171, 0x01000000, 0]).op = 46 ∧ (Raw.ofWords [0x171, 0x01000000, 0]).x = 1) := by decide

def laneWorld : State := { world with agenda := [.lane 0 0], mem := [(0x1000, 0x68), (0x1001, 0x01)] }

theorem test_meets_StepRunsTheDecodedInstruction :
    (State.inRun { laneWorld with agenda := [] } 0 0 = some wp ∧ wp.issuePc = some 0x1000 ∧
      (State.fetch { laneWorld with agenda := [] } 0 0 0x1000).1 = .ok [0x168] ∧ decode [0x168] = .instr (.exit zero)) ∧
    decode [0x178] = .trap 1 47 0 4 false ∧ State.admits world .phalanxDispatch = true ∧ (world.scalarAt 0 false).halted = false := by
  decide +kernel

theorem test_meets_StepRunsTheDecodedInstruction_scalar :
    ({ Scalar.blank with istore := Memory.write [] 0 [0x8B, 0x72, 0, 0] } : Scalar).fetch = .xlm (.lmTime 5) := by decide +kernel

theorem test_meets_FetchReadsMemory :
    world.lookup 0 0 0x1FFFFC = some ⟨0, 0, 2 ^ 21, 0, true, true, true, false, 0⟩ ∧
    world.finalPa ((⟨0, 0, 2 ^ 21, 0, true, true, true, false, 0⟩ : TlbEntry).trans 0x1FFFFC) = some 0x1FFFFC ∧
    regionOf 0x1FFFFC = .ram ∧ (world.core 0).icache = [] ∧ world.poison = [] := by decide +kernel

theorem test_meets_NopExecutes : world.warp? 0 0 = some wp ∧ wp.executing = [0, 1] := by decide +kernel

theorem test_meets_ComputingInstructionsComplete :
    goes world 1 { zero with d := dv 4, a := rv 0, b := rv 1 } false false (fun j =>
      j.p.vals.map (fun x => (x.1, addOn 32 .f32 .rne 0 x.2.a x.2.b)) == [(0, .ok 12 0), (1, .ok 15 0)]) = true := by decide +kernel

theorem test_meets_ComputationFaultsAreTaken :
    goes world 28 { ext with d := dv 4, a := rv 0, b := .num 35, ov := 2 } false false (fun j => j.p.vals.length == 2) = true ∧
    packs { ext with b := .num 35 } = false := by decide +kernel

theorem test_meets_IntegerArithmeticValues :
    addOn 32 .f32 .rne 0 (2 ^ 32 - 1) 1 = .ok 0 0 ∧ addOn 32 .f32 .rne 1 (2 ^ 31 - 1) 1 = .ok (2 ^ 31 - 1) xSAT ∧
    (divOn .rne 0 7 0).v = 0xFFFFFFFF ∧ (remOn 0 7 0).v = 7 ∧ (divOn .rne 0 (2 ^ 32 - 7) 2).v = 2 ^ 32 - 3 := by decide +kernel

theorem test_meets_ShiftAndFieldValues :
    shlOn 32 1 32 = 0 ∧ shlOn 64 1 63 = 2 ^ 63 ∧ shrOn 32 true (2 ^ 31) 40 = 2 ^ 32 - 1 ∧ rotOn 32 1 33 = 2 ∧
    bfxOn true 0xF0 0x404 = 2 ^ 32 - 1 ∧ bfiOn 0xFFFFFFFF 0 0x41F = 0x7FFFFFFF := by decide +kernel

theorem test_meets_LeaForms :
    goes world 36 { zero with t := 3, d := dv 4, a := rv 2, b := rv 0 } false false (fun j =>
      j.p.vals.map (fun x => (x.2.a, x.2.b)) == [(0x2000, 5), (0x2040, 6)]) = true := by decide +kernel

theorem test_meets_PredicateInstructionsComplete :
    goes world 24 { zero with d := .num 17, a := rv 0, b := rv 1 } false false (fun j => j.p.vals.length == 2) = true ∧
    goes world 37 { zero with d := .num 2, a := .num 8, b := .num 7 } false false (fun j => j.p.vals.length == 2) = true := by
  decide +kernel

theorem test_meets_SelectChoosesByItsCondition :
    goes world 26 { zero with t := 3, d := dv 4, a := rv 0, b := rv 1 } false false (fun j => j.p.vals.length == 2) = true ∧
    goes world 26 { ext with d := dv 4, a := rv 0, b := rv 1, c := .src (.pred 7) false } false false
      (fun j => j.p.vals.map (fun x => (x.2.c)) == [0, 0]) = true ∧
    (Raw.ofWords [0x2D1, 0, 0]).op = 26 ∧ (Raw.ofWords [0x2D1, 0, 0]).form.hasExt = true ∧ (Raw.ofWords [0x2D1, 0, 0]).t = 1 := by
  decide +kernel

theorem test_meets_DivisionEmptiesItsDestination :
    goes world 22 { zero with d := dv 4, a := rv 0, b := rv 1 } false false (fun j => j.p.vals.length == 2) = true ∧
    goes world 23 { zero with d := dv 4, a := rv 0, b := rv 1 } false false (fun j => j.p.vals.length == 2) = true := by
  decide +kernel

theorem test_meets_FrameIndexing :
    goes world 34 { zero with d := dv 4, b := imm 15 } false false (fun j => j.p.vals.map (fun x => x.2.b) == [15, 15] &&
      decide (j.wp.readReg 0 (th 5 7 0x2000) (.v 15) 1 false = .val 0)) = true ∧
    goes world 35 { zero with a := rv 0, b := imm 15 } false false (fun j => j.p.vals.map (fun x => x.2.b) == [15, 15] &&
      !j.s.rowPending j.c j.slot j.wp.uid 0 15) = true ∧
    goes world 34 { zero with t := 1, d := dv 4, b := imm 15 } false false (fun j => j.p.vals.length == 2) = true := by
  decide +kernel

theorem test_meets_WarpWideMovesComplete :
    (issuedBy world 27 { zero with t := 2, d := dv 4, b := rv 1 } false false (fun r => { r with b := .zero })).any (fun j =>
      j.p.vals.map (·.1) == [0, 1] && !j.wp.beyondIn 0 1 (rv 1) && decide (j.s.readIn j.c j.wp 0 0 1 (rv 1) = .val 7)) = true ∧
    (issuedBy world 27 { zero with t := 3, d := dv 4, a := rv 1, b := imm 1 } false false (fun r => { r with a := .zero })).any
      (fun j => j.p.vals.map (fun x => x.2.b) == [1, 1] && decide (j.s.readIn j.c j.wp 0 1 1 (rv 1) = .val 9)) = true ∧
    (issuedBy world 30 { zero with d := dv 4, a := rv 1, b := imm 1 } false false (fun r => { r with a := .zero })).any
      (fun j => j.p.vals.map (fun x => x.2.b) == [1, 1] && decide (j.s.readIn j.c j.wp 0 1 1 (rv 1) = .val 9)) = true := by
  decide +kernel

theorem test_meets_ReductionsComplete :
    goes world 31 { zero with d := dv 4, a := rv 0, b := .num 0 } false false (fun j => j.p.vals.map (·.2.a) == [5, 6]) = true ∧
    goes world 32 { zero with t := 1, d := dv 4, a := rv 0, b := .num 8 } false false (fun j => j.p.vals.map (·.2.a) == [5, 6]) = true ∧
    goes world 33 { zero with t := 2, d := dv 4, b := .num 15 } false false (fun j => j.p.vals.length == 2) = true ∧
    goes world 28 { ext with d := dv 4, a := rv 0, b := .num 102, c := .dst (.reg (.v 5)) } false false
      (fun j => j.p.vals.length == 2) = true := by decide +kernel

theorem test_meets_ReductionValues : redAll .rne 1 1 [2 ^ 32 - 1, 0] = (0, 0) ∧ (voteOn 2 [(0, true), (31, true)]) = 2 ^ 31 + 1 := by
  decide +kernel

theorem test_meets_ResultsReachTheirDestinations :
    wp.win = 16 ∧ (wp.threads.map (fun t => t.cells.length)) = [16, 16] ∧
    (((wp.writeAll (some (.reg (.v 15), 1)) [(1, 3, 0)]).thread? 1).map fun t => t.cell 15) = some (Cell.of 3) := by decide +kernel

theorem test_meets_RegisterInstructionFrame :
    goes world 8 { zero with d := dv 4, a := rv 0, b := rv 1 } false false (fun j => j.p.vals.length == 2 &&
      j.wp.threads.all fun t => t.meetA == 0 && t.link.isEmpty) = true := by decide +kernel

theorem test_meets_FloatArithmeticValues :
    numOf (Fmt.f32.decode 0x3FC00000) = some (3 / 2) ∧ numOf (Fmt.f32.decode 0xBFC00000) = some (-(3 / 2)) ∧
    Fmt.f16.decode 0x7E00 = .nan false ∧ Fmt.f32.decode 0x7FA00000 = .nan true ∧ Fmt.f64.decode 0x7FF0000000000000 = .inf false ∧
    Fmt.bf16.decode 0xFF80 = .inf true ∧ numOf (Fmt.f16.decode 0) = some 0 ∧ (Fmt.f32.sub .rne 0x40400000 0x3FC00000).v = 0x3FC00000 := by
  decide +kernel

theorem test_meets_ConversionAndFunctionValues :
    numOf (.fin true 3 (-1)) = some (-(3 / 2)) ∧ numOf (.fin false 1 3000) = some ((2 : Rat) ^ 3000) ∧
    (Fmt.f32.round .rne (.fin false 1 3000)).ovf = true ∧ cvtInt 8 true .rne 0 (.fin false 300 0) = .ok 127 xSAT ∧
    cvtScalar .rz 0 33 0xC0FCCCCD = .ok 0xFFFFFFF9 xNX ∧ numOf (Fmt.f16.decode 0x3C00) = some ((2 : Rat) ^ (0 : Int)) ∧
    numOf (Fmt.f32.decode 0xBF800000) = some ((-1 : Int) : Rat) ∧ Fmt.f32.emin - Fmt.f32.mb ≤ -1 ∧ (-1 : Int) ≤ Fmt.f32.bias ∧
    2 * (1 / 2 : Rat) = 2 * ((0 : Int) : Rat) + 1 ∧ numOf (Fmt.f32.decode 0x3F000000) = some (1 / 2) ∧ Fmt.f64.decode 0xFFF0000000000000 = .inf true := by
  decide +kernel

/-- Thread 0 reads v15 of its 16 rows, or writes it; the frame of thread 1 has four rows. -/
theorem test_meets_FrameIndexing_mixed :
    let s := withWarp { wp with threads := [th 5 7 0x2000, { th 6 9 0x2040 with s := 4 }] }
    goes s 34 { zero with d := dv 3, b := imm 15 } false false (fun j => j.p.vals.map (fun x => (x.1, x.2.b)) == [(0, 15), (1, 15)] &&
      decide (j.wp.readReg 0 (th 5 7 0x2000) (.v 15) 1 false = .val 0)) = true ∧
    goes s 35 { zero with a := rv 0, b := imm 15 } false false (fun j => j.p.vals.map (fun x => (x.1, x.2.b)) == [(0, 15), (1, 15)] &&
      !j.s.rowPending 0 0 0 0 15) = true := by decide +kernel

/-- A window of one line at 0x2000. -/
def winWarp : Warp := { wp with kb := (List.replicate 8 0).set 0 0x2000, ks := (List.replicate 8 0).set 0 1 }

theorem test_meets_WarpWideMovesComplete_windows :
    (issuedBy (withWarp winWarp) 27 { ext with t := 2, d := dv 4, b := .src (.window 0 0) false } false false (fun r =>
      if Machine.Opd.isWindow (.src (.window 0 0) false) then r else { r with b := .zero })).any (fun j => j.p.vals.map (·.1) == [0, 1] &&
        !j.wp.beyondIn 0 1 (.src (.window 0 0) false)) = true ∧
    (issuedBy (withWarp winWarp) 30 { ext with d := dv 4, a := .src (.window 0 0) false, b := imm 1 } false false id).any (fun j =>
      j.p.vals.map (fun x => (x.1, x.2.a)) == [(0, 0), (1, 0)]) = true ∧
    (issuedBy world 27 { zero with t := 3, d := dv 4, a := rv 1, b := imm 31 } false false (fun r => { r with a := .zero })).any
      (fun j => j.p.vals.map (fun x => x.2.b) == [31, 31] && (j.wp.thread? 31).isNone) = true := by decide +kernel

theorem test_meets_ReductionsComplete_empty : redAll .rne 0 0 [] = (0, 0) ∧ redAll .rne 1 3 [7, 2 ^ 63] = (2 ^ 63, 0) ∧
    ([(3, true), (4, false)].map (·.1)).Nodup := by decide +kernel

theorem test_meets_RegisterInstructionFrame_quietly :
    goes world 8 { zero with d := dv 4, a := rv 0, b := rv 1 } false false (fun j =>
      decide (Ops.windowOf { zero with d := dv 4, a := rv 0, b := rv 1 } j.r = none)) = true := by decide +kernel

end Sys2Proof.Tests

namespace Sys2Proof.Tests

/-! ### Control -/

/-- The thread of index `t`. -/
def at_ (w : Warp) (t : Nat) : Thread := (w.thread? t).getD (th 0 0 0)

theorem test_meets_BranchesComplete :
    goes world 38 { zero with d := .num 8, a := .num 0, b := .num 4 } false false (fun j => j.p.vals.map (·.1) == [0, 1] &&
      goodTarget (relTarget (at_ j.wp 0).pc { zero with b := .num 4 } (.num 0))) = true ∧
    goes world 38 { zero with t := 2, a := rv 2 } false false (fun j => j.p.vals.map (·.2.a) == [0x2000, 0x2040]) = true ∧
    goes { world with warps := [(0, { wp with copies := [(0, ⟨List.replicate 64 1, 0, true⟩)] })] } 39
      { zero with d := .num 127, a := rg 0, b := .num 125 } false false (fun j => j.p.vals.map (·.2.a) == [1, 1]) = true := by
  decide +kernel

theorem test_meets_Targets :
    (relTarget 0x1000 { zero with b := .num 125 } (.num 127)) = 0x1000 - 12 ∧ goodTarget (2 ^ 57 - 4) = true ∧
    goodTarget (2 ^ 57) = false ∧ goodTarget 2 = false ∧
    goes (withWarp { wp with threads := [entryThread 8 16 0 0 0 0 0 true] }) 38 { zero with t := 1, a := .num 127, b := .num 125 }
      false false (fun j => decide (j.wp.issuePc = some 8) && !goodTarget (relTarget 8 { zero with b := .num 125 } (.num 127))) = true ∧
    goes (withWarp { wp with threads := [entryThread 12 16 0 0 0 0 0 true] }) 44 { zero with a := .num 127, b := .num 125 }
      false false (fun j => decide (j.wp.issuePc = some 12) && relTarget 12 { zero with b := .num 125 } (.num 127) == 0) = true := by
  decide +kernel

theorem test_meets_BranchesSetThePcs :
    goes world 38 { zero with d := .num 8, a := .num 0, b := .num 4 } false false (fun j => j.p.vals.map (·.1) == [0, 1] &&
      j.wp.threads.all fun t => t.meetA == 0 && t.link.isEmpty) = true := by decide +kernel

theorem test_meets_CallsAndReturnsComplete :
    goes world 40 { zero with d := .num 16, a := .num 0, b := .num 4 } false false (fun j =>
      j.p.vals.map (·.1) == [0, 1] && (at_ j.wp 0).s == 16 && decide ((at_ j.wp 0).link.length < 260) &&
      decide (j.s.spillCheck 0 j.wp 0 (at_ j.wp 0) 16 = .ok)) = true ∧
    goes (withWarp { wp with threads := [{ th 0 0 0 with link := [.call 0x40 16 2], fp := 2, s := 3, depth := 1 }] }) 42 zero false false
      (fun j => decide ((at_ j.wp 0).link.head? = some (.call 0x40 16 2))) = true ∧
    goes world 43 { zero with d := .num 12 } false false (fun j => decide (12 ≤ j.wp.win)) = true := by decide +kernel

theorem test_meets_CallFrames : world.warp? 0 0 = some wp ∧ wp.thread? 1 = some (th 6 9 0x2040) ∧ 16 ≤ (th 6 9 0x2040).s := by
  decide +kernel

theorem test_meets_MeetCompletes :
    goes world 44 { zero with a := .num 0, b := .num 11 } false false (fun j => j.p.vals.map (·.1) == [0, 1] &&
      goodTarget (relTarget (j.wp.issuePc.getD 0) { zero with b := .num 11 } (.num 0)) && j.wp.meets.isEmpty) = true ∧
    goes (withWarp { wp with meets := (List.range 32).map fun i => ⟨if i = 0 then 0x102C else 4 * BitVec.ofNat 64 i, 0, 1, 0⟩ }) 44
      { zero with a := .num 0, b := .num 11 } false false (fun j => (j.wp.meets.map fun e => (e.addr, e.depth)).contains (0x102C, 0)) = true := by
  decide +kernel

theorem test_meets_ExitsComplete :
    goes world 45 zero false false (fun j => j.p.vals.map (·.1) == [0, 1] && (j.s.exitWaits 0 0 j.wp [0, 1]).isEmpty) = true ∧
    goes world 45 { zero with t := 1, a := rg 0 } false false (fun j => (j.s.phalanx? 0 0).isSome && (j.s.group? 0 0).isSome) = true := by
  decide +kernel

theorem test_meets_TrapSleepAndWait :
    goes world 46 { zero with d := .num 127 } false false (fun j => j.p.vals.map (·.1) == [0, 1]) = true ∧
    goes world 53 { ext with x := 8, a := .num 0, w2 := 1300 } false false (fun j => j.p.vals.length == 2) = true ∧
    goes world 53 { ext with x := 9, a := .num 0, w2 := 16 } false false (fun j =>
      (List.range 16).all fun k => ((at_ j.wp 1).cell k).full) = true ∧
    goes (withWarp (wp.modThread 0 fun t => t.setCell 15 { (Cell.of 0) with full := false })) 53 { ext with x := 9, a := .num 0, w2 := 16 }
      false false (fun j => !((at_ j.wp 0).cell 15).full) = true := by decide +kernel


end Sys2Proof.Tests

namespace Sys2Proof.Tests

/-! ### Faults, memory, scratchpad, synchronisation -/

def record (t : Nat) : FaultRecord := ⟨4, 1, true, 0x1000, 0x90000000, 0, 4, 0, 48, 2, t, 0, 0⟩

/-- The root with a handler. -/
def handled : State := { world with ctxs := [(0, { root with hbase := 0x4000, uibase := 0x8000 })] }

theorem test_meets_HandlerEntry :
    (withWarp { wp with win := 64, threads := [{ th 5 7 0 with cells := (th 5 7 0).cells ++ List.replicate 48 (Cell.of 0) }] }).claimReady
      0 0 0 0 0 0 16 32 64 = true ∧
    ({ wp with win := 64 } : Warp).stackLimit (th 5 7 0) 32 = none ∧ ({ wp with win := 64 } : Warp).newLo (th 5 7 0) 32 = 0 ∧
    (handled.ctx? 0).map (·.hbase) = some 0x4000 ∧ (record 0).handle.getLsbD 31 = false ∧ (th 5 7 0).trap = none := by decide +kernel

theorem test_meets_ElectElectsTheLowest :
    goes world 62 { ext with x := 7, c := .dst (.pred 3) } false false (fun j => j.p.vals.map (·.1) == [0, 1] &&
      decide (Ops.dst { ext with x := 7, c := .dst (.pred 3) } j.r = some (.pred 3, 1))) = true ∧
    goes world 62 { ext with x := 7, c := .dst .discard } false false (fun j =>
      decide (Ops.dst { ext with x := 7, c := .dst .discard } j.r = some (.discard, 1))) = true := by decide +kernel

def ldOps : Ops := { ext with x := 2, d := dv 4, a := rv 2, w2 := 0 }

theorem test_meets_MemoryInstructionsIssue :
    goes world 48 ldOps false false (fun j => decide (j.s.memWaits 0 0 48 ldOps j.wp j.p = none)) = true ∧
    goes world 52 { ext with x := 32, d := dv 4, a := rv 2, b := rv 0 } false true (fun j =>
      decide (j.s.memWaits 0 0 52 { ext with x := 32, d := dv 4, a := rv 2, b := rv 0 } j.wp j.p = none)) = true ∧
    memOf (.ld ldOps) = some (48, ldOps) := by decide +kernel

theorem test_meets_AccessesAreFormedAndStart :
    memForm 48 { ext with x := 3 } wp 0 (2 ^ 57) 0 0 = .flt 6 (2 ^ 57) ∧ memForm 48 { ext with x := 3 } wp 0 4 0 0 = .flt 7 4 ∧
    memForm 52 { ext with x := 16 } wp 0 4 0 0 = .flt 8 4 ∧ (match memForm 49 { ext with x := 3 } wp 0 (2 ^ 57 - 8) 0 9 with | .ok _ => true | .flt _ _ => false) = true ∧
    (match memForm 50 { ext with x := 0 } { wp with plim := 4 } 0 4 0 0 with | .ok _ => true | .flt _ _ => false) = false ∧
    (match memForm 50 { ext with x := 0 } { wp with plim := 4 } 0 3 0 0 with | .ok _ => true | .flt _ _ => false) = true ∧
    world.xlatAll (.load false) (world.tlbLook 0 0) 0 [0x2000] = .ok [0x2000] false 0 ∧
    memForm 50 { ext with x := 1 } { wp with plim := 4, pbase := 2 ^ 57 } 31 3 0 0 = .flt 6 (2 ^ 57 + 127 * 4) ∧
    memForm 58 { ext with x := 3, w2 := 1 } wp 0 (2 ^ 57) 0 0 = .flt 6 (2 ^ 57) ∧
    (match memForm 58 { ext with x := 5, w2 := 3 } wp 0 (2 ^ 57 - 128) 0 0 with | .ok f => f.kind == .wback 3 true | _ => false) = true ∧
    (match memForm 59 { ext with x := 3, w2 := -8 } wp 0 (2 ^ 57) 0 0 with | .ok f => f.kind == .vcnt | _ => false) = true := by decide +kernel

def ldsOps : Ops := { ext with x := 0, d := dv 4, a := imm 0, w2 := 508 }
def stsOps : Ops := { ext with x := 1, a := imm 0, c := rv 0, w2 := 508 }

theorem test_meets_ScratchpadInstructionsComplete :
    goes world 51 ldsOps false false (fun j => decide (j.s.scratchWaits 0 0 ldsOps j.wp j.p (memSite 51 ldsOps).1 = none)) = true ∧
    goes world 51 { ext with x := 32, a := imm 3, w2 := 1 } false false (fun j => j.p.vals.map (·.2.a) == [3, 3] &&
      j.s.acc.isEmpty && j.wp.fences.isEmpty && !(j.s.core 0).logFull 0 0 (j.wp.privileged j.p.exec)) = true ∧
    goes world 51 { ext with x := 33, d := dv 4, a := imm 3 } false false (fun j => j.p.vals.map (·.2.a) == [3, 3]) = true := by
  decide +kernel

theorem test_meets_ScratchpadStoresReachTheirRows :
    goes world 51 stsOps false false (fun j => decide (j.s.scratchWaits 0 0 stsOps j.wp j.p (memSite 51 stsOps).1 = none) &&
      (memSite 51 stsOps).1 == 4 && j.p.vals.map (·.2.a) == [0, 0]) = true := by decide +kernel

theorem test_meets_FencesAndBarriersComplete :
    goes world 53 { ext with t := 3 } false true (fun j => decide (j.s.strongWaits 0 0 0 [0, 1] = ([], []))) = true ∧
    goes world 53 { ext with x := 1, c := imm 2, w2 := 15 } false true (fun j => j.p.vals.map (·.2.c) == [2, 2] &&
      (j.s.notLocal 0 0 0 [0, 1]).isEmpty && (j.s.group? 0 0).isSome) = true ∧
    goes world 53 { ext with x := 3, w2 := 15 } false true (fun j => j.p.vals.length == 2) = true ∧
    goes world 53 { ext with x := 4 } false true (fun j => (j.s.notGlobal 0 0 0 [0, 1]).isEmpty &&
      (j.s.widen 0).isSome && (j.s.phalanx? 0 (j.s.groupOf 0 j.wp).phx).isSome) = true := by decide +kernel

theorem test_meets_BarrierArrivals :
    (⟨0, 0⟩ : Barrier).arrive 3 2 = .flt 27 ∧ (⟨0, 0⟩ : Barrier).arrive 0 2 = .flt 27 ∧ (⟨2, 1⟩ : Barrier).arrive 1 2 = .flt 28 ∧
    (⟨2, 1⟩ : Barrier).arrive 2 2 = .ok ⟨0, 0⟩ true := by decide

theorem test_meets_WordWaitsComplete :
    goes world 53 { ext with x := 5, d := dv 4, a := rv 2, b := rv 0, c := rv 1 } false true (fun j =>
      j.p.vals.map (·.2.a) == [0x2000, 0x2040] && decide (j.s.homeCheck 0 0 0x2000 = .ok 0x2000 0x2000 false) &&
      decide (j.s.logConflicts 0 0 0 0 false [0x40] = ([], []))) = true ∧
    goes world 53 { ext with x := 7, d := dv 4, a := rv 2 } false true (fun j => j.p.vals.length == 2) = true := by decide +kernel

theorem test_meets_GambitInstructionsComplete :
    goes world 54 ext false false (fun j => j.p.vals.length == 2 && (j.s.trackedOf 0 0 0 [0, 1]).isEmpty) = true ∧
    goes world 54 { ext with x := 1, d := .num 7 } false false (fun j => (j.s.notGlobal 0 0 0 [0, 1]).isEmpty && (j.s.widen 0).isSome) = true ∧
    goes world 54 { ext with x := 2, w2 := 255 } false false (fun j => j.p.vals.length == 2) = true ∧
    goes world 54 { ext with x := 3, d := dv 4 } false false (fun j => (at_ j.wp 0).gambit.code == 13) = true := by decide +kernel

theorem test_meets_GambitOutcomes :
    winners [(0, ⟨true, none, 0, 0, [(5, 0)], [], []⟩), (31, ⟨true, none, 0, 0, [], [(5, (0xFF, 1))], []⟩)] [] = [0] ∧
    txFail [0] 31 ⟨true, none, 0, 0, [], [], []⟩ = some 2 ∧ txFail [0] 0 ⟨true, none, 0, 0, [], [], []⟩ = none ∧
    txFail [] 0 ⟨true, none, 9, 0, [], [], []⟩ = some 9 ∧ txFail [] 0 Gambit.none = some 13 := by decide

def nested : LoopNest := ((LoopNest.closed.set 0 (2 ^ 32 - 1)).bind fun l => l.set 1 1).getD LoopNest.closed

theorem test_meets_LoopNestCompletes :
    goes world 55 { ext with x := 0, b := imm 3 } false false (fun j => (j.wp.ln.set 0 3).isSome && j.p.vals.length == 2) = true ∧
    goes world 55 { ext with x := 1, t := 1, d := .num 15, b := imm 3, w2 := 3 } false false (fun j => j.p.vals.length == 2) = true ∧
    goes (withWarp { wp with ln := nested }) 55 { ext with x := 2, w2 := 1 } false false (fun j => (j.wp.ln.loop).isSome) = true ∧
    goes (withWarp { wp with ln := nested }) 55 { ext with x := 3, t := 1, c := .dst (.pred 0) } false false (fun j =>
      (j.wp.ln.next 1).isSome) = true ∧
    goes world 55 { ext with x := 4, t := 3, d := dv 4 } false false (fun j => j.p.vals.length == 2) = true ∧
    goes world 55 { ext with x := 2 } false false (fun j => j.wp.ln.loop.isNone) = true := by decide +kernel

theorem test_meets_LoopNestCounts :
    LoopNest.closed.set 0 0 = none ∧ LoopNest.closed.set 1 1 = none ∧ (LoopNest.closed.set 0 (2 ^ 32 - 1)).isSome = true ∧
    LoopNest.closed.n.length = 4 ∧ LoopNest.closed.trip.length = 4 := by decide +kernel

end Sys2Proof.Tests

namespace Sys2Proof.Tests

/-! ### Engine, die, tasks, contexts, system -/

/-- The block of `mma` with A m1, B m2, C m0, f32, one pass. -/
def blockBytes : List Byte := toBytes (0x198 + 1 * 2 ^ 56 + 2 * 2 ^ 68) 64

def mxWorld : State := { world with cores := [(0, { core0 with scratch := Memory.write [] 448 blockBytes })],
                                    warps := [(0, { wp with copies := [(0, entryUniform 448 0x2000 0 0)] })] }

theorem test_meets_EngineInstructionsComplete :
    goes mxWorld 56 { ext with a := rg 0 } true true (fun j => j.p.vals.map (·.2.a) == [448] && (j.s.tilesOf 0 j.wp).2 == 4 &&
      (MmaBlock.parse ((j.s.core 0).scratch.readNat 448 64)).legal 4 (j.s.tdRange 0).2 &&
      blockReserved ((j.s.core 0).scratch.readNat 448 64) && !(j.s.core 0).scratchBad 448 64 && !j.s.engineFull 0 j.wp 0) = true ∧
    goes world 56 { ext with x := 1, d := .num 3, a := rv 2, w2 := 0x7F000 } true true (fun j => j.p.vals.map (·.2.a) == [0x2000] &&
      decide (16384 * 3 + 128 * (0x7F + 1) ≤ 16384 * (j.s.tilesOf 0 j.wp).2)) = true ∧
    goes world 56 { ext with x := 3, d := .num 3, w2 := 0x7F000 } true true (fun j => j.p.vals.length == 1) = true ∧
    goes world 56 { ext with x := 4, d := .num 3, a := .num 2, b := .num 0 } true true (fun j => j.p.vals.length == 1 &&
      decide (16384 * 3 + cvtBytes 0 ≤ 16384 * 4)) = true ∧
    goes world 56 { ext with x := 8, d := .num 3, a := .num 2, b := .num 1 } true true (fun j => j.p.vals.length == 1) = true ∧
    goes world 56 { ext with x := 5, d := dv 4, w2 := 128 } false true (fun j => (j.s.groupOf 0 j.wp).slotsIdle 128) = true ∧
    goes world 56 { ext with x := 6, d := dv 4, w2 := 7 } false true (fun j => j.p.vals.length == 2) = true := by decide +kernel

theorem test_meets_DescriptorInstructionsComplete :
    goes world 57 { ext with x := 0, a := imm 0, b := .src (.reg (.g 0)) false, w2 := 448 } true true (fun j =>
      j.p.vals.map (fun x => (x.2.a, x.2.b)) == [(0, 0)] && decide (j.s.tdRange 0 = (0, 4096)) &&
      (j.s.notGlobal 0 0 0 [0]).isEmpty && (j.s.released 0).isEmpty) = true ∧
    goes world 57 { ext with x := 2, b := rg 0, w2 := 4096 } true true (fun j => j.p.vals.map (·.2.b) == [0]) = true ∧
    goes world 57 { ext with x := 3, a := rg 0, b := rg 1 } true true (fun j => j.p.vals.map (·.2.a) == [0]) = true := by decide +kernel

/-- Row 3 of the group's scratchpad holds a copy descriptor of one line from 0x2000 to 0x3000. -/
def cpWorld : State := { world with
  cores := [(0, { core0 with scratch := Memory.write [] 384 (toBytes (0x2000 + 0x3000 * 2 ^ 64 + 2 ^ 128) 32) })],
  warps := [(0, { wp with copies := [(0, entryUniform 384 0 0 0)] })] }

theorem test_meets_DieInstructionsComplete :
    goes cpWorld 58 { ext with d := dv 4, a := rg 0 } true true (fun j => !j.s.logBusy 0 0 j.wp j.p &&
      (match j.s.copyDesc 0 0 j.wp 384 32 with
       | .ok d => (match j.s.cpyAct 0 0 j.wp d with | .go _ _ _ => true | _ => false)
       | _ => false)) = true ∧
    goes world 58 { ext with x := 1, d := dv 4, a := rv 2, b := rv 0 } false true (fun j => j.p.vals.length == 2 &&
      !j.s.logBusy 0 0 j.wp j.p) = true ∧
    goes world 58 { ext with x := 2, d := dv 4, b := rv 0 } false true (fun j => j.p.vals.length == 2) = true ∧
    goes world 58 { ext with x := 8, d := dv 4, w2 := 31 } false true (fun j => j.p.vals.length == 2) = true ∧
    goes world 58 { ext with x := 10, a := rv 2 } false true (fun j => j.p.vals.length == 2) = true ∧
    goes world 58 { ext with x := 6, d := dv 4, a := rg 0, w2 := 1 } true true (fun j => j.p.vals.length == 1) = true := by decide +kernel

def queue5 : Queue := ⟨true, false, false, 4, 0, 0, 0x10000, 0, 0, 0, 0, 0, []⟩
def qWorld : State := { cpWorld with queues := [(5, queue5)], warps := [(0, { wp with copies := [(0, entryUniform 0 5 0 0)] })] }

/-- A task header at 0x2000, and there and at 0x2040 the phase header of one destination of kind 0. -/
def hdrWorld : State := { qWorld with mem := Memory.write [] 0x2000 (toBytes (2 ^ 90) 16),
                                      warps := [(0, { wp with threads := [th 0 0 0x2000] })] }
def phaseWorld : State := { qWorld with mem := [(0x2000, 1)], warps := [(0, { wp with threads := [th 0 0 0x2000], copies := [(0, entryUniform 0x2000 0 0 0)] })] }

theorem test_meets_TaskInstructionsComplete :
    goes { qWorld with warps := [(0, { wp with copies := [(0, entryUniform 384 5 0 0)] })] } 60 { ext with d := dv 4, a := rg 0, b := rg 2 }
      true true (fun j => j.p.vals.map (fun x => (x.2.a, x.2.b)) == [(384, 5)] && j.s.mayPost 0 5 &&
        decide (j.s.postOrder 0 0 j.wp [0] false = ([], [])) &&
        (match j.s.arrive 0 0 5 (List.replicate 64 0) with | .done _ slot => slot == 0 | _ => false)) = true ∧
    goes qWorld 60 { ext with x := 8, d := dv 4, b := imm 5 } false true (fun j => j.p.vals.map (·.2.b) == [5, 5] && j.s.mayPost 0 5) = true ∧
    goes qWorld 60 { ext with x := 5, a := rg 0, c := .dst .discard } false true (fun j => decide (j.s.phaseOf 0 0 = none)) = true ∧
    goes qWorld 60 { ext with x := 4, a := rg 0, c := .dst .discard, w2 := 1 } false true (fun j =>
      (j.s.notGlobal 0 0 0 [0, 1]).isEmpty && (j.s.released 0).isEmpty) = true ∧
    goes qWorld 60 { ext with x := 6, a := rg 0, b := rg 1, c := .dst .discard, w2 := 31 } true true (fun j =>
      (j.s.raiseVec 0 0 31 0 0).isSome && decide (j.s.raiseVec 0 (2 ^ 15) 31 0 0 = none)) = true := by decide +kernel

theorem test_meets_TaskInstructionsComplete_reads :
    goes hdrWorld 60 { ext with x := 1, d := dv 4, a := rv 2, b := imm 5 } false true (fun j =>
      j.p.vals.map (fun x => (x.2.a, x.2.b)) == [(0x2000, 5)] && decide (j.s.postOrder 0 0 j.wp [0] false = ([], [])) &&
      (match readCards 0 0 j.wp 0 j.s j.p.vals with | ([(0, .ok _ _)], _) => true | _ => false)) = true ∧
    goes hdrWorld 60 { ext with x := 2, d := dv 4, a := rv 2, b := rv 2, w2 := 5 } false true (fun j =>
      (match j.s.threadRead 0 0 j.wp 0 0x2000 16 with | .ok bs _ => taskHeader 0x2000 bs | _ => false)) = true ∧
    goes phaseWorld 60 { ext with x := 3, a := rg 0, c := .dst .discard } true true (fun j => j.p.vals.map (·.2.a) == [0x2000] &&
      (match j.s.threadRead 0 0 j.wp 0 0x2000 64 with | .ok bs _ => phaseOk root.claim (ofBytes bs) | _ => false)) = true := by
  decide +kernel

theorem test_meets_ContextInstructionsComplete :
    goes world 61 { ext with x := 5, d := dv 4, b := imm 1 } true true (fun j => j.p.vals.map (·.2.b) == [1] &&
      (j.s.ctxDo 5 0 0 1 0 0 0).status != 0) = true ∧
    goes { world with warps := [(0, { wp with copies := [(0, entryUniform 0x2000 0 0 0)] })] } 61
      { ext with x := 3, d := dv 4, a := rg 0, b := imm 1 } true true (fun j => j.p.vals.map (·.2.a) == [0x2000] &&
      ctxAlign 3 0x2000 0 == 32 && (match j.s.threadRead 0 0 j.wp 0 0x2000 32 with | .ok _ _ => true | _ => false)) = true := by
  decide +kernel

/-- A thread in a handler that it entered for a fault of its own. -/
def inHandler : Thread :=
  { th 0 0 0 with fp := 16, depth := 1, link := [.trap 0x1004 16], trap := some ⟨record 0, 4, 1⟩,
                  cells := (List.range 48).map fun _ => Cell.of 0 }

theorem test_meets_LeavingAHandler :
    goes (withWarp { wp with win := 48, threads := [{ inHandler with trap := some ⟨{ record 0 with handle := 0, late := false }, 4, 1⟩ }] }) 62
      { ext with w2 := 3 } false false (fun j =>
        let k := Tret.step ⟨j.s, [], [], none⟩ 0 0 3 false (siteOf j.wp 62 { ext with w2 := 3 } 0 0) 0
        k.wait.isNone && k.ids.isEmpty && k.cpyw.isEmpty) = true ∧
    goes world 62 { ext with w2 := 1 } false false (fun j => (at_ j.wp 0).trap.isNone) = true ∧
    inHandler.link.head? = some (.trap 0x1004 16) ∧ inHandler.depth = 1 := by decide +kernel

theorem test_meets_SystemInstructionsComplete :
    goes world 62 { ext with x := 1, d := dv 4, w2 := 12 } false false (fun j => j.p.vals.map (·.1) == [0, 1]) = true ∧
    goes (withWarp { wp with win := 48, irq := some (0, 1), threads := [inHandler] }) 62 { ext with x := 8 } false false (fun j =>
      decide (j.wp.irq = some (0, (at_ j.wp 0).depth)) && j.p.vals.map (·.1) == [0]) = true ∧
    goes world 62 { ext with x := 2, b := rg 0, w2 := 14 } true false (fun j => goodTarget 0 && j.p.vals.map (·.2.b) == [0] &&
      (j.s.ctx? 0).isSome) = true ∧
    goes world 62 { ext with x := 3, t := 2, d := dv 4, b := rg 0 } true false (fun j => (j.s.group? 0 0).isSome) = true ∧
    goes world 62 { ext with x := 5, d := dv 4, b := rg 0 } true false (fun j =>
      decide (((j.s.core 0).scalar false).statusOf 0 0 = some 0x100)) = true ∧
    goes world 62 { ext with x := 4, d := dv 4, a := rg 0, w2 := 480 } true true (fun j => j.p.vals.map (·.2.a) == [0] &&
      !(j.s.core 0).scratchBad 480 32 && decide (((j.s.core 0).scalar false).mailbox.length < 32)) = true := by decide +kernel

theorem test_meets_InterruptsArePendingUntilDelivered :
    world.group? (targetOf 0).1 (targetOf 0).2 = some grp ∧ grp.nextVec = none ∧ grp.ctx = 0 ∧
    ({ grp with uipend := 0x80000000, imask := 0x80000000 } : Group).nextVec = some 31 := by decide +kernel

/-- The loader of core 0 in focus, with a command of 32 zero bytes in its mailbox. -/
def command : LsCommand := ⟨List.replicate 32 0, 0, 0, 0, 7, []⟩
def loaderWorld (k : Scalar) : State := { world with focus := .scalar 0 false, cores := [(0, { core0 with loader := k })] }

theorem test_meets_ScalarCoreInstructionsComplete :
    let k := { Scalar.blank with mailbox := [command], xs := (List.replicate 32 0).set 1 4064 }
    let m := { Scalar.blank with cur := some (command, false), xs := (List.replicate 32 0).set 1 3 }
    scalarOn (loaderWorld k) = some (0, false, k) ∧ k.x 1 = 4064 ∧ k.cur = none ∧
    (loaderWorld m).cmdRows 0 command (m.x 1) 1 = true ∧
    ((loaderWorld m).copyOk 0 { m with xsa := 384 } command 0x2000 128 = true) ∧
    (match (loaderWorld m).copyXlat 0 0 false (copyChunks 34 0x2000 0 128) with
     | .ok xs => xs.length == 1 && !(loaderWorld m).reserved ((xs.map fun x => (x.1, x.2.2.1)) ++
         (loaderWorld m).publishRanges (some 0) (linesOf (xs.map fun x => (x.1, x.2.2.1))))
     | _ => false) = true ∧
    m.rv ⟨.addi, 1, 0, 0, 5, 4⟩ ≠ none ∧ (world.scalarAt 639 true).halted = false ∧ (world.scalarAt 0 false).traps = true := by
  decide +kernel

end Sys2Proof.Tests

namespace Sys2Proof.Tests

/-! ### Events -/

/-- A store of 4 bytes by thread 0 to 0x2000, not yet performed. -/
def store : Access :=
  ⟨0, 0, 0, 0, actorOf 0 0 0, 0, .store, 0x2000, [0x2000], 4, 1, 4, false, 0, 7, 0, false, false, 0, false, [], none, none, [], [], none,
   false, false, [], 0, ⟨0x1000, 4, 49, 2, 0, 3⟩, 0, false, false⟩
def result : Result := ⟨0, 0, 0, 0, [], [1], true, false, false, 3⟩
def accWorld : State := { world with focus := .device, acc := [(1, store)], results := [(2, result), (4, { result with isDiv := true })] }

theorem test_meets_CoreEventsComplete_results :
    accWorld.mayLand result false = true ∧ accWorld.mayLand { result with isDiv := true } true = true ∧
    accWorld.acc.get? 1 = some store ∧ accWorld.portOf { store with loc := some 0 } = some (channelOf 0x2000) ∧
    accWorld.portOf { store with pas := [] } = none ∧
    (State.portPick { accWorld with acc := [(1, { store with loc := some 0 })] } (channelOf 0x2000)) = some 1 := by decide +kernel

theorem test_meets_CoreEventsComplete_warps :
    State.waitOver { world with time := 100 } 0 0 { wp with wait := .results [] } = some [] ∧
    State.claimReady world 0 0 0 0 0 0 0 16 16 = true ∧
    State.oldest world 0 [(0, wp)] = some (0, wp) ∧ State.mayIssue world 0 wp = true ∧
    ({ grp with uipend := 1, imask := 1 } : Group).nextVec = some 0 ∧ handled.lowestWarp 0 0 = some 0 ∧
    (({ wp with wait := .mxwait 1 [], back := [0, 1], backLen := 12 } : Warp).endWait 5).receiver = some 0 := by decide +kernel

theorem test_meets_CoreEventsComplete_threads :
    world.spillMissing { wp with win := 8, pbase := 0x4000, p := 64 } 0 0 { th 0 0 0 with lo := 0 } 16 = none ∧
    ((world.publishAt 0 0 0x3000 4).map fun u => (u.plainRead 0 0 0x3000 4).1) = some (.ok [0, 0, 0, 0]) ∧
    (let w := { wp with threads := [{ th 0 0 0 with copy := 1 }], copies := [(0, entryUniform 0 0 0 0), (1, ⟨List.replicate 64 0, 0, false⟩)] }
     w.copiesNeeded.contains 1 = true ∧ (w.copies.filter fun e => e.2.resident).length < 4) ∧
    (let s := { accWorld with acc := [(1, { store with loc := some 0, lands := [] })] }
     s.portGrants (channelOf 0x2000) 0 ({ store with loc := some 0 } : Access).cost = true) ∧
    (({ store with pas := [], va := 2 ^ 50 } : Access).vas.find? fun va => world.absent 0 0 va) = some (2 ^ 50) ∧
    linesOf ({ store with loc := some 0 } : Access).ranges = [0x40] ∧
    State.invalidated { world with shootdowns := [(3, ⟨[(0, 0, 4096)], [], 0, none, none⟩)] } 3 [(0, 0, 4096)] = true := by decide +kernel

theorem test_meets_StoresReachMemory :
    accWorld.acc.get? 1 = some store ∧ store.kind = .store ∧ store.pas = [0x2000] ∧ store.parts = 1 ∧ regionOf 0x2000 = .ram ∧
    accWorld.expanderLost 0x2000 = false ∧ accWorld.mem.wf = true ∧ (accWorld.globalOne 1).mem.readNat 0x2000 4 = 7 ∧
    atomicOn 11 32 4 4 0 = 0 ∧ atomicOn 11 32 3 4 0 = 4 := by decide +kernel

def mmaOp : EngOp := ⟨0, 0, 0, 0, 0, .mma (MmaBlock.parse (0x198 + 1 * 2 ^ 56 + 2 * 2 ^ 68)), 0, 0, 0, 4, true, none, none, 0, [], [], 9, [], false⟩
def mxldOp : EngOp := { mmaOp with kind := .mxld 0 0x2000 1 }
def mxzOp : EngOp := { mmaOp with kind := .mxz 3 128 }
def opWorld (o : EngOp) (busy : Option Nat) : State :=
  { world with focus := .device, clusters := [(0, { Cluster.blank with phxs := [(0, phx)], holds := some 0, ops := [(1, o)], busy := busy })] }

theorem test_meets_EngineEventsComplete_engine :
    ((opWorld mmaOp none).cluster 0).startable { mmaOp with started := false } = true ∧
    (mxldOp.wanted.contains 0x40) = true ∧ (opWorld mxldOp none).forked mxldOp = true ∧
    (opWorld mxldOp none).engXlat 0 0 0x2000 false = .ok 0x2000 false ∧
    ((opWorld mmaOp none).pickOp (((opWorld mmaOp none).cluster 0).ops.filter fun e => (opWorld mmaOp none).passReady 0 e.2)) =
      some (1, mmaOp) ∧
    ((opWorld mxzOp none).pickOp (((opWorld mxzOp none).cluster 0).ops.filter fun e => (opWorld mxzOp none).moveReady 0 e.2)) =
      some (1, mxzOp) ∧
    mmaOp.readsBadTile ((opWorld mmaOp (some 1)).cluster 0) = false := by decide +kernel

def copy : Copy := ⟨0, 0, 0, 0, 0x2000, 0x3000, 0, 0, 1, 0, 0, false, [], 0, none, [], false, 0⟩
def coll : Coll := ⟨0, 0, 0, 0, 0, 0, 0, 0x2000, 0x3000, 1, 0, 0, 0, 0, false, [], none, false, 0, 0, [], []⟩
def copyWorld : State := (world.setCopyEngine 0 15 { CopyEngine.blank with queue := [copy] })

theorem test_meets_EngineEventsComplete_die :
    (copyWorld.copyEngine 0 15).queue = [copy] ∧
    (match copyWorld.copySource 0 copy 0 with
     | .ok bs u => (match u.copyDest 0 15 copy bs with | .ok _ => bs.length == 128 | _ => false)
     | _ => false) = true ∧
    (world.lookup 0 0 0x3000).map (·.stripe) = some 0 ∧
    (let w := { wp with threads := [{ th 0 0 0 with gambit := ⟨true, none, 0, 0, [], [(0x400, (0xFF, 1))], []⟩ }] }
     let s := withWarp w
     let k : Commit := ⟨0, 0, 0, 0, 0, [channelOf 0x2000], [], none⟩
     (homesOf (s.commitGambit k).words).length = 1 ∧ s.commitBlocked 1 k [0x400] = false ∧
       (s.validate 1 (channelOf 0x2000) 0 true (s.commitGambit k)).1 = none) := by decide +kernel

/-- An A operand in memory, whose descriptor is blank. -/
def akBlock : MmaBlock := { MmaBlock.parse 0x198 with ak := true, bk := false }
def mxstOp : EngOp := { mmaOp with kind := .mxst 3 0x2000 1 }
def mxldRead : EngOp := { mxldOp with fetched := [(0x40, 0x40)] }
def moves (o : EngOp) (p : State → Bool) : Bool :=
  let u := (opWorld o none).startDue 0
  ((u.pickOp ((u.cluster 0).ops.filter fun e => u.moveReady 0 e.2)).any fun x => x.1 == 1) && p u

theorem test_meets_EngineEventsComplete_starts :
    (world.descOf 0 0 0 akBlock.fmtA 0).2.isSome = true ∧ oobFails none 2048 2048 = false ∧
    (ewTile 0 5 0 (List.replicate 8 0) (List.replicate 8 0)).isSome = true := by decide +kernel

theorem test_meets_EngineEventsComplete_stores :
    moves mxstOp (fun u => !(u.cluster 0).tileBad 0 (16384 * 3) 128 && u.engXlat 0 0 0x2000 true == .ok 0x2000 false &&
      !(((((u.recallLine 0x40).touchL2 0x2000 0 true).clearPoison 0x2000).physWrite 0x2000
        ((u.cluster 0).tileRead 0 (16384 * 3) 128))).2) = true := by decide +kernel

theorem test_meets_EngineEventsComplete_loads :
    moves mxldRead (fun u => (u.readLines 0 mxldRead.fetched (mxldRead.passLines 0)).1.map (·.1) == [0x40] &&
      !(u.readLines 0 mxldRead.fetched (mxldRead.passLines 0)).2.1) = true := by decide +kernel

/-- The root with a page of stripe set 1 at 0x400000, of which this device is member 0 and peer 9 member 1. -/
def stripedWorld : State :=
  { world with
    ctxs := [(0, { root with leaves := root.leaves ++ [⟨2 ^ 50, 2 ^ 21, 2 ^ 21, 0, true, true, true, true, false, false, false, 0, 1, some 0⟩] })]
    colls := [(1, { coll with dst := 2 ^ 50 })]
    hdie := { world.hdie with links := [(0, ⟨true, 9, 1⟩)], stripes := [(1, [0x0C000201, 0, 9])] } }

def stripedColl : Coll := { coll with dst := 2 ^ 50 }

theorem test_meets_EngineEventsComplete_collective :
    stripedWorld.colls.get? 1 = some stripedColl ∧ (stripedWorld.lookup 0 0 stripedColl.dst).map (·.stripe) = some 1 ∧
    stripedWorld.peerAlive 9 = true ∧ (stripedColl.wants 0 0).1 = 0 ∧
    (match stripedWorld.readLine 0 0 stripedColl.src with
     | .ok bs u => (match u.writeLine 0 0 stripedColl.dst collActor (collReduce 0 0 (memberLines 2 0 bs (List.replicate 128 1))) with
       | .ok _ => true
       | _ => false)
     | _ => false) = true := by decide +kernel

theorem test_meets_EngineEventsComplete_homes :
    let g : Gambit := ⟨true, none, 0, 0, [(0x400, 0)], [(0x600, (0xFF, 1))], []⟩
    let s := withWarp { wp with threads := [{ th 0 0 0 with gambit := g }] }
    let k : Commit := ⟨0, 0, 0, 0, 0, homesOf g.words, [], none⟩
    s.commitGambit k = g ∧ (homesOf g.words).length = 2 ∧ s.commitBlocked 1 k [0x400] = false ∧
    ((s.beforeValidate k [0x400]).validate 1 (channelOf 0x2000) 0 false g).1 = none := by decide +kernel

/-- At every time one bank of a die refreshes, and another does not (where the windows lie is the device's). -/
theorem test_meets_EngineEventsComplete_refresh (t : DWord) :
    (∃ b, b < 32 ∧ wsRefreshing 3 b t = true) ∧ (wsRefreshing 0 0 t = false ∨ wsRefreshing 0 31 t = false) := by
  refine ⟨⟨((((t.toNat : Int) - (Config.wph 3 : Int)) % 62400) / 1950).toNat, by omega, ?_⟩, ?_⟩
  · simp only [wsRefreshing, decide_eq_true_eq]
    omega
  · simp only [wsRefreshing, decide_eq_false_iff_not]
    omega

/-- Queue 5 with a NOP card of zeros at HEAD. -/
def cardWorld (x : Nat) : State :=
  { world with focus := .device, queues := [(5, { queue5 with tail := 1 })], mem := Memory.write [] 0x10000 (toBytes x 128) }
def head (s : State) : Option (Nat × Nat) := match s.headCard 0 { queue5 with tail := 1 } with | .ok x n _ => some (x, n) | _ => none

theorem test_meets_CardsComplete :
    head (cardWorld 0) = some (0, 1) ∧ cardListed 4 = true ∧ cardListed 5 = false ∧ cardListed 0x18 = true ∧
    cardOk (2 + 7 * 2 ^ 44 + 9 * 2 ^ 128) 16384 = true ∧ cardOk (2 ^ 27) 16384 = false ∧
    (cardWorld 0).counterBad 0 5 0 = false ∧ head (cardWorld (3 + 0x3000 * 2 ^ 128)) = some (3 + 0x3000 * 2 ^ 128, 1) ∧
    (match (cardWorld 0).devWriteOver 0 0x3000 (sliceActor 0) (toBytes 5 8) with | .done _ => true | _ => false) = true ∧
    (2 ^ 57 : Nat) ≤ bits (3 + 2 ^ 57 * 2 ^ 128) 128 64 ∧
    (match (cardWorld 0).homeRead 0 0 0x3000 64 with | .ok bs _ => bs.length == 64 | _ => false) = true ∧ ctxAlign 5 0 0 = 1 ∧ ctxBlock 5 0 0 = 0 := by decide +kernel

def hdr1 : KHdr := ⟨0x1000, 64, 1, 0, false, 0, 0, List.replicate 8 0, List.replicate 8 0⟩
def launched : Launch := launchOf 0 5 0 (1 + 2 ^ 256) hdr1 0
def quota0 : Quota := ⟨true, 0, 0, 32, 0, 128, 0, 2048, 0, 32⟩
def launchWorld (l : Launch) : State :=
  { world with focus := .device, warps := [], groups := [], launches := [(3, l)], queues := [(5, queue5)],
               cores := (List.range 4).map fun c => (c, { Core.blank with quotas := [(0, quota0)] }),
               clusters := [(0, { Cluster.blank with holds := some 0 })], ctxs := [(0, { root with claim := { root.claim with cl := 1 } })] }
def saved : Saved := ⟨phx, [], [], [], [], [], [], []⟩

theorem test_meets_SliceEventsComplete_launches :
    (launchWorld { launched with placed := 1, done := 1 }).launchDone 3 { launched with placed := 1, done := 1 } = true ∧
    (launchWorld launched).waitingLaunches = [(3, launched)] ∧ (launchWorld launched).mayPlace 0 0 = true ∧
    (((launchWorld launched).programQuota 0 0).placePhalanx 0 3 launched).isSome = true ∧
    (((launchWorld launched).ctx? 0).map fun c => c.claim.clusters) = some [0] ∧
    (let ph := { phx with kept := true, castle := 63, launch := 3 }
     (launchWorld launched).keptBusy 0 ph = false ∧
       (match (launchWorld launched).castle ph launched with | .reject 2 none => true | _ => false) = true) := by decide +kernel

theorem test_meets_SliceEventsComplete_contexts :
    (let s : State := { launchWorld launched with time := 10 ^ 9 }
     (s.cluster 0).boundary < s.boundaryOf 0 ∧ (s.participants 0).map (·.1) = [0] ∧ winnerOf [(0, 5)] [0] = some 0) ∧
    (let s : State := { world with focus := .device, clusters := [(0, { Cluster.blank with stop := some (0, none), stopAt := 5 })], warps := [] }
     (s.settleStop 0 0).quiescent 0 0 = true ∧ s.time.toNat ≤ (s.cluster 0).stopAt.toNat + saveBudget) ∧
    (let s : State := { world with clusters := [(0, { Cluster.blank with holds := some 0, saved := [saved] })] }
     (s.cluster 0).saved.filter (fun v => decide (v.phx.ctx = 0)) = [saved] ∧ s.savedIn 0 0 = true ∧ s.runnable 0 = true ∧
       s.hdie.planst ≠ 3) ∧
    (let ph : Phase := ⟨0x2000, [(1, 0)], false, false, 7, 0, 0⟩
     let s : State := { world with phases := [(0, ph)], warps := [(0, { wp with wait := .pwait 0x2000 7 none [] })] }
     s.phaseOf 0 0x2000 = some ph ∧ (∀ d ∈ ph.dests, d.2 = 0)) ∧
    (world.ctx? 0).map (·.gen) = some 0 ∧ world.ctx? 65535 = none ∧
    (let s : State := { world with clusters := [(159, { Cluster.blank with stop := some (1, some 0), boundary := 0 })], time := 32501,
                                   ctxs := [(0, { root with claim := { root.claim with gang := true } })] }
     s.isGang 0 = true ∧ (s.clustersOf 0).filter (fun k => decide (dieOfCluster k = 3) && s.lateCluster 0 k) = [159]) := by decide +kernel

theorem test_meets_SliceEventsComplete_kernel :
    world.kIdle 63 = true ∧ (world.kImage (kEntry (1 + 2 ^ 8 * 639 + 2 ^ 24 * 7))).isSome = true ∧ world.kImage (kEntry (1 + 2 ^ 8 * 640)) = none ∧
    world.kOwner (kEntry (4 + 2 ^ 24 * 4095)) = some 63 ∧ (world.kWrite 1 (kEntry (4 + 2 ^ 24 * 4095))).isSome = true ∧
    (match kEntry 6 with | .tlb => true | _ => false) = true ∧
    ((world.setSlice 63 { Slice.blank with kevt := [2] }).slice 63).kevt = [2] ∧
    (let s : State := { world with time := 2600, slices := [(0, { Slice.blank with tasks := [(0, ⟨0, 0, 5, 0, 0, 0, false, 0⟩)], gather := [0] })],
                                   queues := [(5, { queue5 with gto := 2600 })] }
     s.dueTask 5 = some ⟨0, 0, 5, 0, 0, 0, false, 0⟩) := by
  decide +kernel

end Sys2Proof.Tests

namespace Sys2Proof.Tests

/-! ### Host, bring-up -/

def tdiWorld (t : Tdi) : State := { world with hdie := { HDie.reset with bootst := 6, tdis := [(254, t)] },
                                               ctxs := [(0, root), (7, { root with parent := 0, depth := 1 })] }
def frame (n : Nat) (ok : Bool) : EthFrame := ⟨7, List.replicate n 0, ok, none, none, false, [], [], 0, 0, 0⟩
def usedRing : Ring := { Ring.blank with words := (List.replicate 8 (0 : DWord)).set 0 1, waiting := [(frame 64 true, 0, 0)], episode := some 0 }
def ringWorld (r : Ring) : State := (world.setPort 7 { Port.blank with rings := [(63, r)], xoff := [7] })

theorem test_meets_HostEventsComplete_memory :
    world.hostOpen = true ∧ world.bar0Open = true ∧ world.ownsPage (.vf 0) 5 = false ∧ world.ownsPage .pf 4095 = true ∧
    badPasid (some 1) queue5 = true ∧ badPasid none queue5 = false ∧ queue5.free = 15 ∧
    requestOk 0x2FFC 4 = true ∧ requestOk 0x2FFC 5 = false ∧ world.hostXlat .pf 0x2000 4 false true = .ok 0 0x2000 false ∧
    world.hostXlat (.vf 0) 0 4 true false = .bad ∧ world.reserved [(0x2000, 4)] = false ∧ world.homeHeld 0x2000 4 = false ∧
    (world.homeFetch 0 0x2000 4).2.1 = false ∧ world.queues.has 0 = false := by decide +kernel

theorem test_meets_HostEventsComplete_registers :
    (world.msixOf .pf).unmasked.contains 2047 = false ∧ (world.ring 7 63).v = false ∧ (ringWorld usedRing).ring 7 63 = usedRing ∧
    usedRing.v = true ∧ usedRing.expired 0 = true ∧ usedRing.waiting.length = 1 ∧ ((ringWorld usedRing).port 7).xoff.contains 7 = true ∧
    world.stripeNamed 255 = false ∧ stripeHeaderOk (1 + 16 * 2 ^ 8 + 15 * 2 ^ 16 + 21 * 2 ^ 24) = true ∧ stripeHeaderOk (1 + 17 * 2 ^ 8) = false ∧
    (frame 60 true).bytes.length + 4 = 64 ∧ (frame 9212 true).bytes.length + 4 = 9216 ∧ (frame 59 true).bytes.length + 4 < 64 := by
  decide +kernel

theorem test_meets_HostEventsComplete_interfaces :
    ((tdiWorld ⟨0, 0, 5, false⟩).tdi 254).session ≠ 0 ∧ (tdiWorld ⟨0, 0, 5, false⟩).bindable 7 = true ∧
    ((tdiWorld ⟨1, 7, 5, false⟩).tdi 254).state = 1 ∧ ((tdiWorld ⟨2, 7, 5, false⟩).ctx? 7).isSome = true ∧
    (tdiWorld ⟨0, 7, 5, true⟩).allSaved 7 = true ∧ world.hdie.lostExpanders.contains 3 = false ∧
    (let s : State := { world with hdie := { world.hdie with links := [(0, ⟨true, 9, 1⟩), (11, ⟨true, 9, 1⟩)] } }
     1 < (s.linksTo 9).length ∧ s.hdie.links.get? 5 = none ∧ (9 : Nat) ≠ s.hdie.emid ∧ s.peerAlive 9 = true ∧
       ((s.linksTo 9).all fun l => decide (l.2.identity = 1)) = true) := by decide +kernel

def module (h : HDie) : State := { State.reset with hdie := h }

theorem test_meets_BringUpEventsComplete :
    State.reset.hdie.bootst = 1 ∧ dieLost 0 = false ∧ dieLost (BitVec.ofNat 160 (2 ^ 40 - 1)) = true ∧
    ({ HDie.reset with bootst := 0xE1 } : HDie).down = true ∧ 8 * 2 ^ 20 * 8 + (8 * 2 ^ 20 - 1) + 1 ≤ 72 * 2 ^ 20 ∧
    planOk (toBytes 1270000 512) = true ∧ planOk (toBytes 1269999 512) = false ∧ world.hostOpen = true ∧ world.poisoned 0 512 = false ∧
    (module { HDie.reset with planst := 3 }).clusters.any (fun k => k.2.stop.isSome) = false ∧
    arrayPlace (.scratch 639 2047) = (1, 3, some 159) ∧ arrayPlace (.memory 0) = (6, homeDie 0, none) ∧
    ((world.count 33 1).arrayFault (.scratch 0 0)).hdie.down = false ∧ flushTime ≤ (78000000000 : DWord).toNat ∧
    HDie.reset.powercap < 2601 ∧ counterKey 373 = cTemp + 32 * 129 ∧ counterKey 374 = cVolt := by decide +kernel

end Sys2Proof.Tests

namespace Sys2Proof.Tests

/-! ### Further clauses of the statements -/


theorem test_meets_MemoryInstructionsIssue_starts :
    goes world 48 ldOps false false (fun j => j.p.vals.all (fun x => !j.wp.tracks 48 x.1 &&
      (match memForm 48 ldOps j.wp x.1 (logSources 48 ldOps j.wp x.2).1 (logSources 48 ldOps j.wp x.2).2.1 (logSources 48 ldOps j.wp x.2).2.2 with
       | .ok f => (match j.s.xlatAll f.kind (j.s.tlbLook j.c j.wp.ctx) j.wp.ctx ((List.range f.parts).map fun k => (f.va + k * f.stride) % 2 ^ 64) with
         | .ok pas false 0 => pas.all fun pa => decide (regionOf pa = .ram)
         | _ => false)
       | _ => false)) && j.p.vals.length == 2 && j.wp.threads.all fun t => t.points.isEmpty) = true ∧
    goes (withWarp { wp with threads := [th 5 7 4, th 5 7 (2 ^ 57)] }) 48 { ldOps with x := 3 } false false (fun j =>
      decide (memForm 48 { ldOps with x := 3 } j.wp 0 4 0 0 = .flt 7 4) && decide (j.s.memWaits 0 0 48 { ldOps with x := 3 } j.wp j.p = none)) = true := by
  decide +kernel

/-- LDS with a flag mode, and STS without one: their rows are of the group, aligned and not poisoned. -/
theorem test_meets_ScratchpadInstructionsComplete_starts :
    goes world 51 { ldsOps with t := 1 } false false (fun j => (memSite 51 { ldsOps with t := 1 }).1 == 4 && !scratchLater { ldsOps with t := 1 } &&
      decide (j.s.scratchWaits 0 0 { ldsOps with t := 1 } j.wp j.p 4 = none) && !(j.s.core 0).scratchBad (128 * (j.s.groupOf 0 j.wp).scratchBase + 508) 4) = true ∧
    goes world 51 stsOps false false (fun j => scratchLater stsOps && bits stsOps.x 3 2 != 3 &&
      decide (508 + 4 ≤ 128 * (j.s.groupOf 0 j.wp).scratchCount) && j.p.vals.length == 2) = true ∧
    goes world 51 { stsOps with x := 25 } false false (fun j => bits 25 3 2 == 3 && j.p.vals.length == 2) = true := by decide +kernel

/-- A scratchpad access of 4 bytes in flight, at byte 508 of core 0. -/
def scratchAcc (k : AccKind) : State := { accWorld with acc := [(1, { store with kind := k, va := 508, pas := [scratchPa 0 508], result := some 2 })] }

theorem test_meets_ScratchpadInstructionsComplete_performed :
    (scratchAcc .sts).gate 1 { store with kind := .sts, va := 508, pas := [scratchPa 0 508], result := some 2 } = true ∧
    (scratchAcc .lds).gate 1 { store with kind := .lds, va := 508, pas := [scratchPa 0 508], result := some 2 } = true ∧
    ((scratchAcc .lds).core 0).scratchBad 508 4 = false ∧ store.b.toNat < 256 ^ 4 := by decide +kernel


def legalCopy : Nat := 0x2000 + 0x3000 * 2 ^ 64 + 2 ^ 128
def fullPhase : Phase := ⟨0x2000, [(0x10002, 2)], false, false, 7, 0, 0⟩
def phases (l : List (Nat × Phase)) : State := { qWorld with phases := l, ctxs := [(0, { root with claim := { root.claim with phcnt := 1 } })] }

theorem test_meets_DieAndTaskOperations :
    (CopyDesc.parse legalCopy).legal = true ∧ (CopyDesc.parse (legalCopy + 1)).legal = false ∧ copyEngineOf (clusterOf 0) = (0, 0) ∧
    (world.copyEngine 0 0).queue.length < 64 ∧
    64 ≤ ((world.setCopyEngine 0 0 { CopyEngine.blank with queue := List.replicate 64 copy }).copyEngine 0 0).queue.length ∧
    (collParse (0x2000 * 2 ^ 64 + 0x3000 * 2 ^ 128)).2 = true ∧ (collParse (0x2000 * 2 ^ 64 + 0x3000 * 2 ^ 128)).1.legal = true ∧
    (collParse (0x2000 * 2 ^ 64 + 0x3000 * 2 ^ 128 + 1)).1.kind = 1 ∧ ((collParse (3 + 0x2000 * 2 ^ 64)).1.legal = false) ∧
    world.dir = [] := by decide +kernel

theorem test_meets_DieAndTaskOperations_phases :
    (phases []).phaseOf 0 0x2000 = none ∧ (phases []).phasesHeld 0 = 0 ∧ ((phases []).openPhase 0 0 0x2000 [0x10002]).1 = 0 ∧
    (phases [(0, fullPhase)]).phaseOf 0 0x2000 = some fullPhase ∧ (phases [(0, fullPhase)]).phasesHeld 0 = 1 ∧
    (phases [(0, fullPhase)]).phaseOf 0 0x3000 = none ∧ ((phases [(0, fullPhase)]).openPhase 0 0 0x3000 [0x10002]).1 = 1 ∧
    ((phases [(0, { fullPhase with complete := true })]).openPhase 0 0 0x3000 [0x10002]).1 = 0 ∧
    fullPhase.dests[1 - 1]? = some (0x10002, 2) ∧ ((phases [(0, fullPhase)]).phaseArrival 0 0x2000 1).1 = 0 ∧
    ((phases [(0, { fullPhase with dests := [(0x10002, 0)] })]).phaseArrival 0 0x2000 1).1 = 2 ∧
    ((phases [(0, { fullPhase with dests := [(0x20002, 2)] })]).phaseArrival 0 0x2000 1).1 = 3 ∧
    ((phases [(0, fullPhase)]).phaseArrival 0 0x2000 2).1 = 3 ∧ ((phases []).phaseArrival 0 0x2000 1).1 = 1 := by decide +kernel

theorem test_meets_DieAndTaskOperations_tasks :
    (qWorld.slice 0).tasks.free 0 32768 = some 0 ∧ 4095 / 64 = 63 := by decide +kernel

/-- A claim record with DEPTH 1 and 2 MiB of MEM. -/
def claimBlock : Nat := 2 ^ 708 + 2 ^ 21 * 2 ^ 448

def parentWorld : State := { world with
  ctxs := [(0, root), (7, { Ctx.root 0 with parent := 0, depth := 1, claim := { Claim.parse claimBlock with mem := 2 ^ 20 } })],
  kern := 2 ^ 30, kernSize := 2 ^ 30 }

/-- One 4 KiB page, readable, from 0x2000 of the parent to 0x5000 of the child. -/
def mapBlock : Nat := 0x5000 + 0x2000 * 2 ^ 64 + 0x1000 * 2 ^ 128 + 2 ^ 192

theorem test_meets_ContextOperations :
    claimReserved claimBlock = true ∧ (Claim.parse claimBlock).inRange = true ∧ world.aliveCount < 4095 ∧ root.depth < 8 ∧
    (Claim.parse claimBlock).within root ((world.children 0).map (·.2.claim)) = true ∧
    world.phasesHeld 0 + world.phasesGranted 0 + (Claim.parse claimBlock).phcnt ≤ root.claim.phcnt ∧
    world.gainsNamed Claim.empty (Claim.parse claimBlock) = false ∧ (world.ctxNew 0 0x2000 0 claimBlock).status = 0 ∧
    (Claim.parse (claimBlock + 2 ^ 40 * 2 ^ 448)).within root [] = false ∧ world.child? 0 7 = none ∧
    (parentWorld.child? 0 7).isSome = true := by decide +kernel

theorem test_meets_ContextOperations_maps :
    (parentWorld.ctxGrant 0 7 claimBlock).status = 0 ∧ (MapBlock.parse mapBlock).ok mapBlock true = true ∧
    parentWorld.revoking 0 0x2000 0x1000 = false ∧ (parentWorld.compose 0 (MapBlock.parse mapBlock)).isSome = true ∧
    (parentWorld.ctxMap 0 7 mapBlock).status = 0 ∧ (parentWorld.ctxUnmap 0 0x5000 7 0x1000).status = 0 ∧
    (parentWorld.ctxRun 0 7).status = 0 ∧ (parentWorld.ctxQ 0 0 5 0 (1 + 4 * 2 ^ 4 + 0x10000 * 2 ^ 64)).status = 0 := by decide +kernel


theorem test_meets_GambitInstructionsComplete_early :
    goes (withWarp { wp with threads := [{ th 0 0 0 with gambit := ⟨true, none, 0, 0, [], [], []⟩ }, th 0 0 0] }) 54 { ext with x := 1, d := .num 7 }
      false false (fun j => (j.s.txEarly 0 0 j.wp [0]).1.isEmpty && (j.s.txEarly 0 0 j.wp []).1.isEmpty &&
        ((j.s.txEarly 0 0 j.wp [0]).2.notGlobal 0 0 0 [0]).isEmpty && ((j.s.txEarly 0 0 j.wp [0]).2.widen 0).isSome &&
        (j.s.trackedOf 0 0 0 [0, 1]).isEmpty) = true := by decide +kernel

theorem test_meets_EngineInstructionsComplete_waits :
    goes { world with groups := [(0, { grp with deps := grp.deps.set 0 { DepSlot.zero with count := 1 } })] } 56
      { ext with x := 5, d := dv 4, w2 := 1 } false true (fun j => !(j.s.groupOf 0 j.wp).slotsIdle 1) = true ∧
    world.group? 0 wp.gslot = some grp ∧ grp.deps.length = 8 := by decide +kernel

theorem test_meets_InterruptsArePendingUntilDelivered_none :
    world.group? (targetOf 32767).1 (targetOf 32767).2 = none ∧ (targetOf 0) = (0, 0) ∧ grp.nextVec = none ∧
    world.warp? 0 0 = some wp ∧ world.group? 0 wp.gslot = some grp := by decide +kernel

/-- An atomic addition to the word at 0x2000, at its home, and a load of it. -/
def atomic : Access := { store with kind := .atomic 0 false, result := some 2 }
def load : Access := { store with kind := .load false, result := some 2 }

theorem test_meets_StoresReachMemory_reads :
    (let s : State := { accWorld with acc := [(1, load)] }
     s.gate 1 load = true ∧ s.foreign load = false ∧ s.reserved (load.ranges ++ s.boundRanges load) = false ∧ s.poisoned 0x2000 4 = false ∧
       s.results.get? 2 = some result) ∧
    (let s : State := { accWorld with acc := [(1, atomic)] }
     s.acc.get? 1 = some atomic ∧ s.poisoned 0x2000 4 = false ∧ s.expanderLost 0x2000 = false) ∧
    (let r := { result with lands := (rangeFrom (0 + 4) 1).map Land.row, words := [9] }
     let s : State := { accWorld with results := [(2, r)] }
     s.warp? 0 0 = some wp ∧ (s.landResult 2).results.isEmpty = true) ∧
    accWorld.seenOf (some 0) [(0x2000, 4)] = [] := by decide +kernel

/-- An A operand of 64 rows of 64 bytes from 0x2000. -/
def descOp : EngOp := { mmaOp with kind := .mma akBlock, descA := some ⟨true, akBlock.fmtA, 0, false, 0, 0x2000, 0, 64, 64, 128, 0, 0⟩ }

theorem test_meets_EngineEventsComplete_pins :
    (let s := opWorld descOp none
     descOp.started = true ∧ descOp.wanted.contains 0x40 = true ∧ s.forked descOp = true ∧ descOp.pinned 0x40 = true ∧
     descOp.fetched.has 0x40 = false ∧ s.engXlat 0 0 0x2000 false = .ok 0x2000 false ∧ (s.l2slice (channelOf 0x2000)).pinsFull 0x40 = false ∧
     (((s.publishFor none [0x40]).recallDirty 0x40).touchL2 0x2000 0 false).pin 0x40 ≠ none) := by decide +kernel


/-- A member of a stripe set of two, at the end of its part: what it sends, and its end once the other has told so. -/
theorem test_meets_EngineEventsComplete_collectives :
    (let r := stripedWorld.through 0 0 (2 ^ 50)
     r.1.map (·.stripe) = some 1 ∧ stripedColl.sends 2 = 1 ∧ stripedColl.sent < stripedColl.sends 2 ∧ (stripedColl.sendAt 0 2 0).2 = [1] ∧
     (match r.2.readLine 0 0 (stripedColl.src + 128 * (stripedColl.sendAt 0 2 0).1) with | .ok _ _ => true | _ => false) = true ∧
     stripedColl.total 2 = 1 ∧ ([1].all ({ stripedColl with moved := 1, sent := 1, finished := [1] } : Coll).finished.contains) = true ∧
     r.2.peerAlive (peerOf ((r.2.hdie.stripes.get? 1).getD []) 1) = true) := by decide +kernel

theorem test_meets_SliceEventsComplete_records :
    (launchWorld { launched with crec := 0x3000 }).recordAt 5 { queue5 with ctx := 0 } 0x3000 (launchRecord 0 0 0 0 0 5) false |>.isSome := by
  decide +kernel

/-- An operation of phalanx 0 that has not ended, with the phalanx kept and its card not read. -/
theorem test_meets_SliceEventsComplete_castling :
    (let ph := { phx with kept := true, castle := 0x2000, launch := 3 }
     let s : State := { launchWorld launched with clusters := [(0, { Cluster.blank with phxs := [(0, ph)], holds := some 0, ops := [(1, { mmaOp with launch := 3 })] })] }
     s.keptBusy 0 ph = true ∧ ph.card = none ∧ (s.readCard? ph launched matches .ok _ _) = true ∧ (s.cluster 0).stopping 0 = false) := by
  decide +kernel

theorem test_meets_SliceEventsComplete_tempo :
    (let s : State := { launchWorld launched with time := 10 ^ 9, ctxs := [(0, { root with claim := { root.claim with cl := 1, shares := 5 } }),
        (7, { Ctx.root 0 with run := 1, claim := { root.claim with cl := 1 } })], clusters := [(0, { Cluster.blank with holds := some 7 })] }
     (s.cluster 0).boundary < s.boundaryOf 0 ∧ (s.participants 0).length ≠ 0 ∧ (s.cluster 0).stop = none ∧ (s.cluster 0).gangWait = none) ∧
    world.kIdle 0 = true ∧ (kEntry 6 matches .tlb) = true ∧
    ((world.setSlice 0 { Slice.blank with kevt := [3] }).slice 0).kevt = [3] ∧ bits (3 : DWord).toNat 0 8 ≠ 2 := by decide +kernel

theorem test_meets_HostEventsComplete_windows :
    (0x400000 + 4) % 8 ≠ 0 ∧ (world.msixOf .pf).unmasked.contains 3 = false ∧ (world.ring 7 63).v = false ∧
    ((ringWorld usedRing).ring 7 63).v = true ∧ (0 : DWord).getLsbD 0 = false ∧ (0x1000 : DWord).toNat % 4096 = 0 ∧
    world.bar0Open = true := by decide +kernel

theorem test_meets_HostEventsComplete_peers :
    (let s : State := { world with hdie := { world.hdie with links := [(0, ⟨true, 9, 1⟩)] } }
     s.peerAlive 9 = true ∧ remoteOk .read 0x2000 128 = true ∧ remoteOk (.atomic 0 1 0) 0x2000 4 = true ∧
     remoteOk (.write [1, 2]) 0x2000 2 = true ∧ remoteOk (.ldv 0) 0x2000 8 = true ∧ remoteOk (.stv 0 5) 0x2000 8 = true ∧ remoteOk .vcnt 0x2000 8 = true ∧
     s.hidden 0x2000 128 = false ∧ s.homeHeld 0x2000 128 = false ∧ regionOf 0x2000 = .ram ∧ s.anyVerPage 0x2000 = false ∧
     (s.homeFetch 0 0x2000 8).2.1 = false ∧ s.expanderLost 0x2000 = false) := by decide +kernel

theorem test_meets_HostEventsComplete_scrub :
    (let s := tdiWorld ⟨0, 7, 5, true⟩
     (s.tdi 254).scrubbing = true ∧ s.allSaved 7 = true ∧ s.acc = [] ∧ (s.ctx? 7).isSome = true) ∧
    (tdiWorld ⟨2, 7, 5, false⟩).hdie.bootst = 6 := by decide +kernel

theorem test_meets_BringUpEventsComplete_resets :
    (module { HDie.reset with tripped := true }).hdie.pendingReset = none ∧ (module { HDie.reset with bootst := 4 }).hdie.lostExpanders = [] ∧
    (module { HDie.reset with planst := 3, relocked := true }).clusters = [] ∧ (module { HDie.reset with bootst := 0xE1 }).hdie.down = true ∧
    (module { HDie.reset with bootst := 0xE2 }).hdie.bootst = 0xE2 ∧ world.hdie.down = false ∧
    (arrayPlace (.directory 3)).2.2 = none ∧ (module { HDie.reset with accepted := [1] }).hdie.accepted ≠ [] ∧
    (module { HDie.reset with bootst := 0xE3 }).hdie.pendingReset = none := by decide +kernel


end Sys2Proof.Tests

namespace Sys2Proof.Tests

/-! ### The smoke test of well-formedness -/

theorem test_meets_MemoryStaysCanonical :
    laneWorld.mem.wf = true ∧ (match step laneWorld with | .next t => t.mem.wf && t.warps.isEmpty | _ => false) = true := by
  decide +kernel

/-! Each check refuses an ill-formed term: fields, form, operands, codes, word 2, literal. -/

def good : Ops := { ext with d := dv 4, a := rv 0, b := rv 1 }

theorem test_wf_good : (Instr.add good).wf = true ∧ (Instr.ld ldOps).wf = true := by decide
theorem test_wf_fields : (Instr.add { good with t := 4 }).wf = false ∧ (Instr.ld { ldOps with x := 128 }).wf = false ∧
    (Instr.add { good with rm := 8 }).wf = false ∧ (Instr.add { good with ov := 4 }).wf = false ∧ (Instr.ld { ldOps with sc := 8 }).wf = false ∧
    (Instr.add { good with guard := .on 8 false }).wf = false := by decide
theorem test_wf_form : (Instr.add { good with x := 1 }).wf = false ∧ (Instr.ld { ldOps with form := .base }).wf = false ∧
    (Instr.add { good with form := .extLit }).wf = false ∧ (Instr.add { good with form := .base, rm := 1 }).wf = false ∧
    (Instr.add { good with form := .base, guard := .on 0 true }).wf = false ∧ (Instr.add { good with form := .base, w2 := 1 }).wf = false := by decide
theorem test_wf_operands : (Instr.add { good with a := rv 96 }).wf = false ∧ (Instr.add { good with b := .none }).wf = false ∧
    (Instr.add { good with d := dv 96 }).wf = false ∧ (Instr.add64 { good with a := rv 1 }).wf = false ∧
    (Instr.add { good with c := rv 0 }).wf = false ∧
    (Instr.add { good with a := .src (.window 0 0) false, b := .src (.window 1 0) false }).wf = false := by decide
theorem test_wf_codes : (Instr.add { good with rm := 7 }).wf = false ∧ (Instr.ld { ldOps with sc := 7 }).wf = false ∧
    (Instr.add { good with d := .dst (.reg (.g 4)) }).wf = false ∧
    (Instr.mov { ext with guard := .on 0 false, d := .dst (.reg (.g 4)), b := rg 0 }).wf = false ∧
    (Instr.bara { ext with x := 2, guard := .on 0 false, c := imm 2 }).wf = true := by decide
theorem test_wf_word2 : (Instr.add { good with w2 := 1 }).wf = false ∧ (Instr.ld { ldOps with w2 := 2 ^ 31 }).wf = false ∧
    (Instr.bar { ext with x := 1, c := imm 2, w2 := 16 }).wf = false ∧ (Instr.sysr { ext with x := 1, d := dv 4, w2 := -1 }).wf = false := by decide
theorem test_wf_literal : (Instr.add { good with form := .extLit, b := .src (.lit (2 ^ 32)) false }).wf = false ∧
    (Instr.add { good with form := .extLit, b := .src (.lit 5) false }).wf = true := by decide
theorem test_wf_nop : (Instr.nop .base 8 0 0 0).wf = false ∧ (Instr.nop .base 1 0 0 0).wf = false ∧ (Instr.nop .base 0 1 0 0).wf = false ∧
    (Instr.nop .ext 1 0 0 1).wf = false ∧ (Instr.nop .extLit 3 9 9 9).wf = true := by decide
theorem test_wf_scalar : (Instr.lmTake 32 0).wf = false ∧ (Instr.lmG2s 0 32).wf = false ∧ (Instr.lmTime 32).wf = false ∧
    (Instr.rv32imcInstruction ⟨.add, 32, 0, 0, 0, 4⟩).wf = false ∧ (Instr.rv32imcInstruction ⟨.add, 0, 0, 0, 0, 3⟩).wf = false ∧
    (Instr.scalarCoreTrap 640 false).wf = false ∧ (Instr.scalarCoreProgramLoad 0 false 65536 []).wf = false := by decide
theorem test_wf_units : (Instr.spillClaim 0 0 32).wf = false ∧ (Instr.warpReady 0 256).wf = false ∧ (Instr.laneArbitration 0 32).wf = false ∧
    (Instr.uniformCopyReturn 0 0 33).wf = false ∧ (Instr.passGrant 160).wf = false ∧ (Instr.kevtPop 64).wf = false ∧
    (Instr.cardNop 4096).wf = false ∧ (Instr.l2PortGrant 256).wf = false ∧ (Instr.gambitValidate 0 256).wf = false ∧
    (Instr.bankRefreshStart 0 32).wf = false ∧ (Instr.copyLine 4 0).wf = false ∧ (Instr.copyLine 0 16).wf = false ∧
    (Instr.successorStart 0 128).wf = false ∧ (Instr.lateDieDeadline 0 4).wf = false := by decide
theorem test_wf_waits : (Instr.lateFault (.warp 640 0)).wf = false ∧ (Instr.lateFault (.op 160 0)).wf = false ∧
    (Instr.lateFault (.copy 4 0)).wf = false ∧ (Instr.lateFault (.scalar 640 false)).wf = false ∧ (Instr.lateFault (.queue 4096)).wf = false ∧
    (Instr.lateFault (.card 0 128)).wf = false ∧ (Instr.pageResolved (.access 0) ⟨2 ^ 57, 4096, 0, true, true, true⟩).wf = false ∧
    (Instr.kcmdInvalidate 0 0 0 (some ⟨2 ^ 52, 4096, 0, true⟩)).wf = false := by decide
theorem test_wf_arrays : (Instr.arrayError (.regRow 0 0 0 4096) false).wf = false ∧ (Instr.arrayError (.scratch 0 32768) false).wf = false ∧
    (Instr.arrayError (.l1Dirty 0 0x90000000000) false).wf = false ∧ (Instr.arrayError (.parityCached 640) false).wf = false ∧
    (Instr.arrayError (.scalarStore 640 true) false).wf = false ∧ (Instr.arrayError (.opLog 0 256) false).wf = false ∧
    (Instr.arrayError (.tile 0 4096) false).wf = false ∧ (Instr.arrayError (.weightStore 0 (2 ^ 21)) false).wf = false ∧
    (Instr.arrayError (.memory 0x90000000000) false).wf = false ∧ (Instr.arrayError (.taskEntry 0 32768) false).wf = false ∧
    (Instr.arrayError (.counter 0 16384) false).wf = false ∧ (Instr.arrayError (.directory 4) false).wf = false := by decide
theorem test_wf_host : (Instr.hostBar2Read (.vf 255) 0 4).wf = false ∧ (Instr.hostBar2Read .pf 0 4097).wf = false ∧
    (Instr.hostAtomicop .pf 0 2 0 0 0).wf = false ∧ (Instr.hostAtomicop .pf 0 4 3 0 0).wf = false ∧ (Instr.msixUnmask .pf ⟨2048, false⟩).wf = false ∧
    (Instr.ringDescriptorWrite 8 0 0 0).wf = false ∧ (Instr.steeringWrite 0 65 0).wf = false ∧ (Instr.stripeSetWrite 256 0 0).wf = false ∧
    (Instr.lockInterface 255 0).wf = false ∧ (Instr.tdiUnlock 0 4).wf = false ∧ (Instr.expanderFailure 4).wf = false ∧
    (Instr.pfcRefresh 0 8).wf = false ∧ (Instr.linkTraining 12 0 0).wf = false ∧ (Instr.peerLost 256).wf = false ∧
    (Instr.remoteAccess 0 0 .read 4097).wf = false := by decide
theorem test_wf_package : (Instr.recoveryWindowWrite (8 * 2 ^ 20) [0]).wf = false ∧ (Instr.throttleOnset 0 [0]).wf = false ∧
    (Instr.thermalTrip 5 115).wf = false ∧ (Instr.tripRecovery []).wf = false ∧ (Instr.portReset 2).wf = false := by decide
theorem test_wf_chunk : (Instr.mgmtRecoveryChunk 0 (List.replicate 1025 0)).wf = false := by decide +kernel

end Sys2Proof.Tests

namespace Sys2Proof.Tests

/-! ### One step of a lane instruction -/

/-- The state after the first warp issues an instruction: its words are stored at 0x1000, and step fetches them there. -/
def after (w : Warp) (i : Instr) (p : Nat → Thread → Bool) : Bool :=
  match step { withWarp w with agenda := [.lane 0 0], mem := Memory.write [] 0x1000 ((encode i).flatMap fun x => toBytes x.toNat 4) } with
  | .next t => ((t.warp? 0 0).map fun w => (List.range w.threads.length).zip w.threads |>.all fun x => p x.1 x.2).getD false
  | _ => false

/-- The same of `wp`, for its first thread. -/
def first (i : Instr) (p : Thread → Bool) : Bool := after wp i fun n th => n != 0 || p th

/-- `wp` with other values in v0 and v1 of its first thread. -/
def ab (a b : Nat) : Warp := { wp with threads := [th a b 0x2000, th 6 9 0x2040] }

def firstOf (a b : Nat) (i : Instr) (p : Thread → Bool) : Bool := after (ab a b) i fun n th => n != 0 || p th

/-- 06 Table 2: i32 sums wrap; 06 R102: the instruction after it is at the next word. -/
theorem test_add_wraps :
    firstOf 0xFFFFFFFF 2 (.add { zero with d := dv 4, a := rv 0, b := rv 1 }) (fun t => t.v 4 == 1 && t.pc == 0x1004) = true := by
  decide +kernel

/-- A destination that is also the source; SUB is A − B, and B − A for the second thread's 6 − 9 wraps. -/
theorem test_sub_order :
    after wp (.sub { zero with d := dv 0, a := rv 0, b := rv 1 }) (fun n t => t.v 0 == (if n = 0 then 0xFFFFFFFE else 0xFFFFFFFD)) = true := by
  decide +kernel

/-- n32 sums saturate. -/
theorem test_add_saturates :
    firstOf 0x7FFFFFFF 2 (.add { zero with t := 1, d := dv 4, a := rv 0, b := rv 1 }) (fun t => t.v 4 == 0x7FFFFFFF) = true := by
  decide +kernel

/-- f32: 1.5 + 2.25 = 3.75. -/
theorem test_add_f32 :
    firstOf 0x3FC00000 0x40100000 (.add { zero with t := 2, d := dv 4, a := rv 0, b := rv 1 }) (fun t => t.v 4 == 0x40700000) = true := by
  decide +kernel

/-- An executing thread whose predicate is false writes nothing and goes on. -/
theorem test_guard_false_keeps :
    first (.add { ext with guard := .on 3 false, d := dv 4, a := rv 0, b := rv 1 }) (fun t => t.v 4 == 0 && t.pc == 0x100C) = true := by
  decide +kernel

/-- 06 Table 8: 300.0 to i8 saturates at 127; −7.9 to i32 toward zero is −7, with NX. -/
theorem test_cvt_saturates :
    firstOf 0x43960000 0 (.cvt { zero with d := dv 4, a := rv 0, b := .num 81 }) (fun t => t.v 4 == 127) = true := by
  decide +kernel

theorem test_cvt_toward_zero :
    firstOf 0xC0FCCCCD 0 (.cvt { zero with t := 1, d := dv 4, a := rv 0, b := .num 33 }) (fun t => t.v 4 == 0xFFFFFFF9) = true := by
  decide +kernel

/-- The offset of a base-form branch is the 14 bits of A and Bs, in words from the branch itself (07 R124). -/
theorem test_bra_target :
    first (.braAlways { zero with t := 1, a := .num 127, b := .num 125 }) (fun t => t.pc == 0x0FF4) = true := by decide +kernel

end Sys2Proof.Tests

end
end

section
/-! SUPPORT. What leaves give an address, what a cut takes away (20:R294), and when a revocation lets nothing fail
(20:R295). -/

namespace Sys2Proof.Machine

/-! ### What leaves give an address -/

/-- What a leaf gives a virtual address in it: the physical address, and R, W, X and V. -/
def Leaf.transAt (f : Leaf) (va : Nat) : Nat × Bool × Bool × Bool × Bool := (f.pa + (va - f.va), f.r, f.w, f.x, f.v)

/-- What a list of leaves gives a virtual address. -/
def leafTrans (ls : List Leaf) (va : Nat) : Option (Nat × Bool × Bool × Bool × Bool) :=
  (ls.find? fun f => decide (f.va ≤ va) && decide (va < f.va + f.size)).map fun f => f.transAt va

@[simp] theorem leafTrans_nil (va : Nat) : leafTrans [] va = none := rfl

theorem leafTrans_append (ls ms : List Leaf) (va : Nat) :
    leafTrans (ls ++ ms) va = (leafTrans ls va).or (leafTrans ms va) := by
  simp [leafTrans, List.find?_append, Option.map_or]

theorem leafTrans_singleton (f : Leaf) (va : Nat) :
    leafTrans [f] va = if f.va ≤ va ∧ va < f.va + f.size then some (f.transAt va) else none := by
  simp only [leafTrans, List.find?_singleton, ← Bool.decide_and, decide_eq_true_eq]
  split <;> rfl

/-- A piece of a leaf that begins within it gives the addresses in it what the leaf gives them. -/
theorem leafTrans_piece {f : Leaf} {lo : Nat} (n va : Nat) (h : f.va ≤ lo) :
    leafTrans [f.piece lo n] va = if lo ≤ va ∧ va < lo + n then some (f.transAt va) else none := by
  rw [leafTrans_singleton]
  refine ite_congr rfl (fun hva => ?_) fun _ => rfl
  have hlo : lo ≤ va := hva.1
  simp only [Leaf.transAt, Leaf.piece, show f.pa + (lo - f.va) + (va - lo) = f.pa + (va - f.va) by omega]

/-- A cut takes the addresses of its range, and leaves the others their translation. -/
theorem leafTrans_cut (f : Leaf) (a n va : Nat) :
    leafTrans (f.cut a n) va = if a ≤ va ∧ va < a + n then none else leafTrans [f] va := by
  unfold Leaf.cut
  split
  next ho =>
    obtain ⟨h₁, h₂⟩ : f.va < a + n ∧ a < f.va + f.size := by simpa [overlap] using ho
    have left : leafTrans (if f.va < a then [f.piece f.va (a - f.va)] else []) va =
        if f.va ≤ va ∧ va < a then some (f.transAt va) else none := by
      split
      · rw [leafTrans_piece _ _ (Nat.le_refl _), show f.va + (a - f.va) = a by omega]
      · rw [if_neg (by omega), leafTrans_nil]
    have right : leafTrans (if a + n < f.va + f.size then [f.piece (a + n) (f.va + f.size - (a + n))] else []) va =
        if a + n ≤ va ∧ va < f.va + f.size then some (f.transAt va) else none := by
      split
      · rw [leafTrans_piece _ _ (Nat.le_of_lt h₁), show a + n + (f.va + f.size - (a + n)) = f.va + f.size by omega]
      · rw [if_neg (by omega), leafTrans_nil]
    rw [leafTrans_append, left, right, leafTrans_singleton]
    by_cases h₃ : va < a
    · simp [h₃, show ¬ a ≤ va by omega, show ¬ a + n ≤ va by omega, show va < f.va + f.size by omega]
    · by_cases h₄ : va < a + n
      · simp [h₃, h₄, show ¬ a + n ≤ va by omega, show a ≤ va by omega]
      · simp [h₃, h₄, show a + n ≤ va by omega, show f.va ≤ va by omega]
  next ho =>
    have apart : ¬ (f.va < a + n ∧ a < f.va + f.size) := by simpa [overlap] using ho
    rw [leafTrans_singleton]
    split
    · rw [if_neg (by omega)]
    · rw [ite_self]

theorem leafTrans_cuts (ls : List Leaf) (a n va : Nat) :
    leafTrans (ls.flatMap fun f => f.cut a n) va = if a ≤ va ∧ va < a + n then none else leafTrans ls va := by
  induction ls with
  | nil => simp
  | cons f ls ih =>
    rw [List.flatMap_cons, leafTrans_append, ih, leafTrans_cut, ← List.singleton_append (l := ls), leafTrans_append]
    split <;> rfl

/-- A translation comes from a leaf that holds the address. -/
theorem exists_leaf_of_leafTrans {ls : List Leaf} {va : Nat} (h : leafTrans ls va ≠ none) :
    ∃ f, f ∈ ls ∧ f.va ≤ va ∧ va < f.va + f.size := by
  cases hf : ls.find? fun f => decide (f.va ≤ va) && decide (va < f.va + f.size) with
  | none => exact absurd (by rw [leafTrans, hf, Option.map_none]) h
  | some f =>
    have holds := List.find?_some hf
    rw [Bool.and_eq_true, decide_eq_true_eq, decide_eq_true_eq] at holds
    exact ⟨f, List.mem_of_find?_eq_some hf, holds⟩

/-- The leaf at an address of a context other than the root is one of its leaves. -/
theorem State.leafAt_child {s : State} {x : Nat} {c : Ctx} (hx : x ≠ 0) (h : s.ctx? x = some c) (va : Nat) :
    s.leafAt x va = c.leaves.find? fun f => decide (f.va ≤ va) && decide (va < f.va + f.size) := by
  simp only [State.leafAt, h, hx, decide_false, Bool.false_and, Bool.false_eq_true, if_false]
  cases c.leaves.find? fun f => decide (f.va ≤ va) && decide (va < f.va + f.size) <;> rfl

theorem State.leafAt_transAt {s : State} {x : Nat} {c : Ctx} (hx : x ≠ 0) (h : s.ctx? x = some c) (va : Nat) :
    (s.leafAt x va).map (·.transAt va) = leafTrans c.leaves va := by
  rw [State.leafAt_child hx h]
  rfl

theorem covers_cons (r : Nat × Nat × Nat) (rs : List (Nat × Nat × Nat)) (x va : Nat) :
    covers (r :: rs) x va = (covers [r] x va || covers rs x va) := by simp [covers]

/-- What is removed from a context covers every address of the range that its leaves translate. -/
theorem State.covers_removedFrom {s : State} {x : Nat} {c : Ctx} (h : s.ctx? x = some c) {a n va : Nat}
    (ha : a ≤ va) (hn : va < a + n) (ht : leafTrans c.leaves va ≠ none) :
    covers (State.removedFrom treeFuel s x a n) x va = true := by
  obtain ⟨f, hf, hva⟩ := exists_leaf_of_leafTrans ht
  have mine : (x, max f.va a, min (f.va + f.size) (a + n) - max f.va a) ∈ State.removedFrom treeFuel s x a n := by
    simp only [treeFuel, State.removedFrom, h, List.mem_append, List.mem_map, List.mem_filter]
    exact .inl ⟨_, ⟨f, ⟨hf, by simp [overlap]; omega⟩, rfl⟩, rfl⟩
  exact List.any_eq_true.mpr ⟨_, mine, by simp; omega⟩

/-! ### What fails at a revocation -/

/-- `t` has no access, engine operation, copy or collective under way that `s` has not: what a revocation lets fail. -/
structure NoNewWork (s t : State) : Prop where
  acc : t.acc = s.acc
  ops : ∀ k ∈ t.clusters, ∃ k' ∈ s.clusters, k'.2.ops = k.2.ops
  queue : ∀ d ∈ t.dies, ∀ e ∈ d.2.engines, ∃ d' ∈ s.dies, ∃ e' ∈ d'.2.engines, e'.2.queue = e.2.queue
  colls : s.colls = [] → t.colls = []

namespace NoNewWork

variable {s t u : State}

theorem of_eq (ha : t.acc = s.acc) (hk : t.clusters = s.clusters) (hd : t.dies = s.dies) (hc : t.colls = s.colls) :
    NoNewWork s t :=
  ⟨ha, fun k h => ⟨k, hk ▸ h, rfl⟩, fun d h e he => ⟨d, hd ▸ h, e, he, rfl⟩, fun h => hc.trans h⟩

theorem trans (h : NoNewWork s t) (g : NoNewWork t u) : NoNewWork s u where
  acc := g.acc.trans h.acc
  ops k hk := by
    obtain ⟨k', hk', e'⟩ := g.ops k hk
    obtain ⟨k'', hk'', e''⟩ := h.ops k' hk'
    exact ⟨k'', hk'', e''.trans e'⟩
  queue d hd e he := by
    obtain ⟨d', hd', e', he', q'⟩ := g.queue d hd e he
    obtain ⟨d'', hd'', e'', he'', q''⟩ := h.queue d' hd' e' he'
    exact ⟨d'', hd'', e'', he'', q''.trans q'⟩
  colls hc := g.colls (h.colls hc)

/-- What does not fail in `s` does not fail in `t`. -/
theorem failedItems_nil (h : NoNewWork s t) {rs : List (Nat × Nat × Nat)} (hf : s.failedItems rs = []) (hc : s.colls = []) :
    t.failedItems rs = [] := by
  simp only [State.failedItems, List.append_eq_nil_iff, List.map_eq_nil_iff] at hf ⊢
  obtain ⟨⟨⟨hw, hcp⟩, -⟩, ho⟩ := hf
  refine ⟨⟨⟨?_, ?_⟩, ?_⟩, ?_⟩
  · rw [← hw, State.waitingIn, State.waitingIn, h.acc]
  · simp only [State.copiesIn, List.flatMap_eq_nil_iff, List.filterMap_eq_nil_iff] at hcp ⊢
    intro d hd e he
    obtain ⟨d', hd', e', he', hq⟩ := h.queue d hd e he
    have := hcp d' hd' e' he'
    rw [hq] at this
    revert this
    cases e.2.queue with
    | nil => simp
    | cons c cs => simp
  · simp [State.collsIn, h.colls hc]
  · simp only [State.opsIn, List.flatMap_eq_nil_iff, List.map_eq_nil_iff] at ho ⊢
    intro k hk
    obtain ⟨k', hk', e⟩ := h.ops k hk
    rw [← e]
    exact ho k' hk'

theorem markSaved (s : State) (rs : List (Nat × Nat × Nat)) : NoNewWork s (s.markSaved rs) where
  acc := rfl
  ops k hk := by
    obtain ⟨k', hk', rfl⟩ := List.mem_map.mp hk
    exact ⟨k', hk', rfl⟩
  queue d hd e he := by
    obtain ⟨d', hd', rfl⟩ := List.mem_map.mp hd
    obtain ⟨e', he', rfl⟩ := List.mem_map.mp he
    exact ⟨d', hd', e', he', rfl⟩
  colls hc := by simp [State.markSaved, hc]

theorem dropTlb (s : State) (rs : List (Nat × Nat × Nat)) : NoNewWork s (s.dropTlb rs) where
  acc := rfl
  ops k hk := by
    obtain ⟨k', hk', rfl⟩ := List.mem_map.mp hk
    exact ⟨k', hk', rfl⟩
  queue d hd e he := ⟨d, hd, e, he, rfl⟩
  colls hc := hc

end NoNewWork

/-- Where no item fails and no collective is under way, a revocation marks what is saved, cuts the leaves and drops the
TLB entries, and no more (20:R295). -/
theorem State.revokeRanges_of_idle {s : State} (by_ : Nat) {rs : List (Nat × Nat × Nat)}
    (hcut : NoNewWork (s.markSaved rs) ((s.markSaved rs).cutLeaves by_ rs))
    (hf : s.failedItems rs = []) (hc : s.colls = []) :
    s.revokeRanges by_ rs = ((s.markSaved rs).cutLeaves by_ rs).dropTlb rs := by
  have hw := (((NoNewWork.markSaved s rs).trans hcut).trans (.dropTlb _ rs)).failedItems_nil hf hc
  simp only [State.failedItems, List.append_eq_nil_iff, List.map_eq_nil_iff] at hw
  obtain ⟨⟨⟨hw, hcp⟩, hk⟩, ho⟩ := hw
  simp [State.revokeRanges, hf, State.report, State.failWaiting, State.failEngines, hw, hcp, hk, ho]

end Sys2Proof.Machine
end

section
/-! SUPPORT. The writes of translation tables and the cache lines they touch leave work under way and everything of the
contexts but their tables alone (16:R244, 20:R294). -/

namespace Sys2Proof.Map

variable {α : Type}

theorem mem_set {m : Map α} {k : Nat} {a : α} {x : Nat × α} (h : x ∈ m.set k a) : x = (k, a) ∨ x ∈ m := by
  induction m with
  | nil => exact .inl (by simpa [set] using h)
  | cons y m ih =>
    obtain ⟨j, b⟩ := y
    simp only [set] at h
    split at h
    · simpa using h
    · split at h
      · exact (List.mem_cons.mp h).imp_right (List.mem_cons_of_mem _)
      · rcases List.mem_cons.mp h with rfl | h
        · exact .inr List.mem_cons_self
        · exact (ih h).imp_right (List.mem_cons_of_mem _)

theorem mem_of_get? {m : Map α} {k : Nat} {a : α} (h : m.get? k = some a) : (k, a) ∈ m := by
  induction m with
  | nil => simp at h
  | cons y m ih =>
    obtain ⟨j, b⟩ := y
    rw [get?_cons] at h
    split at h
    · next hj => subst hj; simp_all
    · exact List.mem_cons_of_mem _ (ih h)

end Sys2Proof.Map

namespace Sys2Proof.Machine

/-- A die with a copy engine is a die of the package, not the blank one. -/
theorem State.mem_dies_of_engine {s : State} {d : Nat} {e : Nat × CopyEngine} (h : e ∈ (s.die d).engines) :
    (d, s.die d) ∈ s.dies := by
  unfold State.die Map.getD at h ⊢
  cases hd : s.dies.get? d with
  | none => simp [hd, Die.blank] at h
  | some v => exact Map.mem_of_get? hd

/-! ### What a write of a translation table leaves alone -/

/-- `t` differs from `s` in no work under way, and of the contexts in their tables alone. -/
structure TablesOnly (s t : State) : Prop extends NoNewWork s t where
  ctx : ∀ x, ∃ ts, t.ctx? x = (s.ctx? x).map fun c => { c with tables := ts }

namespace TablesOnly

variable {s t u : State}

theorem ctx_some (h : TablesOnly s t) {x : Nat} {c : Ctx} (hx : s.ctx? x = some c) :
    ∃ ts, t.ctx? x = some { c with tables := ts } := by
  simpa [hx] using h.ctx x

theorem of_ctxs (h : NoNewWork s t) (hx : t.ctxs = s.ctxs) : TablesOnly s t where
  toNoNewWork := h
  ctx x := by
    simp only [State.ctx?, hx]
    cases s.ctxs.get? x with
    | none => exact ⟨[], rfl⟩
    | some c => exact ⟨c.tables, rfl⟩

theorem of_eq (ha : t.acc = s.acc) (hk : t.clusters = s.clusters) (hd : t.dies = s.dies) (hc : t.colls = s.colls)
    (hx : t.ctxs = s.ctxs) : TablesOnly s t := of_ctxs (.of_eq ha hk hd hc) hx

theorem refl (s : State) : TablesOnly s s := of_eq rfl rfl rfl rfl rfl

theorem trans (h : TablesOnly s t) (g : TablesOnly t u) : TablesOnly s u where
  toNoNewWork := h.toNoNewWork.trans g.toNoNewWork
  ctx x := by
    obtain ⟨ts, e⟩ := h.ctx x
    obtain ⟨ts', e'⟩ := g.ctx x
    exact ⟨ts', by rw [e', e, Option.map_map]; rfl⟩

theorem ite {p : Prop} [Decidable p] (h : TablesOnly s t) (g : TablesOnly s u) : TablesOnly s (if p then t else u) := by
  split
  · exact h
  · exact g

theorem foldl {α : Type} {f : State → α → State} (h : ∀ s a, TablesOnly s (f s a)) (l : List α) (s : State) :
    TablesOnly s (l.foldl f s) :=
  List.foldlRecOn (motive := TablesOnly s) l f (refl s) fun _ ht a _ => ht.trans (h _ a)

theorem setDie (s : State) (d : Nat) {v : Die} (hv : v.engines = (s.die d).engines) : TablesOnly s (s.setDie d v) := by
  refine of_ctxs ⟨rfl, fun k hk => ⟨k, hk, rfl⟩, fun x hx e he => ?_, id⟩ rfl
  rcases Map.mem_set hx with rfl | hx
  · rw [hv] at he
    exact ⟨_, State.mem_dies_of_engine he, e, he, rfl⟩
  · exact ⟨x, hx, e, he, rfl⟩

/-! Caches and homes (16:R244) -/

theorem setCore (s : State) (c : Nat) (v : Core) : TablesOnly s (s.setCore c v) := of_eq rfl rfl rfl rfl rfl
theorem setSlice (s : State) (i : Nat) (v : Slice) : TablesOnly s (s.setSlice i v) := of_eq rfl rfl rfl rfl rfl
theorem setL2 (s : State) (i : Nat) (v : L2Slice) : TablesOnly s (s.setL2 i v) := of_eq rfl rfl rfl rfl rfl
theorem setDir (s : State) (m : Map DirEntry) : TablesOnly s { s with dir := m } := of_eq rfl rfl rfl rfl rfl
theorem count (s : State) (k n : Nat) : TablesOnly s (s.count k n) := of_eq rfl rfl rfl rfl rfl
theorem takeFree (s : State) (n : Nat) : TablesOnly s (s.takeFree n).2 := of_eq rfl rfl rfl rfl rfl
theorem postEvent (s : State) (i kind payload : Nat) : TablesOnly s (s.postEvent i kind payload) := setSlice ..

theorem countFill (s : State) (pa ctx page : Nat) : TablesOnly s (s.countFill pa ctx page) :=
  ite (ite ((setSlice ..).trans (count ..)) (((setSlice ..).trans (setDie _ _ (by rfl))).trans (postEvent ..))) (setSlice ..)

theorem passL2 (s : State) (pa ctx : Nat) (write : Bool) : TablesOnly s (s.passL2 pa ctx write) := by
  unfold State.passL2
  split
  · exact ite ((setL2 ..).trans (foldl (fun _ _ => countFill ..) _ _)) (setL2 ..)
  · exact refl s

theorem touchHome (s : State) (pa ctx n : Nat) (write : Bool) : TablesOnly s (s.touchHome pa ctx n write) := by
  unfold State.touchHome
  split
  · exact (setL2 ..).trans (passL2 ..)
  · exact refl s

theorem unlist (s : State) (a line : Nat) : TablesOnly s (s.unlist a line) := by
  unfold State.unlist
  dsimp only
  split
  · exact refl s
  · split
    · exact setDie _ _ (by rfl)
    · exact (setDie _ _ (by rfl)).trans (setDir ..)

theorem dropCopy (s : State) (a line : Nat) : TablesOnly s (s.dropCopy a line) := by
  unfold State.dropCopy
  split
  · exact refl s
  · have written (p : Prop) [Decidable p] (ctx : Nat) : TablesOnly s (if p then s.passL2 (128 * line) ctx true else s) :=
      ite (passL2 ..) (refl s)
    exact (ite ((written ..).trans (setCore ..)) ((written ..).trans (setSlice ..))).trans (unlist ..)

theorem recallLine (s : State) (line : Nat) : TablesOnly s (s.recallLine line) := foldl (fun _ _ => dropCopy ..) _ _

theorem roomDir (s : State) (line : Nat) : TablesOnly s (s.roomDir line) := by
  refine ite (refl s) ?_
  split
  · exact recallLine ..
  · exact refl s

theorem roomSnoop (s : State) (d line : Nat) : TablesOnly s (s.roomSnoop d line) := by
  unfold State.roomSnoop
  dsimp only
  split
  · exact ite (refl s) (foldl (fun _ _ => dropCopy ..) _ _)
  · exact refl s

theorem list (s : State) (a line : Nat) (own : Bool) : TablesOnly s (s.list a line own) :=
  (((roomDir ..).trans (roomSnoop ..)).trans (setDie _ _ (by rfl))).trans (setDir ..)

theorem setCopy (s : State) (a line : Nat) (st : Moesi) : TablesOnly s (s.setCopy a line st) := by
  refine ite ?_ (setSlice ..)
  split
  · exact setCore ..
  · exact refl s

theorem yieldCopies (s : State) (a line : Nat) (write : Bool) : TablesOnly s (s.yieldCopies a line write) := by
  refine ite (foldl (fun _ _ => dropCopy ..) _ _) (foldl (fun s o => ?_) _ _)
  split
  · exact setCopy ..
  · exact setCopy ..
  · exact refl s

theorem sliceLine (s : State) (i pa ctx : Nat) (write : Bool) : TablesOnly s (s.sliceLine i pa ctx write) := by
  have listed (st : Moesi) (own : Bool) : TablesOnly s
      (((s.yieldCopies (640 + i) (pa / 128) write).setCopy (640 + i) (pa / 128) st).list (640 + i) (pa / 128) own) :=
    ((yieldCopies ..).trans (setCopy ..)).trans (list ..)
  exact ite (listed ..) ((listed ..).trans (touchHome ..))

/-! Table pages (20:R293, R294) -/

theorem writeTable (s : State) (by_ ctx pa : Nat) : TablesOnly s (s.writeTable by_ ctx pa) := by
  unfold State.writeTable
  dsimp only
  by_cases h : homeSlice pa = by_
  · simp only [h, if_true]
    exact sliceLine ..
  · simp only [h, if_false]
    exact ((takeFree ..).trans (postEvent ..)).trans (sliceLine ..)

/-- A context is put back with other tables. -/
theorem setTables {s : State} {i : Nat} {c : Ctx} (hc : s.ctx? i = some c) (ts : Map Nat) :
    TablesOnly s (s.setCtx i { c with tables := ts }) where
  toNoNewWork := .of_eq rfl rfl rfl rfl
  ctx x := by
    by_cases hx : x = i
    · subst hx; exact ⟨ts, by simp [hc]⟩
    · rw [State.ctx?_setCtx_ne _ _ hx]
      exact (refl s).ctx x

theorem makeTable (s : State) (by_ ctx l va : Nat) : TablesOnly s (s.makeTable by_ ctx l va) := by
  unfold State.makeTable
  split
  · exact refl s
  · next hc => exact ite (refl s) ((setTables hc _).trans (writeTable ..))

theorem rootTables (s : State) (a n : Nat) : TablesOnly s (s.rootTables a n) :=
  foldl (fun _ _ => foldl (fun _ _ => makeTable ..) _ _) _ _

/-- Beside a context's leaves, their change writes tables alone. -/
theorem setLeaves {s : State} {i : Nat} {c : Ctx} (hc : s.ctx? i = some c) (by_ : Nat) (new : List Leaf) :
    TablesOnly (s.setCtx i { c with leaves := new }) (s.setLeaves by_ i new) := by
  simp only [State.setLeaves, hc]
  exact (foldl (fun _ _ => makeTable ..) _ _).trans (foldl (fun _ _ => writeTable ..) _ _)

/-! Records of versioned words (16:R247) -/

theorem setVer (s : State) (pa : Nat) (old new : VerRec) : TablesOnly s (s.setVer pa old new) := of_eq rfl rfl rfl rfl rfl

theorem giveVer (s old : State) (pa n : Nat) : TablesOnly s (s.giveVer old pa n) :=
  foldl (fun _ _ => foldl (fun _ _ => setVer ..) _ _) _ _

end TablesOnly

end Sys2Proof.Machine
end

section
/-! SUPPORT. What a revocation does to a context where nothing fails for it (20:R295), and that the programming of quota
registers, L2 entries and regions leaves contexts and memory alone. -/

namespace Sys2Proof.Machine

/-! ### Cutting leaves (20:R295, step 2) -/

theorem State.freeMem_some {s : State} {i : Nat} {c : Ctx} (hc : s.ctx? i = some c) (n : Nat) :
    s.freeMem i n = s.setCtx i { c with memUsed := c.memUsed - n } := by simp [State.freeMem, hc]

theorem NoNewWork.freeMem (s : State) (i n : Nat) : NoNewWork s (s.freeMem i n) := by
  unfold State.freeMem
  split
  · exact .of_eq rfl rfl rfl rfl
  · exact .of_eq rfl rfl rfl rfl

theorem NoNewWork.setLeaves (s : State) (by_ i : Nat) (new : List Leaf) : NoNewWork s (s.setLeaves by_ i new) := by
  cases hc : s.ctx? i with
  | none => simpa [State.setLeaves, hc] using NoNewWork.of_eq rfl rfl rfl rfl
  | some c =>
    exact .trans (t := s.setCtx i { c with leaves := new }) (.of_eq rfl rfl rfl rfl) (TablesOnly.setLeaves hc by_ new).toNoNewWork

/-- The first range is cut, then the others. -/
theorem State.cutLeaves_cons (s : State) (by_ : Nat) (r : Nat × Nat × Nat) (rs : List (Nat × Nat × Nat)) :
    s.cutLeaves by_ (r :: rs) = (s.cutLeaves by_ [r]).cutLeaves by_ rs := rfl

theorem NoNewWork.cutLeaves (s : State) (by_ : Nat) (rs : List (Nat × Nat × Nat)) : NoNewWork s (s.cutLeaves by_ rs) := by
  refine List.foldlRecOn (motive := NoNewWork s) rs _ (.of_eq rfl rfl rfl rfl) fun t ht r _ => ht.trans ?_
  split
  · exact .of_eq rfl rfl rfl rfl
  · exact (setLeaves ..).trans (freeMem ..)

/-- A context after some of its leaves have been cut: its claim stands, and the covered addresses alone have lost their
translation. -/
def CutOf (c : Ctx) (gone : Nat → Bool) (c' : Ctx) : Prop :=
  c'.claim = c.claim ∧ ∀ va, leafTrans c'.leaves va = if gone va then none else leafTrans c.leaves va

theorem State.cutLeaves_one {s : State} {x : Nat} {c : Ctx} (hx : s.ctx? x = some c) (by_ : Nat) (r : Nat × Nat × Nat) :
    ∃ c', (s.cutLeaves by_ [r]).ctx? x = some c' ∧ CutOf c (covers [r] x) c' := by
  simp only [State.cutLeaves, List.foldl_cons, List.foldl_nil]
  cases hr : s.ctx? r.1 with
  | none =>
    have : r.1 ≠ x := fun h => by simp [h, hx] at hr
    exact ⟨c, hx, rfl, fun va => by simp [covers, this]⟩
  | some d =>
    obtain ⟨ts, hts⟩ := (TablesOnly.setLeaves hr by_ (d.leaves.flatMap fun f => f.cut r.2.1 r.2.2)).ctx_some
      (State.ctx?_setCtx s r.1 _)
    simp only
    rw [State.freeMem_some hts]
    by_cases h : r.1 = x
    · subst h
      obtain rfl : d = c := Option.some.inj (hr.symm.trans hx)
      exact ⟨_, State.ctx?_setCtx .., rfl, fun va => by simp [covers, leafTrans_cuts]⟩
    · obtain ⟨ts', hts'⟩ := (TablesOnly.setLeaves hr by_ (d.leaves.flatMap fun f => f.cut r.2.1 r.2.2)).ctx_some
        ((State.ctx?_setCtx_ne s _ (Ne.symm h)).trans hx)
      exact ⟨_, (State.ctx?_setCtx_ne _ _ (Ne.symm h)).trans hts', rfl, fun va => by simp [covers, h]⟩

theorem State.cutLeaves_ctx? {s : State} {x : Nat} {c : Ctx} (hx : s.ctx? x = some c) (by_ : Nat) (rs : List (Nat × Nat × Nat)) :
    ∃ c', (s.cutLeaves by_ rs).ctx? x = some c' ∧ CutOf c (covers rs x) c' := by
  induction rs generalizing s c with
  | nil => exact ⟨c, hx, rfl, fun va => by simp [covers]⟩
  | cons r rs ih =>
    obtain ⟨c₁, h₁, claim₁, trans₁⟩ := State.cutLeaves_one hx by_ r
    obtain ⟨c₂, h₂, claim₂, trans₂⟩ := ih h₁
    refine ⟨c₂, h₂, claim₂.trans claim₁, fun va => ?_⟩
    rw [trans₂, trans₁, covers_cons r rs]
    cases covers [r] x va <;> cases covers rs x va <;> rfl

/-- A revocation for which nothing fails cuts a context's leaves. -/
theorem State.revokeRanges_ctx? {s : State} {x : Nat} {c : Ctx} (hx : s.ctx? x = some c) (by_ : Nat)
    {rs : List (Nat × Nat × Nat)} (hf : s.failedItems rs = []) (hc : s.colls = []) :
    ∃ c', (s.revokeRanges by_ rs).ctx? x = some c' ∧ CutOf c (covers rs x) c' := by
  rw [State.revokeRanges_of_idle by_ (.cutLeaves ..) hf hc]
  exact State.cutLeaves_ctx? (s := s.markSaved rs) hx by_ rs

/-! ### What follows a change of claims (20:R291; 16:R249, R255) -/

/-- Neither the contexts nor memory differ. -/
def SameTree (s t : State) : Prop := t.ctxs = s.ctxs ∧ t.mem = s.mem

namespace SameTree

variable {s t u : State}

theorem refl (s : State) : SameTree s s := ⟨rfl, rfl⟩

theorem trans (h : SameTree s t) (g : SameTree t u) : SameTree s u := ⟨g.1.trans h.1, g.2.trans h.2⟩

theorem ctx? (h : SameTree s t) (x : Nat) : t.ctx? x = s.ctx? x := by simp only [State.ctx?, h.1]

theorem foldl {α : Type} {f : State → α → State} (h : ∀ s a, SameTree s (f s a)) (l : List α) (s : State) :
    SameTree s (l.foldl f s) :=
  List.foldlRecOn (motive := SameTree s) l f (refl s) fun _ ht a _ => ht.trans (h _ a)

theorem ite {p : Prop} [Decidable p] (h : SameTree s t) (g : SameTree s u) : SameTree s (if p then t else u) := by
  split
  · exact h
  · exact g

theorem setCore (s : State) (c : Nat) (v : Core) : SameTree s (s.setCore c v) := ⟨rfl, rfl⟩
theorem setL2 (s : State) (i : Nat) (v : L2Slice) : SameTree s (s.setL2 i v) := ⟨rfl, rfl⟩
theorem setDie (s : State) (d : Nat) (v : Die) : SameTree s (s.setDie d v) := ⟨rfl, rfl⟩

theorem programQuota (s : State) (x k : Nat) : SameTree s (s.programQuota x k) := by
  unfold State.programQuota
  dsimp only
  split
  · exact refl s
  · exact refl s
  · exact foldl (fun _ _ => setCore ..) _ _

theorem programQuotas (s : State) (x : Nat) (ks : List Nat) : SameTree s (s.programQuotas x ks) :=
  foldl (fun _ _ => programQuota ..) _ _

theorem programL2 (s : State) (x : Nat) (c : Claim) : SameTree s (s.programL2 x c) := by
  unfold State.programL2
  dsimp only
  split
  · exact refl s
  · exact foldl (fun _ _ => setL2 ..) _ _

theorem giveRegion (s : State) (d r : Nat) (owner : Option Nat) : SameTree s (s.giveRegion d r owner) :=
  ite (refl s) (setDie ..)

theorem programRegions (s : State) (dies : List Nat) (lo cnt : Nat) : SameTree s (s.programRegions dies lo cnt) :=
  foldl (fun _ _ => foldl (fun _ _ => giveRegion ..) _ _) _ _

theorem program (s : State) (p x : Nat) (old new : Claim) : SameTree s (s.program p x old new) :=
  ((((programQuotas ..).trans (programQuotas ..)).trans (programL2 ..)).trans (programRegions ..)).trans (programRegions ..)

end SameTree

end Sys2Proof.Machine
end

section
/-! What each CTX instruction answers and leaves (21:R327, R328), case by case, and O43 from these. -/

namespace Sys2Proof.Machine

section

variable {s : State} {issuer a b block : Nat}

theorem State.child?_spec {x : Nat} {c : Ctx} (h : s.child? issuer x = some c) : s.ctx? x = some c ∧ x ≠ 0 := by
  unfold State.child? at h
  cases hx : s.ctx? x with
  | none => simp [hx] at h
  | some d =>
    simp only [hx, Option.ite_none_right_eq_some, Bool.and_eq_true, decide_eq_true_eq, Option.some.injEq] at h
    exact ⟨congrArg some h.2, h.1.2⟩

/-! ### CTXNEW -/

/-- The child that CTXNEW makes of a block (20:R289). -/
def State.newChild (s : State) (issuer block : Nat) (p : Ctx) : Ctx where
  parent := issuer
  depth := p.depth + 1
  run := 0
  gen := match s.ctx? s.freeCtxId with | some d => d.gen | none => 0
  claim := Claim.parse block
  hbase := BitVec.ofNat 64 (bits block 1024 64)
  uibase := BitVec.ofNat 64 (bits block 1088 64)
  fq := none
  posts := []
  tableRoot := BitVec.ofNat 52 (s.kernFree rootBytes)
  saveArea := 0
  saveTaken := false
  memUsed := 0
  leaves := []
  tables := []

/-- Is the block of a CTXNEW legal, with its handlers and its reserved bits? -/
structure NewBlock (b block : Nat) : Prop where
  zero : b = 0
  reserved : claimReserved block = true
  range : (Claim.parse block).inRange = true
  hbase : bits block 1024 64 % 4 = 0 ∧ bits block 1024 64 < 2 ^ 57
  uibase : bits block 1088 64 % 4 = 0 ∧ bits block 1088 64 < 2 ^ 57
  rest : bits block 1184 864 = 0

section

variable {p : Ctx} (hb : NewBlock b block) (hp : s.ctx? issuer = some p)
include hb hp

/-- What may hold a CTXNEW of a legal block back, in the order in which it is looked at. -/
theorem State.ctxNew_legal : s.ctxNew issuer a b block =
    let c := Claim.parse block
    let s' := s.setCtx s.freeCtxId (s.newChild issuer block p)
    if p.depth ≥ 8 then .refuse s 2
    else if s.aliveCount ≥ 4095 then .refuse s 3
    else if !c.within p ((s.children issuer).map (·.2.claim)) then .refuse s 1
    else if s.phasesHeld issuer + s.phasesGranted issuer + c.phcnt > p.claim.phcnt || s.gainsNamed Claim.empty c then
      .refuse s 6
    else if s'.quotasBlocked issuer c.clusters then .refuse s 8
    else if !s'.gangsOk then .refuse s 10
    else if !s'.quotaRoom s.freeCtxId c.clusters then .refuse s 1
    else { s := s'.program issuer s.freeCtxId Claim.empty c, status := 0, id := s.freeCtxId,
           wr := some (a + 144, toBytes s.freeCtxId 2 ++ toBytes (s.newChild issuer block p).gen 2) } := by
  obtain ⟨h₁, h₂, h₃, ⟨h₄, h₅⟩, ⟨h₆, h₇⟩, h₈⟩ := hb
  unfold State.ctxNew
  dsimp only
  rw [if_neg (by simp [h₁, h₂, h₃, h₄, h₆, h₈, -Nat.reducePow, h₅, h₇]), hp]
  rfl

theorem State.ctxNew_deep (h : 8 ≤ p.depth) : s.ctxNew issuer a b block = .refuse s 2 := by
  rw [State.ctxNew_legal hb hp]
  exact if_pos h

theorem State.ctxNew_full (hd : p.depth < 8) (h : 4095 ≤ s.aliveCount) : s.ctxNew issuer a b block = .refuse s 3 := by
  rw [State.ctxNew_legal hb hp]
  exact (if_neg (Nat.not_le.mpr hd)).trans (if_pos h)

theorem State.ctxNew_outside (hd : p.depth < 8) (hn : s.aliveCount < 4095)
    (h : (Claim.parse block).within p ((s.children issuer).map (·.2.claim)) = false) :
    s.ctxNew issuer a b block = .refuse s 1 := by
  rw [State.ctxNew_legal hb hp]
  exact (if_neg (Nat.not_le.mpr hd)).trans ((if_neg (Nat.not_le.mpr hn)).trans (if_pos (by simp [h])))

/-- With room for the claim, the quota registers and gangs decide. -/
theorem State.ctxNew_room (hd : p.depth < 8) (hn : s.aliveCount < 4095)
    (hw : (Claim.parse block).within p ((s.children issuer).map (·.2.claim)) = true)
    (hph : s.phasesHeld issuer + s.phasesGranted issuer + (Claim.parse block).phcnt ≤ p.claim.phcnt)
    (hg : s.gainsNamed Claim.empty (Claim.parse block) = false) :
    s.ctxNew issuer a b block =
      let c := Claim.parse block
      let s' := s.setCtx s.freeCtxId (s.newChild issuer block p)
      if s'.quotasBlocked issuer c.clusters then .refuse s 8
      else if !s'.gangsOk then .refuse s 10
      else if !s'.quotaRoom s.freeCtxId c.clusters then .refuse s 1
      else { s := s'.program issuer s.freeCtxId Claim.empty c, status := 0, id := s.freeCtxId,
             wr := some (a + 144, toBytes s.freeCtxId 2 ++ toBytes (s.newChild issuer block p).gen 2) } := by
  rw [State.ctxNew_legal hb hp]
  exact (if_neg (Nat.not_le.mpr hd)).trans ((if_neg (Nat.not_le.mpr hn)).trans ((if_neg (by simp [hw])).trans
    (if_neg (by simp [hg, Nat.not_lt.mpr hph]))))

end

/-! ### CTXGRANT, CTXRUN -/

/-- A grant that meets nothing that holds it back. -/
theorem State.ctxGrant_goes {p c : Ctx} {n : Claim} (hn : n = Claim.parse block) (hb : s.child? issuer b = some c)
    (hp : s.ctx? issuer = some p) (hr : claimReserved block = true) (hi : n.inRange = true) (ha : c.alive = true)
    (hc : n.contains c.claim = true) (hw : n.within p (s.siblings issuer b) = true)
    (hph : s.phasesHeld issuer + ((s.siblings issuer b).map (·.phcnt)).sum + n.phcnt ≤ p.claim.phcnt)
    (hg : s.gainsNamed c.claim n = false)
    (hq : (s.startAllDue.setCtx b { c with claim := n }).quotasBlocked issuer n.clusters = false)
    (hq' : (s.startAllDue.setCtx b { c with claim := n }).quotasBlocked b n.clusters = false)
    (hk : (s.startAllDue.setCtx b { c with claim := n }).gangsOk = true)
    (hm : (s.startAllDue.setCtx b { c with claim := n }).quotaRoom b n.clusters = true) :
    s.ctxGrant issuer b block =
      { s := (s.startAllDue.setCtx b { c with claim := n }).program issuer b c.claim n, status := 0 } := by
  subst hn
  simp [State.ctxGrant, hb, hp, hr, hi, ha, hc, hw, Nat.not_lt.mpr hph, hg, hq, hq', hk, hm]

theorem State.ctxRun_again {c : Ctx} (hb : s.child? issuer b = some c) (ha : c.alive = true) (ht : c.saveTaken = true) :
    s.ctxRun issuer b = { s := s.setCtx b { c with run := 1 }, status := 0 } := by simp [State.ctxRun, hb, ha, ht]

/-- The first CTXRUN takes the save area, where the budget has room for it. -/
theorem State.ctxRun_first {c : Ctx} (hb : s.child? issuer b = some c) (ha : c.alive = true) (ht : c.saveTaken = false) :
    s.ctxRun issuer b =
      if c.claim.mem < c.memUsed + 2 ^ 22 * c.claim.clusters.length + ((s.children b).map fun e => e.2.claim.mem).sum then
        .refuse s 7
      else { status := 0, s := s.setCtx b { c with
        run := 1, saveArea := BitVec.ofNat 64 (s.kernFree (160 * 2 ^ 22)), saveTaken := true
        memUsed := c.memUsed + 2 ^ 22 * c.claim.clusters.length } } := by
  simp [State.ctxRun, hb, ha, ht]

/-! ### CTXMAP, CTXUNMAP -/

/-- The MEM that a child uses once leaves are mapped over an extent (20:R292). -/
def Ctx.usedWith (c : Ctx) (m : MapBlock) (fs : List Leaf) : Nat :=
  c.memUsed - ((c.leaves.map Leaf.cost).sum - ((c.leaves.flatMap fun f => f.cut m.cva m.ext).map Leaf.cost).sum) +
    (fs.map Leaf.cost).sum

/-- The child `b` with leaves in place of what it maps in the ranges, and with what they are charged. -/
def State.withLeaves (s : State) (by_ b : Nat) (c : Ctx) (rs : List (Nat × Nat × Nat)) (fs : List Leaf) (used : Nat) : State :=
  let t := if rs.isEmpty then s else s.revokeRanges by_ rs
  let t := t.setLeaves by_ b (((t.ctx? b).getD c).leaves ++ fs)
  t.setCtx b { (t.ctx? b).getD c with memUsed := used }

/-- What a root's VER mapping adds: the records of the words, and the tables beside the shadow region (16:R247). -/
def State.withRecords (s old : State) (issuer : Nat) (m : MapBlock) : State :=
  if issuer = 0 && m.ver then (s.giveVer old m.pva m.ext).rootTables m.shadow (8 * m.ext) else s

/-- What CTXMAP answers and leaves once its leaves are composed. -/
def State.mapInto (s : State) (issuer b : Nat) (c : Ctx) (m : MapBlock) (fs : List Leaf) : CtxOut :=
  let rs := State.removedFrom treeFuel s b m.cva m.ext
  if c.usedWith m fs + ((s.children b).map fun e => e.2.claim.mem).sum > c.claim.mem then .refuse s 7
  else { s := (s.withLeaves (issuer % 64) b c rs fs (c.usedWith m fs)).withRecords s issuer m, status := 0,
         ranges := if rs.isEmpty then none else some rs }

theorem TablesOnly.withRecords (s old : State) (issuer : Nat) (m : MapBlock) : TablesOnly s (s.withRecords old issuer m) :=
  ite ((giveVer ..).trans (rootTables ..)) (refl s)

section

variable {c : Ctx} {m : MapBlock} (hm : m = MapBlock.parse block) (hb : s.child? issuer b = some c)
  (hok : m.ok block (issuer = 0) = true) (hv : m.ver = true → s.shadowFree m = true) (ha : c.alive = true)
include hm hb hok hv ha

/-- What a CTXMAP of a legal block into an alive child comes to: it waits for a revocation, else maps what composes. -/
theorem State.ctxMap_legal : s.ctxMap issuer b block =
    if s.revoking issuer m.pva m.ext then { s := s, status := 5, wait := true }
    else match s.compose issuer m with
      | none => .refuse s 5
      | some fs => s.mapInto issuer b c m fs := by
  subst hm
  have hv' : ((MapBlock.parse block).ver && !s.shadowFree (MapBlock.parse block)) = false := by
    cases h : (MapBlock.parse block).ver with
    | false => rfl
    | true => simp [hv h]
  simp only [State.ctxMap, hb, hok, hv', ha, Bool.not_true, Bool.or_self, Bool.false_eq_true, if_false]
  rfl

theorem State.ctxMap_waits (hr : s.revoking issuer m.pva m.ext = true) :
    s.ctxMap issuer b block = { s := s, status := 5, wait := true } := by
  rw [State.ctxMap_legal hm hb hok hv ha, if_pos hr]

theorem State.ctxMap_unmapped (hr : s.revoking issuer m.pva m.ext = false) (hf : s.compose issuer m = none) :
    s.ctxMap issuer b block = .refuse s 5 := by
  rw [State.ctxMap_legal hm hb hok hv ha, if_neg (by simp [hr]), hf]

theorem State.ctxMap_goes {fs : List Leaf} (hr : s.revoking issuer m.pva m.ext = false) (hf : s.compose issuer m = some fs) :
    s.ctxMap issuer b block = s.mapInto issuer b c m fs := by
  rw [State.ctxMap_legal hm hb hok hv ha, if_neg (by simp [hr]), hf]

end

/-- The child after such a CTXMAP, where nothing fails for what it takes away. -/
theorem State.withLeaves_child {c : Ctx} {fs : List Leaf} {rs : List (Nat × Nat × Nat)} (hb : s.ctx? b = some c)
    (by_ used : Nat) (hf : s.failedItems rs = []) (hc : s.colls = []) :
    ∃ c', (s.withLeaves by_ b c rs fs used).ctx? b = some c' ∧ c'.claim = c.claim ∧ c'.memUsed = used ∧
      (∀ f ∈ fs, f ∈ c'.leaves) ∧ (rs = [] → c'.leaves = c.leaves ++ fs) := by
  unfold State.withLeaves
  generalize ht : (if rs.isEmpty then s else s.revokeRanges by_ rs) = t
  obtain ⟨d, hd, hclaim, hleaves⟩ : ∃ d, t.ctx? b = some d ∧ d.claim = c.claim ∧ (rs = [] → d.leaves = c.leaves) := by
    subst ht
    cases rs with
    | nil => exact ⟨c, hb, rfl, fun _ => rfl⟩
    | cons r rs =>
      obtain ⟨d, hd, hcut⟩ := State.revokeRanges_ctx? hb by_ hf hc
      exact ⟨d, hd, hcut.1, nofun⟩
  obtain ⟨ts, hts⟩ := (TablesOnly.setLeaves hd by_ (d.leaves ++ fs)).ctx_some (State.ctx?_setCtx ..)
  simp only [hd, Option.getD_some, hts]
  exact ⟨_, State.ctx?_setCtx .., hclaim, rfl, fun f hf => List.mem_append_right _ hf, fun h => by rw [hleaves h]⟩

theorem State.ctxUnmap_illegal {c : Ctx} {n : Nat} (hb : s.child? issuer b = some c)
    (h : a % 4096 ≠ 0 ∨ n % 4096 ≠ 0 ∨ 2 ^ 57 < a + n) : s.ctxUnmap issuer a b n = .refuse s 9 := by
  have illegal : (a % 4096 ≠ 0 || n % 4096 ≠ 0 || decide (a + n > 2 ^ 57)) = true := by simpa [or_assoc] using h
  simp only [State.ctxUnmap, hb, if_pos illegal]

theorem State.ctxUnmap_goes {c : Ctx} {n : Nat} (hb : s.child? issuer b = some c) (ha : a % 4096 = 0) (hn : n % 4096 = 0)
    (hle : a + n ≤ 2 ^ 57) (hal : c.alive = true) :
    s.ctxUnmap issuer a b n = { s := s.revokeRanges (issuer % 64) (State.removedFrom treeFuel s b a n), status := 0,
                                ranges := some (State.removedFrom treeFuel s b a n) } := by
  simp [State.ctxUnmap, hb, ha, hn, hal, -Nat.reducePow, Nat.not_lt.mpr hle]

/-- After the revocation of what a context maps in a range, its leaves translate nothing there, and other addresses as
before. -/
theorem State.leafTrans_unmapped {c : Ctx} {n : Nat} {rs : List (Nat × Nat × Nat)} (hb : s.ctx? b = some c) (by_ : Nat)
    (hrs : rs = State.removedFrom treeFuel s b a n) (hf : s.failedItems rs = []) (hc : s.colls = [])
    (hin : ∀ r ∈ rs, r.1 = b → a ≤ r.2.1 ∧ r.2.1 + r.2.2 ≤ a + n) :
    ∃ c', (s.revokeRanges by_ rs).ctx? b = some c' ∧
      ∀ va, leafTrans c'.leaves va = if a ≤ va ∧ va < a + n then none else leafTrans c.leaves va := by
  obtain ⟨c', hc', -, htrans⟩ := State.revokeRanges_ctx? hb by_ hf hc
  refine ⟨c', hc', fun va => ?_⟩
  rw [htrans]
  by_cases hva : a ≤ va ∧ va < a + n
  · rw [if_pos hva]
    by_cases hm : leafTrans c.leaves va = none
    · rw [hm, ite_self]
    · rw [hrs, State.covers_removedFrom hb hva.1 hva.2 hm, if_pos rfl]
  · rw [if_neg hva, if_neg]
    intro hcov
    obtain ⟨r, hr, hin'⟩ := List.any_eq_true.mp hcov
    simp only [Bool.and_eq_true, decide_eq_true_eq] at hin'
    obtain ⟨⟨hx, hlo⟩, hhi⟩ := hin'
    have := hin r hr hx
    omega

/-! ### CTXQ -/

/-- A queue that is not the issuer's. -/
theorem State.ctxQ_foreign {p : Ctx} {q op image : Nat} (hp : s.ctx? issuer = some p)
    (hq : rangeIn (q, 1) (p.claim.qlo, p.claim.qcnt) = false) : s.ctxQ issuer a q op image = .refuse s 11 := by
  simp [State.ctxQ, hp, hq]

section

variable {p : Ctx} {q image : Nat} (hp : s.ctx? issuer = some p) (hq : rangeIn (q, 1) (p.claim.qlo, p.claim.qcnt) = true)
include hp hq

/-- Operation 0 writes the descriptor; PASID is the root's to write. -/
theorem State.ctxQ_write {n : Queue} {c : Ctx} (hn : n = Queue.parse image) (hok : n.ok image = true)
    (hd : s.descends issuer n.ctx = true) (hc : s.ctx? n.ctx = some c)
    (hr : rangeIn (q, 1) (c.claim.qlo, c.claim.qcnt) = true)
    {old : Queue} (ho : old = s.queues.getD q Queue.blank) (hf : old.v = false ∨ old.head = old.tail) :
    s.ctxQ issuer a q 0 image = { status := 0, s := { s with queues := s.queues.set q { n with
      pasid := if issuer = 0 then n.pasid else old.pasid, halted := old.v && old.halted, skip := old.skip
      host := old.host } } } := by
  subst hn ho
  have idle : ¬ ((s.queues.getD q Queue.blank).v &&
      decide ((s.queues.getD q Queue.blank).head ≠ (s.queues.getD q Queue.blank).tail)) = true := by
    rcases hf with h | h <;> simp [h]
  simp only [State.ctxQ, hp, hq, hok, hd, hc, hr, if_neg idle, Bool.not_true, Bool.false_eq_true, if_false]

/-- Operation 1 resumes the queue behind the card at which it halted. -/
theorem State.ctxQ_resume {old : Queue} (ho : old = s.queues.getD q Queue.blank) (hv : old.v = true) :
    s.ctxQ issuer a q 1 image = { status := 0, s := { s with queues := s.queues.set q { old with
      halted := false, head := (old.head + old.skip) % 2 ^ old.log2sz, skip := 0 } } } := by
  subst ho
  simp [State.ctxQ, hp, hq, hv, Queue.size]

/-- Operation 2 gives the image. -/
theorem State.ctxQ_read {old : Queue} (ho : old = s.queues.getD q Queue.blank) :
    s.ctxQ issuer a q 2 image = { s := s, status := 0, wr := some (a, toBytes old.image 32) } := by
  subst ho
  simp [State.ctxQ, hp, hq]

/-- Operation 3 takes the queue out of use. -/
theorem State.ctxQ_disable {old : Queue} (ho : old = s.queues.getD q Queue.blank) (hf : old.v = false ∨ old.head = old.tail) :
    s.ctxQ issuer a q 3 image =
      { s := { (s.detach q) with queues := s.queues.set q { old with v := false } }, status := 0 } := by
  subst ho
  rcases hf with h | h <;> simp [State.ctxQ, hp, hq, h]

end

/-! ### A target that is no child -/

theorem State.ctxDo_no_child {x c w2 : Nat}
    (h : (1 ≤ x ∧ x ≤ 6 ∧ s.child? issuer b = none) ∨ (x = 8 ∧ s.child? issuer a = none)) :
    s.ctxDo x issuer a b c w2 block = .refuse s 4 := by
  rcases h with ⟨h₁, h₆, hb⟩ | ⟨rfl, ha⟩
  · obtain rfl | rfl | rfl | rfl | rfl | rfl : x = 1 ∨ x = 2 ∨ x = 3 ∨ x = 4 ∨ x = 5 ∨ x = 6 := by omega
    · simp [State.ctxDo, State.ctxGrant, hb]
    · simp [State.ctxDo, State.ctxRevoke, hb]
    · simp [State.ctxDo, State.ctxMap, hb]
    · simp [State.ctxDo, State.ctxUnmap, hb]
    · simp [State.ctxDo, State.ctxRun, hb]
    · simp [State.ctxDo, State.ctxStop, hb]
  · simp [State.ctxDo, State.ctxQAttach, ha]

end

/-- Settles O43: each answer by the equation of its instruction, what CTXMAP and CTXUNMAP leave by what a cut leaves of a
context's leaves. -/
theorem contextOperations : Obligations.ContextOperations := by
  unfold Obligations.ContextOperations
  refine ⟨?ctxNew, ?noChild, ?ctxGrant, ?ctxMap, ?ctxUnmap, ?ctxRun, ?ctxQ⟩
  case ctxNew =>
    intro s issuer a b block p c hc hp hb hr hi hh hu hh57 hu57 hrest out
    subst hc
    have legal : NewBlock b block := ⟨hb, hr, hi, ⟨hh, hh57⟩, ⟨hu, hu57⟩, hrest⟩
    refine ⟨fun h => ?_, fun hd h => ?_, fun hd hn h => ?_, fun hd hn hw hph hg => ?_⟩
    · rw [show out = _ from State.ctxNew_deep legal hp h]
      exact ⟨rfl, rfl⟩
    · rw [show out = _ from State.ctxNew_full legal hp hd h]
      exact ⟨rfl, rfl⟩
    · rw [show out = _ from State.ctxNew_outside legal hp hd hn h]
      exact ⟨rfl, rfl⟩
    · rw [show out = _ from State.ctxNew_room legal hp hd hn hw hph hg]
      refine ⟨s.newChild issuer block p, rfl, rfl, rfl, rfl, rfl, rfl, rfl, rfl, rfl, rfl, rfl,
        fun d hd => by simp [State.newChild, hd], ?_⟩
      intro s'
      refine ⟨fun hq => ?_, fun hq hk => ?_, fun hq hk hm => ?_⟩
      · rw [if_pos hq]
        exact ⟨rfl, rfl⟩
      · rw [if_neg (by simp [s', hq]), if_pos (by simp [s', hk])]
        exact ⟨rfl, rfl⟩
      · rw [if_neg (by simp [s', hq]), if_neg (by simp [s', hk]), if_neg (by simp [s', hm])]
        have tree := SameTree.program s' issuer s.freeCtxId Claim.empty (Claim.parse block)
        exact ⟨rfl, rfl, (tree.ctx? _).trans (State.ctx?_setCtx ..), tree.2, rfl,
          fun x hx => (tree.ctx? x).trans (State.ctx?_setCtx_ne _ _ hx)⟩
  case noChild =>
    intro s x issuer a b c w2 block h
    rw [State.ctxDo_no_child h]
    exact ⟨rfl, rfl⟩
  case ctxGrant =>
    intro s issuer b block p c n hn hb hp hr hi ha hc hw hph hg s' hq hq' hk hm
    rw [State.ctxGrant_goes hn hb hp hr hi ha hc hw hph hg hq hq' hk hm]
    exact ⟨rfl, ((SameTree.program ..).ctx? b).trans (State.ctx?_setCtx ..)⟩
  case ctxMap =>
    intro s issuer b block c m hm hb hok hv ha out
    refine ⟨fun hr => ?_, fun hr hn => ?_, fun fs used rs hr hfs hrs hu => ?_⟩
    · rw [show out = _ from State.ctxMap_waits hm hb hok hv ha hr]
      exact ⟨rfl, rfl⟩
    · rw [show out = _ from State.ctxMap_unmapped hm hb hok hv ha hr hn]
      exact ⟨rfl, rfl⟩
    · rw [show out = _ from State.ctxMap_goes hm hb hok hv ha hr hfs]
      obtain rfl : used = c.usedWith m fs := hu
      subst hrs
      refine ⟨fun h => ?_, fun h hfail hcolls => ?_⟩
      · rw [State.mapInto, if_pos h]
        exact ⟨rfl, rfl⟩
      · rw [State.mapInto, if_neg (Nat.not_lt.mpr h)]
        refine ⟨rfl, by simp, ?_⟩
        obtain ⟨c', hc', child⟩ :=
          State.withLeaves_child (fs := fs) (State.child?_spec hb).1 (issuer % 64) (c.usedWith m fs) hfail hcolls
        obtain ⟨ts, hts⟩ := (TablesOnly.withRecords _ s issuer m).ctx_some hc'
        exact ⟨_, hts, child⟩
  case ctxUnmap =>
    intro s issuer a b n c rs hb out
    obtain ⟨hx, hx0⟩ := State.child?_spec hb
    refine ⟨fun h => ?_, fun ha hn hle hal hrs hfail hcolls hin => ?_⟩
    · rw [show out = _ from State.ctxUnmap_illegal hb h]
      exact ⟨rfl, rfl⟩
    · rw [show out = _ from State.ctxUnmap_goes hb ha hn hle hal, ← hrs]
      obtain ⟨c', hc', htrans⟩ := State.leafTrans_unmapped hx (issuer % 64) hrs hfail hcolls hin
      refine ⟨rfl, rfl, fun va hlo hhi => ?_, fun va f hva hf => ?_⟩
      · rw [← Option.map_eq_none_iff (f := (·.transAt va)), State.leafAt_transAt hx0 hc', htrans, if_pos ⟨hlo, hhi⟩]
      · have kept : ((s.revokeRanges (issuer % 64) rs).leafAt b va).map (·.transAt va) = some (f.transAt va) := by
          rw [State.leafAt_transAt hx0 hc', htrans, if_neg (by omega), ← State.leafAt_transAt hx0 hx, hf, Option.map_some]
        obtain ⟨g, hg, hgf⟩ := Option.map_eq_some_iff.mp kept
        simp only [Leaf.transAt, Prod.mk.injEq] at hgf
        exact ⟨g, hg, hgf⟩
  case ctxRun =>
    intro s issuer b c hb ha out area granted
    refine ⟨fun ht => ?_, fun ht hle => ?_, fun ht hlt => ?_⟩
    · rw [show out = _ from State.ctxRun_again hb ha ht]
      exact ⟨rfl, State.ctx?_setCtx ..⟩
    · rw [show out = _ from State.ctxRun_first hb ha ht, if_neg (Nat.not_lt.mpr hle)]
      exact ⟨rfl, _, State.ctx?_setCtx .., rfl, rfl, rfl, rfl⟩
    · rw [show out = _ from State.ctxRun_first hb ha ht, if_pos hlt]
      exact ⟨rfl, rfl⟩
  case ctxQ =>
    intro s issuer a q op image p old hp ho out
    refine ⟨fun hq => ?_, fun hq => ⟨fun n c h0 hn hok hd hc hr hf => ?_, fun h1 hv => ?_, fun h2 => ?_, fun h3 hf => ?_⟩⟩
    · rw [show out = _ from State.ctxQ_foreign hp hq]
      exact ⟨rfl, rfl⟩
    · subst h0
      rw [show out = _ from State.ctxQ_write hp hq hn hok hd hc hr ho hf]
      exact ⟨rfl, _, Map.get?_set_same .., rfl, rfl, rfl, rfl, rfl, rfl, rfl, rfl, rfl, rfl⟩
    · subst h1
      rw [show out = _ from State.ctxQ_resume hp hq ho hv]
      exact ⟨rfl, Map.get?_set_same ..⟩
    · subst h2
      rw [show out = _ from State.ctxQ_read hp hq ho]
      exact ⟨rfl, rfl, rfl⟩
    · subst h3
      rw [show out = _ from State.ctxQ_disable hp hq ho hf]
      exact ⟨rfl, Map.get?_set_same ..⟩

end Sys2Proof.Machine
end
